-- ==== Sys2Proof/Word.lean ====
section
/-! DEFINITION. Words of the Arotte AX24: the bit widths that the manual names (spec/00 R5, R6) and the shape of a
table kept by key. -/

namespace Sys2Proof

/-- A byte of memory (spec/00 R7). -/
abbrev Byte := BitVec 8
/-- A scalar register (Table 00-4). -/
abbrev W64 := BitVec 64
/-- A 32-bit word. -/
abbrev W32 := BitVec 32
/-- A capability (Table 02-8). -/
abbrev Cap := BitVec 128
/-- A predicate register: one bit per 16-bit lane (Table 00-4). -/
abbrev Pred := BitVec 128
/-- A shape register (Table 06-5). -/
abbrev Shape := BitVec 512
/-- A vector register (Table 00-4). -/
abbrev VecReg := BitVec 2048
/-- A work-queue record (Table 01-5). -/
abbrev Rec := BitVec 512

/-- A table by key: the keys rise strictly, and no entry equals what an unlisted key holds. -/
abbrev Tab (α : Type) := List (Nat × α)

end Sys2Proof
end

