-- ==== Sys2Proof/Syntax.lean ====
section
/-! DEFINITION. The instructions of Dexxus and the events of the machine: one constructor for each row of
spec/opcode_table.json (437 rows). The slot operations (spec/05 Tables 05-3 to 05-13, spec/13 Table 13-2) come first,
then the events of spec/95. -/

namespace Sys2Proof

/-- The scalar unit an S-slot operation is in (Table 05-1). -/
inductive SU where
  | s0 | s1
deriving DecidableEq, Repr

/-- The vector unit a V-slot operation is in (Table 05-1). -/
inductive VU where
  | v0 | v1
deriving DecidableEq, Repr

/-- Scopes (Table 00-2), codes 0 to 5 (Table 05-4). -/
inductive Scope where
  | ctx | core | cl | die | mod | dom
deriving DecidableEq, Repr

/-- What an 8-bit source specifier selects (Table 05-5); unassigned specifiers have no constructor. -/
inductive Src where
  | s (n : Fin 64) | a (n : Fin 16) | v (n : Fin 32) | p (n : Fin 24) | sh (n : Fin 16)
  | latS0 | latS1 | latV0 | latV1 | latM | latX | latC
  | q (n : Fin 8) | imm (i : BitVec 6)
deriving DecidableEq, Repr

/-- Operations of a home unit on a word (Table 06-11), with the plain load and store of a strong access. -/
inductive HomeOp where
  | ld | st | add | and | or | xor | minI | maxI | minZ | maxZ | swap | cas
deriving DecidableEq, Repr

/-- Who presents a request to a home unit, in the order of spec/04 R129. -/
inductive HomeParty where
  | ialas (arrival : Nat) | host (port : Nat) | engine | context (lcore ctx : Nat)
deriving DecidableEq, Repr

/-- A request at a word's home: the physical byte address, the word's bytes (1, 2, 4 or 8), the operation and its
operands. -/
structure HomeReq where
  party : HomeParty
  addr : Nat
  bytes : Nat
  op : HomeOp
  v : W64
  v2 : W64
deriving DecidableEq, Repr

/-- An Ialas packet: the header of Table 16-4 and its payload blocks. `res` says that a res0 bit is set. -/
structure Packet where
  src : BitVec 13
  dst : BitVec 13
  vc : BitVec 2
  path : BitVec 4
  seq : BitVec 48
  epoch : BitVec 2
  enc : Bool
  res : Bool
  op : BitVec 5
  len : BitVec 9
  bmask : BitVec 16
  ofl : Bool
  obj : BitVec 24
  off : BitVec 39
  fd : Bool
  hac : BitVec 64
  payload : List (BitVec 128)
deriving DecidableEq, Repr

/-- What join control carries between modules (spec/09 R271 to R275). -/
inductive JoinMsg where
  | arrive (handle : W64) (member : W64)
  | rule (handle : W64) (rule : W64)
  | kill (core ctx : Nat) (handle : W64) (gen : Nat)
  | released (handle : W64) (gen : Nat)
  /-- A kill has taken effect: its record (Table 09-9), to be numbered and written by the home. -/
  | killed (handle : W64) (record : BitVec 512)
  /-- A context asks for a generation's release; and the answer. -/
  | wait (handle : W64) (gen : Nat)
  | told (handle : W64) (gen : Nat)
deriving DecidableEq, Repr

/-- What a page request or a translation was answered (spec/15 R372). -/
inductive PriAnswer where
  | success | invalid | failure
deriving DecidableEq, Repr

/-- Where a soft error strikes (Table 15-7): the storage, and what the location is. -/
inductive ErrUnit where
  | l1 | scratchpad | registerBank | accumulatorBank | llc | hbm4 | control
deriving DecidableEq, Repr

/-- How a soft error is dealt with (Table 15-7, Table 15-9 ekind). -/
inductive ErrFate where
  | refetched | corrected | poisoned
deriving DecidableEq, Repr

/-- What an access to a port's configuration or to its CXL.io memory regions is (spec/15 R372, spec/16 R389 to R393): page requests
enabled with an allocation, an HDM decoder committed, the IDE streams established or not; a read of n bytes of a region, and a
write of bytes there (0: register window, 1: queue window, 2: management window). -/
inductive PortConfig where
  | pageRequests (alloc : Nat)
  | decoder (base len dbase : Nat) (targets : List Nat)
  | streams (on : Bool)
  | ioRead (region off n : Nat)
  | ioWrite (region off : Nat) (data : List Byte)
deriving DecidableEq, Repr

/-- How a candidate answers an admission (spec/16 R401): it is not reached; its certificates, its challenge or the key exchange fail;
or all that is sound, and its chain ends at the given root public key and its measurement summary is the given one. -/
inductive AdmitOutcome where
  | unreachable | attestation
  | admitted (root : List Byte) (summary : BitVec 512)
deriving DecidableEq, Repr

/-- The four keys of an epoch (spec/16 R402). -/
structure EpochKeys where
  k1 : BitVec 256
  k2 : BitVec 256
  k3 : BitVec 256
  kh : BitVec 256
deriving DecidableEq, Repr, Inhabited

/-- The claimants that write system control registers or take the semaphore (spec/13 R336). -/
inductive Claimant where
  | port (p : Nat) | supervisor (die lcore : Nat) | monitor
deriving DecidableEq, Repr

/-- The functions that report ready (Table 17-2). -/
inductive ReadyFn where
  | brosy | die (d : Nat) | stack (k : Nat) | hostPort (p : Nat) | ethPort (p : Nat) | fabric
deriving DecidableEq, Repr

/-- One constructor for each row of spec/opcode_table.json. In slot operations d names the destination (none: the
latch only, Table 05-4), a and b the sources, in the order of the assembly form. -/
inductive Instr where
  | addI64 (u : SU) (d : Option (Fin 64)) (a : Src) (b : Src)
  | subI64 (u : SU) (d : Option (Fin 64)) (a : Src) (b : Src)
  | minI64 (u : SU) (d : Option (Fin 64)) (a : Src) (b : Src)
  | maxI64 (u : SU) (d : Option (Fin 64)) (a : Src) (b : Src)
  | addsI64 (u : SU) (d : Option (Fin 64)) (a : Src) (b : Src)
  | minZ64 (u : SU) (d : Option (Fin 64)) (a : Src) (b : Src)
  | maxZ64 (u : SU) (d : Option (Fin 64)) (a : Src) (b : Src)
  | addI32 (u : SU) (d : Option (Fin 64)) (a : Src) (b : Src)
  | subI32 (u : SU) (d : Option (Fin 64)) (a : Src) (b : Src)
  | minI32 (u : SU) (d : Option (Fin 64)) (a : Src) (b : Src)
  | maxI32 (u : SU) (d : Option (Fin 64)) (a : Src) (b : Src)
  | addsI32 (u : SU) (d : Option (Fin 64)) (a : Src) (b : Src)
  | minZ32 (u : SU) (d : Option (Fin 64)) (a : Src) (b : Src)
  | maxZ32 (u : SU) (d : Option (Fin 64)) (a : Src) (b : Src)
  | and (u : SU) (d : Option (Fin 64)) (a : Src) (b : Src)
  | or (u : SU) (d : Option (Fin 64)) (a : Src) (b : Src)
  | xor (u : SU) (d : Option (Fin 64)) (a : Src) (b : Src)
  | andn (u : SU) (d : Option (Fin 64)) (a : Src) (b : Src)
  | orn (u : SU) (d : Option (Fin 64)) (a : Src) (b : Src)
  | not (u : SU) (d : Option (Fin 64)) (a : Src)
  | shl (u : SU) (d : Option (Fin 64)) (a : Src) (b : Src)
  | shr (u : SU) (d : Option (Fin 64)) (a : Src) (b : Src)
  | sar (u : SU) (d : Option (Fin 64)) (a : Src) (b : Src)
  | ceq (u : SU) (d : Option (Fin 64)) (a : Src) (b : Src)
  | cne (u : SU) (d : Option (Fin 64)) (a : Src) (b : Src)
  | cltI64 (u : SU) (d : Option (Fin 64)) (a : Src) (b : Src)
  | cleI64 (u : SU) (d : Option (Fin 64)) (a : Src) (b : Src)
  | cltZ64 (u : SU) (d : Option (Fin 64)) (a : Src) (b : Src)
  | cleZ64 (u : SU) (d : Option (Fin 64)) (a : Src) (b : Src)
  | mul (u : SU) (d : Option (Fin 64)) (a : Src) (b : Src)
  | mulhI64 (u : SU) (d : Option (Fin 64)) (a : Src) (b : Src)
  | mulhZ64 (u : SU) (d : Option (Fin 64)) (a : Src) (b : Src)
  | divI64 (u : SU) (d : Option (Fin 64)) (a : Src) (b : Src)
  | divZ64 (u : SU) (d : Option (Fin 64)) (a : Src) (b : Src)
  | remI64 (u : SU) (d : Option (Fin 64)) (a : Src) (b : Src)
  | remZ64 (u : SU) (d : Option (Fin 64)) (a : Src) (b : Src)
  | divI32 (u : SU) (d : Option (Fin 64)) (a : Src) (b : Src)
  | divZ32 (u : SU) (d : Option (Fin 64)) (a : Src) (b : Src)
  | remI32 (u : SU) (d : Option (Fin 64)) (a : Src) (b : Src)
  | remZ32 (u : SU) (d : Option (Fin 64)) (a : Src) (b : Src)
  | li (u : SU) (d : Fin 64) (imm : BitVec 16)
  | lis (u : SU) (d : Fin 64) (k : Fin 3) (imm : BitVec 16)
  | addi (u : SU) (d : Fin 64) (imm : BitVec 16)
  | andi (u : SU) (d : Fin 64) (imm : BitVec 16)
  | mov (u : SU) (d : Option (Fin 64)) (a : Src)
  | clz (u : SU) (d : Option (Fin 64)) (a : Src)
  | ctz (u : SU) (d : Option (Fin 64)) (a : Src)
  | popc (u : SU) (d : Option (Fin 64)) (a : Src)
  | sext (u : SU) (d : Option (Fin 64)) (a : Src) (b : Src)
  | zext (u : SU) (d : Option (Fin 64)) (a : Src) (b : Src)
  | cder (u : SU) (d : Option (Fin 16)) (a : Src) (b : Src)
  | cbnd (u : SU) (d : Option (Fin 16)) (a : Src) (b : Src)
  | csetoff (u : SU) (d : Option (Fin 16)) (a : Src) (b : Src)
  | caddoff (u : SU) (d : Option (Fin 16)) (a : Src) (b : Src)
  | cmov (u : SU) (d : Option (Fin 16)) (a : Src)
  | cchk (u : SU) (d : Option (Fin 64)) (a : Src) (b : Src)
  | cget (u : SU) (d : Option (Fin 64)) (a : Src) (b : Src)
  | shld (u : SU) (d : Option (Fin 16)) (a : Src) (b : Src)
  | shldImg (u : SU) (d : Option (Fin 16)) (b : Src)
  | shset (u : SU) (d : Fin 16) (a : Src) (b : Src)
  | shget (u : SU) (d : Option (Fin 64)) (a : Src) (b : Src)
  | pand (u : SU) (d : Option (Fin 24)) (a : Src) (b : Src)
  | por (u : SU) (d : Option (Fin 24)) (a : Src) (b : Src)
  | pxor (u : SU) (d : Option (Fin 24)) (a : Src) (b : Src)
  | pandn (u : SU) (d : Option (Fin 24)) (a : Src) (b : Src)
  | pnot (u : SU) (d : Option (Fin 24)) (a : Src)
  | pmov (u : SU) (d : Option (Fin 24)) (a : Src)
  | pset (u : SU) (d : Option (Fin 24)) (a : Src)
  | pany (u : SU) (d : Option (Fin 64)) (a : Src)
  | pcnt (u : SU) (d : Option (Fin 64)) (a : Src)
  | rdsr (u : SU) (d : Option (Fin 64)) (b : Src)
  | wrsr (u : SU) (a : Src) (b : Src)
  | bfrd (u : SU) (d : Option (Fin 64)) (b : Src)
  | bfwr (u : SU) (a : Src) (b : Src)
  | ldZ8 (u : SU) (d : Option (Fin 64)) (a : Src) (b : Src)
  | ldZ16 (u : SU) (d : Option (Fin 64)) (a : Src) (b : Src)
  | ldZ32 (u : SU) (d : Option (Fin 64)) (a : Src) (b : Src)
  | ldI8 (u : SU) (d : Option (Fin 64)) (a : Src) (b : Src)
  | ldI16 (u : SU) (d : Option (Fin 64)) (a : Src) (b : Src)
  | ldI32 (u : SU) (d : Option (Fin 64)) (a : Src) (b : Src)
  | ldI64 (u : SU) (d : Option (Fin 64)) (a : Src) (b : Src)
  | ldC128 (u : SU) (d : Option (Fin 16)) (a : Src) (b : Src)
  | ldNr (u : SU) (d : Option (Fin 64)) (p : Fin 8) (a : Src) (b : Src)
  | stZ8 (u : SU) (d : Fin 64) (a : Src) (b : Src)
  | stZ16 (u : SU) (d : Fin 64) (a : Src) (b : Src)
  | stZ32 (u : SU) (d : Fin 64) (a : Src) (b : Src)
  | stZ64 (u : SU) (d : Fin 64) (a : Src) (b : Src)
  | lds (u : SU) (d : Option (Fin 64)) (a : Src) (b : Src)
  | ldsC (u : SU) (d : Option (Fin 64)) (a : Src) (b : Src)
  | sts (u : SU) (d : Fin 64) (a : Src) (b : Src)
  | stsF (u : SU) (d : Fin 64) (a : Src) (b : Src)
  | drain (u : SU) (a : Src) (b : Src)
  | ldRlx (u : SU) (d : Option (Fin 64)) (sc : Scope) (w : BitVec 2) (sg : Bool) (a : Src)
  | ldAcq (u : SU) (d : Option (Fin 64)) (sc : Scope) (w : BitVec 2) (sg : Bool) (a : Src)
  | stRlx (u : SU) (d : Fin 64) (sc : Scope) (w : BitVec 2) (a : Src)
  | stRel (u : SU) (d : Fin 64) (sc : Scope) (w : BitVec 2) (a : Src)
  | atomAdd (u : SU) (d : Fin 64) (sc : Scope) (w : BitVec 2) (o : BitVec 2) (a : Src)
  | atomAnd (u : SU) (d : Fin 64) (sc : Scope) (w : BitVec 2) (o : BitVec 2) (a : Src)
  | atomOr (u : SU) (d : Fin 64) (sc : Scope) (w : BitVec 2) (o : BitVec 2) (a : Src)
  | atomXor (u : SU) (d : Fin 64) (sc : Scope) (w : BitVec 2) (o : BitVec 2) (a : Src)
  | atomMinI (u : SU) (d : Fin 64) (sc : Scope) (w : BitVec 2) (o : BitVec 2) (a : Src)
  | atomMaxI (u : SU) (d : Fin 64) (sc : Scope) (w : BitVec 2) (o : BitVec 2) (a : Src)
  | atomMinZ (u : SU) (d : Fin 64) (sc : Scope) (w : BitVec 2) (o : BitVec 2) (a : Src)
  | atomMaxZ (u : SU) (d : Fin 64) (sc : Scope) (w : BitVec 2) (o : BitVec 2) (a : Src)
  | atomSwap (u : SU) (d : Fin 64) (sc : Scope) (w : BitVec 2) (o : BitVec 2) (a : Src)
  | atomCas (u : SU) (d : Fin 64) (sc : Scope) (w : BitVec 2) (o : BitVec 2) (a : Src)
  | qpushS (u : SU) (d : Fin 64) (q : Fin 8)
  | brS1 (c : Src) (off : BitVec 18)
  | brzS1 (c : Src) (off : BitVec 18)
  | callS1 (c : Src) (off : BitVec 18)
  | vaddF32 (u : VU) (d : Option (Fin 32)) (g : Fin 8) (a : Src) (b : Src)
  | vsubF32 (u : VU) (d : Option (Fin 32)) (g : Fin 8) (a : Src) (b : Src)
  | vmulF32 (u : VU) (d : Option (Fin 32)) (g : Fin 8) (a : Src) (b : Src)
  | vfmaF32 (u : VU) (d : Fin 32) (g : Fin 8) (a : Src) (b : Src)
  | vminF32 (u : VU) (d : Option (Fin 32)) (g : Fin 8) (a : Src) (b : Src)
  | vmaxF32 (u : VU) (d : Option (Fin 32)) (g : Fin 8) (a : Src) (b : Src)
  | vaddBf16 (u : VU) (d : Option (Fin 32)) (g : Fin 8) (a : Src) (b : Src)
  | vsubBf16 (u : VU) (d : Option (Fin 32)) (g : Fin 8) (a : Src) (b : Src)
  | vmulBf16 (u : VU) (d : Option (Fin 32)) (g : Fin 8) (a : Src) (b : Src)
  | vfmaBf16 (u : VU) (d : Fin 32) (g : Fin 8) (a : Src) (b : Src)
  | vminBf16 (u : VU) (d : Option (Fin 32)) (g : Fin 8) (a : Src) (b : Src)
  | vmaxBf16 (u : VU) (d : Option (Fin 32)) (g : Fin 8) (a : Src) (b : Src)
  | vabsF32 (u : VU) (d : Option (Fin 32)) (g : Fin 8) (a : Src)
  | vnegF32 (u : VU) (d : Option (Fin 32)) (g : Fin 8) (a : Src)
  | vexp2F32 (u : VU) (d : Option (Fin 32)) (g : Fin 8) (a : Src)
  | vrcpF32 (u : VU) (d : Option (Fin 32)) (g : Fin 8) (a : Src)
  | vrsqrtF32 (u : VU) (d : Option (Fin 32)) (g : Fin 8) (a : Src)
  | vabsBf16 (u : VU) (d : Option (Fin 32)) (g : Fin 8) (a : Src)
  | vnegBf16 (u : VU) (d : Option (Fin 32)) (g : Fin 8) (a : Src)
  | vexp2Bf16 (u : VU) (d : Option (Fin 32)) (g : Fin 8) (a : Src)
  | vrcpBf16 (u : VU) (d : Option (Fin 32)) (g : Fin 8) (a : Src)
  | vrsqrtBf16 (u : VU) (d : Option (Fin 32)) (g : Fin 8) (a : Src)
  | vaddI16 (u : VU) (d : Option (Fin 32)) (a : Src) (b : Src)
  | vsubI16 (u : VU) (d : Option (Fin 32)) (a : Src) (b : Src)
  | vmulI16 (u : VU) (d : Option (Fin 32)) (a : Src) (b : Src)
  | vminI16 (u : VU) (d : Option (Fin 32)) (a : Src) (b : Src)
  | vmaxI16 (u : VU) (d : Option (Fin 32)) (a : Src) (b : Src)
  | vaddsI16 (u : VU) (d : Option (Fin 32)) (a : Src) (b : Src)
  | vsubsI16 (u : VU) (d : Option (Fin 32)) (a : Src) (b : Src)
  | vaddI32 (u : VU) (d : Option (Fin 32)) (a : Src) (b : Src)
  | vsubI32 (u : VU) (d : Option (Fin 32)) (a : Src) (b : Src)
  | vmulI32 (u : VU) (d : Option (Fin 32)) (a : Src) (b : Src)
  | vminI32 (u : VU) (d : Option (Fin 32)) (a : Src) (b : Src)
  | vmaxI32 (u : VU) (d : Option (Fin 32)) (a : Src) (b : Src)
  | vaddsI32 (u : VU) (d : Option (Fin 32)) (a : Src) (b : Src)
  | vsubsI32 (u : VU) (d : Option (Fin 32)) (a : Src) (b : Src)
  | vaddZ16 (u : VU) (d : Option (Fin 32)) (a : Src) (b : Src)
  | vsubZ16 (u : VU) (d : Option (Fin 32)) (a : Src) (b : Src)
  | vmulZ16 (u : VU) (d : Option (Fin 32)) (a : Src) (b : Src)
  | vminZ16 (u : VU) (d : Option (Fin 32)) (a : Src) (b : Src)
  | vmaxZ16 (u : VU) (d : Option (Fin 32)) (a : Src) (b : Src)
  | vaddsZ16 (u : VU) (d : Option (Fin 32)) (a : Src) (b : Src)
  | vsubsZ16 (u : VU) (d : Option (Fin 32)) (a : Src) (b : Src)
  | vaddZ32 (u : VU) (d : Option (Fin 32)) (a : Src) (b : Src)
  | vsubZ32 (u : VU) (d : Option (Fin 32)) (a : Src) (b : Src)
  | vmulZ32 (u : VU) (d : Option (Fin 32)) (a : Src) (b : Src)
  | vminZ32 (u : VU) (d : Option (Fin 32)) (a : Src) (b : Src)
  | vmaxZ32 (u : VU) (d : Option (Fin 32)) (a : Src) (b : Src)
  | vaddsZ32 (u : VU) (d : Option (Fin 32)) (a : Src) (b : Src)
  | vsubsZ32 (u : VU) (d : Option (Fin 32)) (a : Src) (b : Src)
  | vand (u : VU) (d : Option (Fin 32)) (a : Src) (b : Src)
  | vor (u : VU) (d : Option (Fin 32)) (a : Src) (b : Src)
  | vxor (u : VU) (d : Option (Fin 32)) (a : Src) (b : Src)
  | vandn (u : VU) (d : Option (Fin 32)) (a : Src) (b : Src)
  | vnot (u : VU) (d : Option (Fin 32)) (a : Src)
  | vshlW16 (u : VU) (d : Option (Fin 32)) (a : Src) (b : Src)
  | vshrW16 (u : VU) (d : Option (Fin 32)) (a : Src) (b : Src)
  | vsarW16 (u : VU) (d : Option (Fin 32)) (a : Src) (b : Src)
  | vshlW32 (u : VU) (d : Option (Fin 32)) (a : Src) (b : Src)
  | vshrW32 (u : VU) (d : Option (Fin 32)) (a : Src) (b : Src)
  | vsarW32 (u : VU) (d : Option (Fin 32)) (a : Src) (b : Src)
  | vceqF32 (u : VU) (d : Option (Fin 24)) (a : Src) (b : Src)
  | vcneF32 (u : VU) (d : Option (Fin 24)) (a : Src) (b : Src)
  | vcltF32 (u : VU) (d : Option (Fin 24)) (a : Src) (b : Src)
  | vcleF32 (u : VU) (d : Option (Fin 24)) (a : Src) (b : Src)
  | vcunF32 (u : VU) (d : Option (Fin 24)) (a : Src) (b : Src)
  | vceqBf16 (u : VU) (d : Option (Fin 24)) (a : Src) (b : Src)
  | vcneBf16 (u : VU) (d : Option (Fin 24)) (a : Src) (b : Src)
  | vcltBf16 (u : VU) (d : Option (Fin 24)) (a : Src) (b : Src)
  | vcleBf16 (u : VU) (d : Option (Fin 24)) (a : Src) (b : Src)
  | vcunBf16 (u : VU) (d : Option (Fin 24)) (a : Src) (b : Src)
  | vceqW16 (u : VU) (d : Option (Fin 24)) (a : Src) (b : Src)
  | vcneW16 (u : VU) (d : Option (Fin 24)) (a : Src) (b : Src)
  | vcltI16 (u : VU) (d : Option (Fin 24)) (a : Src) (b : Src)
  | vcleI16 (u : VU) (d : Option (Fin 24)) (a : Src) (b : Src)
  | vcltZ16 (u : VU) (d : Option (Fin 24)) (a : Src) (b : Src)
  | vcleZ16 (u : VU) (d : Option (Fin 24)) (a : Src) (b : Src)
  | vceqW32 (u : VU) (d : Option (Fin 24)) (a : Src) (b : Src)
  | vcneW32 (u : VU) (d : Option (Fin 24)) (a : Src) (b : Src)
  | vcltI32 (u : VU) (d : Option (Fin 24)) (a : Src) (b : Src)
  | vcleI32 (u : VU) (d : Option (Fin 24)) (a : Src) (b : Src)
  | vcltZ32 (u : VU) (d : Option (Fin 24)) (a : Src) (b : Src)
  | vcleZ32 (u : VU) (d : Option (Fin 24)) (a : Src) (b : Src)
  | sel (u : VU) (d : Option (Fin 32)) (g : Fin 8) (a : Src) (b : Src)
  | perm (u : VU) (d : Option (Fin 32)) (a : Src) (b : Src)
  | rot (u : VU) (d : Option (Fin 32)) (a : Src) (b : Src)
  | bcast (u : VU) (d : Option (Fin 32)) (a : Src) (b : Src)
  | zip (u : VU) (d : Option (Fin 32)) (a : Src) (b : Src)
  | unzip (u : VU) (d : Option (Fin 32)) (a : Src) (b : Src)
  | bcastW32 (u : VU) (d : Option (Fin 32)) (a : Src) (b : Src)
  | permW32 (u : VU) (d : Option (Fin 32)) (a : Src) (b : Src)
  | raddF32 (u : VU) (d : Option (Fin 64)) (g : Fin 8) (a : Src) (b : BitVec 8)
  | raddBf16 (u : VU) (d : Option (Fin 64)) (g : Fin 8) (a : Src) (b : BitVec 8)
  | raddInt (u : VU) (d : Option (Fin 64)) (g : Fin 8) (a : Src) (b : BitVec 8)
  | rdotF32 (u : VU) (d : Option (Fin 64)) (g : Fin 8) (a : Src) (b : Src)
  | rdotBf16 (u : VU) (d : Option (Fin 64)) (g : Fin 8) (a : Src) (b : Src)
  | rmax (u : VU) (d : Option (Fin 64)) (g : Fin 8) (a : Src) (b : BitVec 8)
  | rmin (u : VU) (d : Option (Fin 64)) (g : Fin 8) (a : Src) (b : BitVec 8)
  | cvt (u : VU) (d : Fin 32) (st : BitVec 4) (rm : BitVec 3) (sat : Bool) (dt : BitVec 4) (a : Src)
  | rcupd (u : VU) (d : Option (Fin 64)) (a : Src) (b : Src)
  | rcrd (u : VU) (d : Option (Fin 32)) (b : Src)
  | rcwr (u : VU) (d : Option (Fin 32)) (a : Src) (b : Src)
  | exit (u : VU) (d : Option (Fin 64)) (a : Src) (b : Src)
  | recurse (u : VU) (d : Option (Fin 64)) (b : Src)
  | exitC (u : VU) (d : Option (Fin 64)) (b : Src)
  | pack (u : VU) (d : Option (Fin 64)) (a : Src) (b : Src)
  | packRc (u : VU) (d : Option (Fin 64)) (a : Src) (b : Src)
  | packM (u : VU) (d : Option (Fin 64)) (a : Src) (b : Src)
  | unpack (u : VU) (d : Option (Fin 64)) (a : Src) (b : Src)
  | unpackC (u : VU) (d : Option (Fin 64)) (a : Src) (b : Src)
  | vld (u : VU) (d : Option (Fin 32)) (a : Src) (b : Src)
  | vldNr (u : VU) (d : Option (Fin 32)) (p : Fin 8) (a : Src) (b : Src)
  | vst (u : VU) (d : Fin 32) (a : Src) (b : Src)
  | vlds (u : VU) (d : Option (Fin 32)) (a : Src) (b : BitVec 8)
  | vldsC (u : VU) (d : Option (Fin 32)) (a : Src) (b : BitVec 8)
  | vsts (u : VU) (d : Fin 32) (a : Src) (b : BitVec 8)
  | vstsF (u : VU) (d : Fin 32) (a : Src) (b : BitVec 8)
  | qpushV (u : VU) (d : Fin 32) (q : Fin 8)
  | mmaBf16 (acc : Fin 16) (sh : Fin 16) (a : Src) (b : Src)
  | mmaBf16Mc (acc : Fin 16) (sh : Fin 16) (a : Src) (b : Src)
  | mmaBf16Rop (acc : Fin 16) (sh : Fin 16) (a : Src) (b : Src)
  | mmaF16 (acc : Fin 16) (sh : Fin 16) (a : Src) (b : Src)
  | mmaF16Mc (acc : Fin 16) (sh : Fin 16) (a : Src) (b : Src)
  | mmaF16Rop (acc : Fin 16) (sh : Fin 16) (a : Src) (b : Src)
  | mmaE4m3 (acc : Fin 16) (sh : Fin 16) (a : Src) (b : Src)
  | mmaE4m3Mc (acc : Fin 16) (sh : Fin 16) (a : Src) (b : Src)
  | mmaE4m3Rop (acc : Fin 16) (sh : Fin 16) (a : Src) (b : Src)
  | mmaE5m2 (acc : Fin 16) (sh : Fin 16) (a : Src) (b : Src)
  | mmaE5m2Mc (acc : Fin 16) (sh : Fin 16) (a : Src) (b : Src)
  | mmaE5m2Rop (acc : Fin 16) (sh : Fin 16) (a : Src) (b : Src)
  | mmaF4x (acc : Fin 16) (sh : Fin 16) (a : Src) (b : Src)
  | mmaF4xMc (acc : Fin 16) (sh : Fin 16) (a : Src) (b : Src)
  | mmaF4xRop (acc : Fin 16) (sh : Fin 16) (a : Src) (b : Src)
  | azero (acc : Fin 16) (a : Src)
  | azeroV (acc : Fin 16) (a : Src)
  | azeroB (acc : Fin 16) (a : Src)
  | asetx (acc : Fin 16) (a : Src) (b : Src)
  | asetxV (acc : Fin 16) (a : Src) (b : Src)
  | asetxZ (acc : Fin 16) (a : Src) (b : Src)
  | asetxZV (acc : Fin 16) (a : Src) (b : Src)
  | anorm (acc : Fin 16) (a : Src) (b : Src)
  | anormV (acc : Fin 16) (a : Src) (b : Src)
  | aswap (acc : Fin 16)
  | ardout (acc : Fin 16) (a : Src) (b : BitVec 8)
  | ardoutS (acc : Fin 16) (sh : Fin 16) (a : Src) (b : BitVec 8)
  | ardoutSf (acc : Fin 16) (sh : Fin 16) (a : Src) (b : BitVec 8)
  | ascore (acc : Fin 16) (sh : Fin 16) (a : Src) (b : Src)
  | ascoreGm (acc : Fin 16) (sh : Fin 16) (a : Src) (b : Src)
  | avalue (acc : Fin 16) (a : Src) (b : Src)
  | avalueHi (acc : Fin 16) (a : Src) (b : Src)
  | smerge (acc : Fin 16) (a : Src) (b : Src)
  | smergeX (acc : Fin 16) (a : Src) (b : Src)
  | smergeI (acc : Fin 16) (a : Src) (b : Src)
  | mskld (a : Src) (b : Src)
  | kvapp (sh : Fin 16) (a : Src) (b : Src)
  | copy (d : Option (Fin 64)) (a : Src) (b : Src)
  | gather (d : Option (Fin 64)) (q : Fin 8) (a : Src) (b : Src)
  | scatter (d : Option (Fin 64)) (q : Fin 8) (a : Src) (b : Src)
  | smpl (d : Option (Fin 64)) (a : Src) (b : Src)
  | fst (d : Option (Fin 64)) (a : Src) (b : Src)
  | fstOf (d : Option (Fin 64)) (a : Src) (b : Src)
  | fstSp (d : Option (Fin 64)) (a : Src) (b : Src)
  | fstOfSp (d : Option (Fin 64)) (a : Src) (b : Src)
  | ratomAdd (d : Fin 64) (a : Src) (b : Src)
  | ratomAnd (d : Fin 64) (a : Src) (b : Src)
  | ratomOr (d : Fin 64) (a : Src) (b : Src)
  | ratomXor (d : Fin 64) (a : Src) (b : Src)
  | ratomMinI64 (d : Fin 64) (a : Src) (b : Src)
  | ratomMaxI64 (d : Fin 64) (a : Src) (b : Src)
  | ratomMinZ64 (d : Fin 64) (a : Src) (b : Src)
  | ratomMaxZ64 (d : Fin 64) (a : Src) (b : Src)
  | ackf 
  | jopen (d : Option (Fin 64)) (a : Src)
  | jarrive (d : Option (Fin 64)) (a : Src) (b : Src)
  | jwait (d : Option (Fin 64)) (a : Src) (b : Src)
  | jrule (d : Option (Fin 64)) (a : Src) (b : Src)
  | fillreg (d : Option (Fin 64)) (a : Src) (b : Src)
  | fillregT (d : Option (Fin 64)) (b : Src)
  | fillregTf (d : Option (Fin 64)) (b : Src)
  | fillregTm (d : Option (Fin 64)) (a : Src) (b : Src)
  | fillregW (d : Option (Fin 64)) (a : Src) (b : Src)
  | accept (d : Option (Fin 64)) (a : Src)
  | ahpush (d : Option (Fin 64)) (a : Src) (b : Src)
  | ahsel (d : Option (Fin 64)) (a : Src) (b : Src)
  | mapreq (d : Option (Fin 64)) (a : Src) (b : Src)
  | wqpop (d : Option (Fin 32)) (a : Src)
  | wqtry (d : Option (Fin 32)) (a : Src)
  | wqpush (d : Fin 32) (a : Src)
  | wqclose (d : Option (Fin 64)) (a : Src)
  | kvalloc (d : Option (Fin 64)) (a : Src) (b : Src)
  | kvgrow (d : Option (Fin 64)) (a : Src) (b : Src)
  | kvfork (d : Option (Fin 64)) (a : Src) (b : Src)
  | kvfree (d : Option (Fin 64)) (a : Src)
  | kvinval (d : Option (Fin 64)) (a : Src) (b : Src)
  | qpushX (d : Fin 32) (q : Fin 8)
  | brC (c : Src) (off : BitVec 18)
  | brzC (c : Src) (off : BitVec 18)
  | callC (c : Src) (off : BitVec 18)
  | ret (a : Src)
  | fjmp (a : Src) (b : Src)
  | lap (len : BitVec 6) (a : Src)
  | lapLr (len : BitVec 6)
  | phase (sc : Scope)
  | bar (sc : Scope) (a : Src) (b : Src)
  | wait (a : Src)
  | waitP 
  | tend 
  | kpoint 
  | spawn (a : Src) (b : Src)
  | trap (a : Src)
  | rti 
  | srd (d : Option (Fin 64)) (a : Src)
  | swr (d : Option (Fin 64)) (a : Src) (b : Src)
  | ubrd (d : Option (Fin 64)) (a : Src) (b : Src)
  | ubwr (d : Fin 64) (a : Src) (b : Src)
  | lctlPark (d : Option (Fin 64)) (a : Src)
  | lctlRes (d : Option (Fin 64)) (a : Src)
  | lctlAbort (d : Option (Fin 64)) (a : Src)
  | otinv (a : Src)
  | otinvAll 
  | mcall (d : Option (Fin 64)) (a : Src) (b : Src)
  | mans (a : Src) (b : Src)
  | erpost (d : Option (Fin 64)) (a : Src) (b : Src)
  | launchQueuePop (die : Nat)
  | placement (die part : Nat)
  | placementWaitLimit (die part : Nat)
  | candidateAging (die idx : Nat)
  | urgencyWindowEntry (die idx : Nat)
  | preemptionDecision (die part : Nat)
  | parkComplete (launch : W32)
  | parkAbandon (launch : W32)
  | saveComplete (launch : W32)
  | resumption (launch : W32)
  | restoreComplete (launch : W32)
  | pacerOverrun (die : Nat) (launch : W32)
  | agingHold (core : Nat)
  | faultDelivery (core ctx : Nat)
  | resultLanding (core ctx : Nat)
  | sectorArrival (core ctx : Nat)
  | objectEntryArrival (obj : BitVec 24)
  | remoteScratchpadArrival (core : Nat)
  | engineHazardRelease (core ctx cmd : Nat)
  | engineOpComplete (core ctx cmd : Nat)
  | engineFault (core ctx cmd : Nat)
  | matrixStep (core : Nat)
  | attentionOperationStep (core : Nat)
  | contextEnded (core ctx : Nat)
  | killTakesEffect (core ctx : Nat)
  | taggedWriteStage (die : Nat) (handle member : W64) (addr : W64) (obj : BitVec 24) (data : List Byte)
  | handlerRecordPush (core ctx : Nat)
  | taskReplayPush (core ctx : Nat)
  | flagIncrement (idx : Nat)
  | store (pk : Packet)
  | storeWithFlag (pk : Packet)
  | atomic (pk : Packet)
  | loadRequest (pk : Packet)
  | loadData (pk : Packet) (core ctx : Nat)
  | acknowledgement (pk : Packet) (core ctx : Nat)
  | taggedStore (pk : Packet) (handle member : W64) (target : BitVec 24)
  | joinControl (pk : Packet) (msg : JoinMsg)
  | management (pk : Packet)
  | gapTimeout (src : BitVec 13) (vc : BitVec 2)
  | quarantineResync (peer : BitVec 13) (nums : List Nat) (ok : Bool)
  | heartbeat (src : BitVec 13)
  | heartbeatMissFence (peer : BitVec 13)
  | prepare (keys : EpochKeys)
  | drainComplete
  | rekeyArrival (src : BitVec 13) (older : Nat)
  | commit
  | abort
  | prepareTimeout (peer : BitVec 13)
  | fence (peer : BitVec 13)
  | leadAnnouncement (src : BitVec 13)
  | rekeyRequest (src : BitVec 13)
  | measurementChangeReport (src : BitVec 13)
  | scrubLine (line : Nat)
  | patrolScrub (die : Nat) (sector : Nat)
  | readErrorLogWord (port : Nat) (w1 w2 : W64)
  | createDomain (port : Nat) (obj : BitVec 24) (off : W64)
  | admitModule (port : Nat) (peer : BitVec 13) (out : AdmitOutcome) (keys : EpochKeys)
  | removeModule (port : Nat) (peer : BitVec 13)
  | rekeyNow (port : Nat) (keys : EpochKeys)
  | leaveDomain (port : Nat)
  | readDomainStatus (port : Nat)
  | moduleResetRequest (port : Nat)
  | spdmRequest (port : Nat) (request : List Byte)
  | registerWrite (who : Claimant) (reg : BitVec 16) (value : W64)
  | take (claimants : List Claimant)
  | semaWrite (who : Claimant) (value : W64)
  | leaseExpiry
  | ahiPush (port : Nat) (value : W64)
  | queueWindowPush (port : Nat) (off : Nat) (data : List Byte)
  | wqcfgReopen (who : Claimant) (die q : Nat)
  | strictWrite (who : Claimant) (die : Nat) (value : W64)
  | pendingRecordWrite (ring : Nat)
  | interruptCoalescingTimer (ring : Nat)
  | transmitDescriptor (port pair : Nat)
  | frameReceive (port sub pair : Nat) (frame : List Byte)
  | hostMemRead (port : Nat) (addr n : Nat)
  | hostMemWrite (port : Nat) (addr : Nat) (data : List Byte) (poison : Bool)
  | hostAtomic (port : Nat) (addr n : Nat) (op : HomeOp) (v v2 : W64)
  | hostLockedOperation (port : Nat) (addr n : Nat) (op : HomeOp) (v v2 : W64)
  | hostSnoop (port : Nat) (line : Nat) (data : List Byte)
  | translationResponse (port : Nat) (pasid : Option (BitVec 20)) (va : Nat) (page : Nat) (pa : Nat) (rd wr : Bool)
  | pageRequestResponse (port : Nat) (obj : BitVec 24) (page : Nat) (ans : PriAnswer)
  | atsInvalidateRequest (port : Nat) (pasid : Option (BitVec 20)) (va len : Nat)
  | powerOn
  | moduleReset
  | portReset (port : Nat)
  | functionLevelReset (port : Nat)
  | linkStateChange (global : Bool) (link : Nat) (up : Bool)
  | functionReady (f : ReadyFn)
  | functionFailure (f : ReadyFn)
  | moduleWideError
  | controlStateError (launch : W32)
  | softError (unit : ErrUnit) (fate : ErrFate) (core ctx : Nat) (loc : Nat)
  | errorSummaryRecord (die : Nat) (unit : ErrUnit)
  | powerControlWindow (power : Nat) (temps : List Nat)
  | kvPageMove (die part idx : Nat)
  | slabReclaim (die part base : Nat)
  | fillEntryAdvance (launch : W32) (lcluster map : Nat)
  | waitUntilTickReached (core ctx : Nat)
  | publishComplete (core ctx : Nat)
  | homeUnitExecution (reqs : List HomeReq)
  | mapCopyFull (core map : Nat)
  | configurationAccess (port : Nat) (cfg : PortConfig)
  | ethernetLinkChange (port sub : Nat) (up : Bool)
deriving DecidableEq, Repr

end Sys2Proof
end

