-- ==== Sys2Proof/WellFormed.lean ====
section
/-! DEFINITION. When an instruction is well formed: its operands have the kinds that its description gives
(spec/05 R142, Table 05-6), its mode bytes, types and rounding codes are legal (R140), and an event names parts that
the module has (spec/00 Table 00-1). A word whose instruction is ill formed raises an illegal-encoding trap. -/

namespace Sys2Proof

/-- Sources legal where a 64-bit scalar is read (Table 05-6). -/
def Src.scalarOk : Src → Bool
  | .s _ | .latS0 | .latS1 | .latV0 | .latV1 | .latM | .latX | .latC | .q _ | .imm _ => true
  | .a _ | .v _ | .p _ | .sh _ => false

/-- Sources legal where a vector is read (Table 05-6). -/
def Src.vectorOk : Src → Bool
  | .s _ | .v _ | .latS0 | .latS1 | .latV0 | .latV1 | .latM | .latX | .latC | .q _ | .imm _ => true
  | .a _ | .p _ | .sh _ => false

/-- Sources legal where a capability is read (Table 05-6). -/
def Src.capOk : Src → Bool
  | .a _ | .q _ => true
  | _ => false

/-- Sources legal where a predicate is read (Table 05-6). -/
def Src.predOk : Src → Bool
  | .p _ => true
  | _ => false

/-- Sources legal where a shape register is read (Table 05-6). -/
def Src.shapeOk : Src → Bool
  | .sh _ => true
  | _ => false

/-- The target of a strong access: an a register for global memory, otherwise a scalar (spec/06 R176). -/
def Src.capOrScalarOk : Src → Bool
  | .a _ => true
  | x => x.scalarOk

/-- Sources of 2048 bits, the register form of mma (spec/08 R227). -/
def Src.wideOk : Src → Bool
  | .v _ | .q _ | .latV0 | .latV1 | .latM | .latX => true
  | _ => false

/-- Type codes 0 to 12 are legal (Table 05-7). -/
def typeOk (t : BitVec 4) : Bool := decide (t.toNat < 13)

/-- Rounding codes 0 to 4 are legal (Table 05-4). -/
def roundOk (r : BitVec 3) : Bool := decide (r.toNat < 5)

/-- Type field of a mode byte (spec/05 R140). -/
def modeType (b : BitVec 8) : BitVec 4 := b.extractLsb' 4 4
/-- Rounding field of a mode byte. -/
def modeRound (b : BitVec 8) : BitVec 3 := b.extractLsb' 1 3
/-- Saturation bit of a mode byte. -/
def modeSat (b : BitVec 8) : Bool := b.getLsbD 0

/-- A mode byte with a legal type and rounding (spec/05 R140, spec/07 R208). -/
def modeOk (b : BitVec 8) : Bool := typeOk (modeType b) && roundOk (modeRound b)
/-- A floating sum's destination is .f32, .bf16 or .f16 (spec/07 R203). -/
def modeFloatOk (b : BitVec 8) : Bool := decide ((modeType b).toNat < 3) && roundOk (modeRound b)
/-- An integer sum's type is .i16, .i32, .z16 or .z32 and its rounding 0 (spec/07 R203). -/
def modeIntOk (b : BitVec 8) : Bool := [6, 7, 9, 10].contains (modeType b).toNat && modeRound b == 0#3
/-- A maximum or minimum names a type of R203, no rounding and no saturation. -/
def modeMaxOk (b : BitVec 8) : Bool :=
  [0, 1, 6, 7, 9, 10].contains (modeType b).toNat && modeRound b == 0#3 && !modeSat b
/-- A readout's type is none of .i64 and .z64 (spec/08 R241). -/
def modeReadoutOk (b : BitVec 8) : Bool := decide ((modeType b).toNat < 11) && roundOk (modeRound b)
/-- A readout to the scratchpad has type field 0 (spec/08 R242). -/
def modeStoreOk (b : BitVec 8) : Bool := modeType b == 0#4 && roundOk (modeRound b)

/-- rdsr names a selector 0 to 6 by an immediate (spec/06 R171). -/
def selReadOk : Src → Bool
  | .imm i => decide (i.toNat < 7)
  | _ => false

/-- wrsr names a selector that is not read-only (spec/06 Table 06-7). -/
def selWriteOk : Src → Bool
  | .imm i => [0, 1, 2, 4].contains i.toNat
  | _ => false

/-- The two forms of mma (spec/08 R227): two 2048-bit sources, or an A shape other than the B shape with b = 0xC0.
The register form does not exist for .f4x. -/
def mmaOk (sh : Fin 16) (a b : Src) (f4x : Bool) : Bool :=
  match a with
  | .sh k => b == .imm 0#6 && k != sh
  | _ => a.wideOk && b.wideOk && !f4x

/-- Core numbers: 64 to a compute die, 32 to a Crievo die (Table 00-1). -/
def coreOk (core : Nat) : Bool := decide (core / 64 < 10) && (decide (core / 64 < 8) || decide (core % 64 < 32))

/-- A party that writes system control registers (spec/13 R316). -/
def claimantOk : Claimant → Bool
  | .port p => decide (p < 2)
  | .supervisor die lcore => decide (die < 10) && decide (lcore < 64)
  | .monitor => true

/-- Every operand is of a legal kind and every event names parts of the module. -/
def Instr.wf : Instr → Bool
  | .addI64 _ _ a b => a.scalarOk && b.scalarOk
  | .subI64 _ _ a b => a.scalarOk && b.scalarOk
  | .minI64 _ _ a b => a.scalarOk && b.scalarOk
  | .maxI64 _ _ a b => a.scalarOk && b.scalarOk
  | .addsI64 _ _ a b => a.scalarOk && b.scalarOk
  | .minZ64 _ _ a b => a.scalarOk && b.scalarOk
  | .maxZ64 _ _ a b => a.scalarOk && b.scalarOk
  | .addI32 _ _ a b => a.scalarOk && b.scalarOk
  | .subI32 _ _ a b => a.scalarOk && b.scalarOk
  | .minI32 _ _ a b => a.scalarOk && b.scalarOk
  | .maxI32 _ _ a b => a.scalarOk && b.scalarOk
  | .addsI32 _ _ a b => a.scalarOk && b.scalarOk
  | .minZ32 _ _ a b => a.scalarOk && b.scalarOk
  | .maxZ32 _ _ a b => a.scalarOk && b.scalarOk
  | .and _ _ a b => a.scalarOk && b.scalarOk
  | .or _ _ a b => a.scalarOk && b.scalarOk
  | .xor _ _ a b => a.scalarOk && b.scalarOk
  | .andn _ _ a b => a.scalarOk && b.scalarOk
  | .orn _ _ a b => a.scalarOk && b.scalarOk
  | .not _ _ a => a.scalarOk
  | .shl _ _ a b => a.scalarOk && b.scalarOk
  | .shr _ _ a b => a.scalarOk && b.scalarOk
  | .sar _ _ a b => a.scalarOk && b.scalarOk
  | .ceq _ _ a b => a.scalarOk && b.scalarOk
  | .cne _ _ a b => a.scalarOk && b.scalarOk
  | .cltI64 _ _ a b => a.scalarOk && b.scalarOk
  | .cleI64 _ _ a b => a.scalarOk && b.scalarOk
  | .cltZ64 _ _ a b => a.scalarOk && b.scalarOk
  | .cleZ64 _ _ a b => a.scalarOk && b.scalarOk
  | .mul _ _ a b => a.scalarOk && b.scalarOk
  | .mulhI64 _ _ a b => a.scalarOk && b.scalarOk
  | .mulhZ64 _ _ a b => a.scalarOk && b.scalarOk
  | .divI64 _ _ a b => a.scalarOk && b.scalarOk
  | .divZ64 _ _ a b => a.scalarOk && b.scalarOk
  | .remI64 _ _ a b => a.scalarOk && b.scalarOk
  | .remZ64 _ _ a b => a.scalarOk && b.scalarOk
  | .divI32 _ _ a b => a.scalarOk && b.scalarOk
  | .divZ32 _ _ a b => a.scalarOk && b.scalarOk
  | .remI32 _ _ a b => a.scalarOk && b.scalarOk
  | .remZ32 _ _ a b => a.scalarOk && b.scalarOk
  | .li _ _ _ => true
  | .lis _ _ _ _ => true
  | .addi _ _ _ => true
  | .andi _ _ _ => true
  | .mov _ _ a => a.scalarOk
  | .clz _ _ a => a.scalarOk
  | .ctz _ _ a => a.scalarOk
  | .popc _ _ a => a.scalarOk
  | .sext _ _ a b => a.scalarOk && b.scalarOk
  | .zext _ _ a b => a.scalarOk && b.scalarOk
  | .cder _ _ a b => a.capOk && b.scalarOk
  | .cbnd _ _ a b => a.capOk && b.scalarOk
  | .csetoff _ _ a b => a.capOk && b.scalarOk
  | .caddoff _ _ a b => a.capOk && b.scalarOk
  | .cmov _ _ a => a.capOk
  | .cchk _ _ a b => a.capOk && b.scalarOk
  | .cget _ _ a b => a.capOk && b.scalarOk
  | .shld _ _ a b => a.capOk && b.scalarOk
  | .shldImg _ _ b => b.scalarOk
  | .shset _ _ a b => a.scalarOk && b.scalarOk
  | .shget _ _ a b => a.shapeOk && b.scalarOk
  | .pand _ _ a b => a.predOk && b.predOk
  | .por _ _ a b => a.predOk && b.predOk
  | .pxor _ _ a b => a.predOk && b.predOk
  | .pandn _ _ a b => a.predOk && b.predOk
  | .pnot _ _ a => a.predOk
  | .pmov _ _ a => a.predOk
  | .pset _ _ a => a.scalarOk
  | .pany _ _ a => a.predOk
  | .pcnt _ _ a => a.predOk
  | .rdsr _ _ b => selReadOk b
  | .wrsr _ a b => a.scalarOk && selWriteOk b
  | .bfrd _ _ b => b.scalarOk
  | .bfwr _ a b => a.scalarOk && b.scalarOk
  | .ldZ8 _ _ a b => a.capOk && b.scalarOk
  | .ldZ16 _ _ a b => a.capOk && b.scalarOk
  | .ldZ32 _ _ a b => a.capOk && b.scalarOk
  | .ldI8 _ _ a b => a.capOk && b.scalarOk
  | .ldI16 _ _ a b => a.capOk && b.scalarOk
  | .ldI32 _ _ a b => a.capOk && b.scalarOk
  | .ldI64 _ _ a b => a.capOk && b.scalarOk
  | .ldC128 _ _ a b => a.capOk && b.scalarOk
  | .ldNr _ _ _ a b => a.capOk && b.scalarOk
  | .stZ8 _ _ a b => a.capOk && b.scalarOk
  | .stZ16 _ _ a b => a.capOk && b.scalarOk
  | .stZ32 _ _ a b => a.capOk && b.scalarOk
  | .stZ64 _ _ a b => a.capOk && b.scalarOk
  | .lds _ _ a b => a.scalarOk && b.scalarOk
  | .ldsC _ _ a b => a.scalarOk && b.scalarOk
  | .sts _ _ a b => a.scalarOk && b.scalarOk
  | .stsF _ _ a b => a.scalarOk && b.scalarOk
  | .drain _ a b => a.scalarOk && b.scalarOk
  | .ldRlx _ _ _ _ _ a => a.capOrScalarOk
  | .ldAcq _ _ _ _ _ a => a.capOrScalarOk
  | .stRlx _ _ _ _ a => a.capOrScalarOk
  | .stRel _ _ _ _ a => a.capOrScalarOk
  | .atomAdd _ _ _ _ _ a => a.capOrScalarOk
  | .atomAnd _ _ _ _ _ a => a.capOrScalarOk
  | .atomOr _ _ _ _ _ a => a.capOrScalarOk
  | .atomXor _ _ _ _ _ a => a.capOrScalarOk
  | .atomMinI _ _ _ _ _ a => a.capOrScalarOk
  | .atomMaxI _ _ _ _ _ a => a.capOrScalarOk
  | .atomMinZ _ _ _ _ _ a => a.capOrScalarOk
  | .atomMaxZ _ _ _ _ _ a => a.capOrScalarOk
  | .atomSwap _ _ _ _ _ a => a.capOrScalarOk
  | .atomCas _ d _ _ _ a => a.capOrScalarOk && d.val != 63
  | .qpushS _ _ _ => true
  | .brS1 c _ => c.scalarOk
  | .brzS1 c _ => c.scalarOk
  | .callS1 c _ => c.scalarOk
  | .vaddF32 _ _ _ a b => a.vectorOk && b.vectorOk
  | .vsubF32 _ _ _ a b => a.vectorOk && b.vectorOk
  | .vmulF32 _ _ _ a b => a.vectorOk && b.vectorOk
  | .vfmaF32 _ _ _ a b => a.vectorOk && b.vectorOk
  | .vminF32 _ _ _ a b => a.vectorOk && b.vectorOk
  | .vmaxF32 _ _ _ a b => a.vectorOk && b.vectorOk
  | .vaddBf16 _ _ _ a b => a.vectorOk && b.vectorOk
  | .vsubBf16 _ _ _ a b => a.vectorOk && b.vectorOk
  | .vmulBf16 _ _ _ a b => a.vectorOk && b.vectorOk
  | .vfmaBf16 _ _ _ a b => a.vectorOk && b.vectorOk
  | .vminBf16 _ _ _ a b => a.vectorOk && b.vectorOk
  | .vmaxBf16 _ _ _ a b => a.vectorOk && b.vectorOk
  | .vabsF32 _ _ _ a => a.vectorOk
  | .vnegF32 _ _ _ a => a.vectorOk
  | .vexp2F32 _ _ _ a => a.vectorOk
  | .vrcpF32 _ _ _ a => a.vectorOk
  | .vrsqrtF32 _ _ _ a => a.vectorOk
  | .vabsBf16 _ _ _ a => a.vectorOk
  | .vnegBf16 _ _ _ a => a.vectorOk
  | .vexp2Bf16 _ _ _ a => a.vectorOk
  | .vrcpBf16 _ _ _ a => a.vectorOk
  | .vrsqrtBf16 _ _ _ a => a.vectorOk
  | .vaddI16 _ _ a b => a.vectorOk && b.vectorOk
  | .vsubI16 _ _ a b => a.vectorOk && b.vectorOk
  | .vmulI16 _ _ a b => a.vectorOk && b.vectorOk
  | .vminI16 _ _ a b => a.vectorOk && b.vectorOk
  | .vmaxI16 _ _ a b => a.vectorOk && b.vectorOk
  | .vaddsI16 _ _ a b => a.vectorOk && b.vectorOk
  | .vsubsI16 _ _ a b => a.vectorOk && b.vectorOk
  | .vaddI32 _ _ a b => a.vectorOk && b.vectorOk
  | .vsubI32 _ _ a b => a.vectorOk && b.vectorOk
  | .vmulI32 _ _ a b => a.vectorOk && b.vectorOk
  | .vminI32 _ _ a b => a.vectorOk && b.vectorOk
  | .vmaxI32 _ _ a b => a.vectorOk && b.vectorOk
  | .vaddsI32 _ _ a b => a.vectorOk && b.vectorOk
  | .vsubsI32 _ _ a b => a.vectorOk && b.vectorOk
  | .vaddZ16 _ _ a b => a.vectorOk && b.vectorOk
  | .vsubZ16 _ _ a b => a.vectorOk && b.vectorOk
  | .vmulZ16 _ _ a b => a.vectorOk && b.vectorOk
  | .vminZ16 _ _ a b => a.vectorOk && b.vectorOk
  | .vmaxZ16 _ _ a b => a.vectorOk && b.vectorOk
  | .vaddsZ16 _ _ a b => a.vectorOk && b.vectorOk
  | .vsubsZ16 _ _ a b => a.vectorOk && b.vectorOk
  | .vaddZ32 _ _ a b => a.vectorOk && b.vectorOk
  | .vsubZ32 _ _ a b => a.vectorOk && b.vectorOk
  | .vmulZ32 _ _ a b => a.vectorOk && b.vectorOk
  | .vminZ32 _ _ a b => a.vectorOk && b.vectorOk
  | .vmaxZ32 _ _ a b => a.vectorOk && b.vectorOk
  | .vaddsZ32 _ _ a b => a.vectorOk && b.vectorOk
  | .vsubsZ32 _ _ a b => a.vectorOk && b.vectorOk
  | .vand _ _ a b => a.vectorOk && b.vectorOk
  | .vor _ _ a b => a.vectorOk && b.vectorOk
  | .vxor _ _ a b => a.vectorOk && b.vectorOk
  | .vandn _ _ a b => a.vectorOk && b.vectorOk
  | .vnot _ _ a => a.vectorOk
  | .vshlW16 _ _ a b => a.vectorOk && b.vectorOk
  | .vshrW16 _ _ a b => a.vectorOk && b.vectorOk
  | .vsarW16 _ _ a b => a.vectorOk && b.vectorOk
  | .vshlW32 _ _ a b => a.vectorOk && b.vectorOk
  | .vshrW32 _ _ a b => a.vectorOk && b.vectorOk
  | .vsarW32 _ _ a b => a.vectorOk && b.vectorOk
  | .vceqF32 _ _ a b => a.vectorOk && b.vectorOk
  | .vcneF32 _ _ a b => a.vectorOk && b.vectorOk
  | .vcltF32 _ _ a b => a.vectorOk && b.vectorOk
  | .vcleF32 _ _ a b => a.vectorOk && b.vectorOk
  | .vcunF32 _ _ a b => a.vectorOk && b.vectorOk
  | .vceqBf16 _ _ a b => a.vectorOk && b.vectorOk
  | .vcneBf16 _ _ a b => a.vectorOk && b.vectorOk
  | .vcltBf16 _ _ a b => a.vectorOk && b.vectorOk
  | .vcleBf16 _ _ a b => a.vectorOk && b.vectorOk
  | .vcunBf16 _ _ a b => a.vectorOk && b.vectorOk
  | .vceqW16 _ _ a b => a.vectorOk && b.vectorOk
  | .vcneW16 _ _ a b => a.vectorOk && b.vectorOk
  | .vcltI16 _ _ a b => a.vectorOk && b.vectorOk
  | .vcleI16 _ _ a b => a.vectorOk && b.vectorOk
  | .vcltZ16 _ _ a b => a.vectorOk && b.vectorOk
  | .vcleZ16 _ _ a b => a.vectorOk && b.vectorOk
  | .vceqW32 _ _ a b => a.vectorOk && b.vectorOk
  | .vcneW32 _ _ a b => a.vectorOk && b.vectorOk
  | .vcltI32 _ _ a b => a.vectorOk && b.vectorOk
  | .vcleI32 _ _ a b => a.vectorOk && b.vectorOk
  | .vcltZ32 _ _ a b => a.vectorOk && b.vectorOk
  | .vcleZ32 _ _ a b => a.vectorOk && b.vectorOk
  | .sel _ _ _ a b => a.vectorOk && b.vectorOk
  | .perm _ _ a b => a.vectorOk && b.vectorOk
  | .rot _ _ a b => a.vectorOk && b.scalarOk
  | .bcast _ _ a b => a.vectorOk && b.scalarOk
  | .zip _ _ a b => a.vectorOk && b.vectorOk
  | .unzip _ _ a b => a.vectorOk && b.vectorOk
  | .bcastW32 _ _ a b => a.vectorOk && b.scalarOk
  | .permW32 _ _ a b => a.vectorOk && b.vectorOk
  | .raddF32 _ _ _ a b => a.vectorOk && modeFloatOk b
  | .raddBf16 _ _ _ a b => a.vectorOk && modeFloatOk b
  | .raddInt _ _ _ a b => a.vectorOk && modeIntOk b
  | .rdotF32 _ _ _ a b => a.vectorOk && b.vectorOk
  | .rdotBf16 _ _ _ a b => a.vectorOk && b.vectorOk
  | .rmax _ _ _ a b => a.vectorOk && modeMaxOk b
  | .rmin _ _ _ a b => a.vectorOk && modeMaxOk b
  | .cvt _ _ st rm _ dt a => typeOk st && typeOk dt && roundOk rm && a.vectorOk
  | .rcupd _ _ a b => a.vectorOk && b.scalarOk
  | .rcrd _ _ b => b.scalarOk
  | .rcwr _ _ a b => a.vectorOk && b.scalarOk
  | .exit _ _ a b => a.shapeOk && b.scalarOk
  | .recurse _ _ b => b.scalarOk
  | .exitC _ _ b => b.scalarOk
  | .pack _ _ a b => a.shapeOk && b.scalarOk
  | .packRc _ _ a b => a.shapeOk && b.scalarOk
  | .packM _ _ a b => a.shapeOk && b.scalarOk
  | .unpack _ _ a b => a.shapeOk && b.scalarOk
  | .unpackC _ _ a b => a.shapeOk && b.scalarOk
  | .vld _ _ a b => a.capOk && b.scalarOk
  | .vldNr _ _ _ a b => a.capOk && b.scalarOk
  | .vst _ _ a b => a.capOk && b.scalarOk
  | .vlds _ _ a b => a.scalarOk && modeOk b
  | .vldsC _ _ a b => a.scalarOk && modeOk b
  | .vsts _ _ a b => a.scalarOk && modeOk b
  | .vstsF _ _ a b => a.scalarOk && modeOk b
  | .qpushV _ _ _ => true
  | .mmaBf16 _ sh a b => mmaOk sh a b false
  | .mmaBf16Mc _ sh a b => mmaOk sh a b false
  | .mmaBf16Rop _ sh a b => mmaOk sh a b false
  | .mmaF16 _ sh a b => mmaOk sh a b false
  | .mmaF16Mc _ sh a b => mmaOk sh a b false
  | .mmaF16Rop _ sh a b => mmaOk sh a b false
  | .mmaE4m3 _ sh a b => mmaOk sh a b false
  | .mmaE4m3Mc _ sh a b => mmaOk sh a b false
  | .mmaE4m3Rop _ sh a b => mmaOk sh a b false
  | .mmaE5m2 _ sh a b => mmaOk sh a b false
  | .mmaE5m2Mc _ sh a b => mmaOk sh a b false
  | .mmaE5m2Rop _ sh a b => mmaOk sh a b false
  | .mmaF4x _ sh a b => mmaOk sh a b true
  | .mmaF4xMc _ sh a b => mmaOk sh a b true
  | .mmaF4xRop _ sh a b => mmaOk sh a b true
  | .azero _ a => a.scalarOk
  | .azeroV _ a => a.scalarOk
  | .azeroB _ a => a.scalarOk
  | .asetx _ a b => a.scalarOk && b.scalarOk
  | .asetxV _ a b => a.scalarOk && b.scalarOk
  | .asetxZ _ a b => a.scalarOk && b.scalarOk
  | .asetxZV _ a b => a.scalarOk && b.scalarOk
  | .anorm _ a b => a.scalarOk && b.scalarOk
  | .anormV _ a b => a.scalarOk && b.scalarOk
  | .aswap _ => true
  | .ardout _ a b => a.scalarOk && modeReadoutOk b
  | .ardoutS _ _ a b => a.scalarOk && modeStoreOk b
  | .ardoutSf _ _ a b => a.scalarOk && modeStoreOk b
  | .ascore _ _ a b => a.scalarOk && b.scalarOk
  | .ascoreGm _ _ a b => a.scalarOk && b.scalarOk
  | .avalue _ a b => a.scalarOk && b.scalarOk
  | .avalueHi _ a b => a.scalarOk && b.scalarOk
  | .smerge _ a b => a.scalarOk && b.scalarOk
  | .smergeX _ a b => a.scalarOk && b.scalarOk
  | .smergeI _ a b => a.scalarOk && b.scalarOk
  | .mskld a b => a.scalarOk && b.scalarOk
  | .kvapp _ a b => a.scalarOk && b.scalarOk
  | .copy _ a b => a.shapeOk && b.shapeOk
  | .gather _ _ a b => a.shapeOk && b.shapeOk
  | .scatter _ _ a b => a.shapeOk && b.shapeOk
  | .smpl _ a b => a.scalarOk && b.scalarOk
  | .fst _ a b => a.shapeOk && b.shapeOk
  | .fstOf _ a b => a.shapeOk && b.shapeOk
  | .fstSp _ a b => a.shapeOk && b.shapeOk
  | .fstOfSp _ a b => a.shapeOk && b.shapeOk
  | .ratomAdd _ a b => a.capOk && b.scalarOk
  | .ratomAnd _ a b => a.capOk && b.scalarOk
  | .ratomOr _ a b => a.capOk && b.scalarOk
  | .ratomXor _ a b => a.capOk && b.scalarOk
  | .ratomMinI64 _ a b => a.capOk && b.scalarOk
  | .ratomMaxI64 _ a b => a.capOk && b.scalarOk
  | .ratomMinZ64 _ a b => a.capOk && b.scalarOk
  | .ratomMaxZ64 _ a b => a.capOk && b.scalarOk
  | .ackf => true
  | .jopen _ a => a.scalarOk
  | .jarrive _ a b => a.scalarOk && b.scalarOk
  | .jwait _ a b => a.scalarOk && b.scalarOk
  | .jrule _ a b => a.scalarOk && b.scalarOk
  | .fillreg _ a b => a.shapeOk && b.scalarOk
  | .fillregT _ b => b.scalarOk
  | .fillregTf _ b => b.scalarOk
  | .fillregTm _ a b => a.shapeOk && b.scalarOk
  | .fillregW _ a b => a.shapeOk && b.scalarOk
  | .accept _ a => a.scalarOk
  | .ahpush _ a b => a.scalarOk && b.scalarOk
  | .ahsel _ a b => a.scalarOk && b.scalarOk
  | .mapreq _ a b => a.capOk && b.scalarOk
  | .wqpop _ a => a.scalarOk
  | .wqtry _ a => a.scalarOk
  | .wqpush _ a => a.scalarOk
  | .wqclose _ a => a.scalarOk
  | .kvalloc _ a b => a.scalarOk && b.scalarOk
  | .kvgrow _ a b => a.scalarOk && b.scalarOk
  | .kvfork _ a b => a.scalarOk && b.scalarOk
  | .kvfree _ a => a.scalarOk
  | .kvinval _ a b => a.scalarOk && b.scalarOk
  | .qpushX _ _ => true
  | .brC c _ => c.scalarOk
  | .brzC c _ => c.scalarOk
  | .callC c _ => c.scalarOk
  | .ret a => a.scalarOk
  | .fjmp a b => a.scalarOk && b.scalarOk
  | .lap _ a => a.scalarOk
  | .lapLr _ => true
  | .phase _ => true
  | .bar _ a b => a.scalarOk && b.scalarOk
  | .wait a => a.scalarOk
  | .waitP => true
  | .tend => true
  | .kpoint => true
  | .spawn a b => a.vectorOk && b.scalarOk
  | .trap a => a.scalarOk
  | .rti => true
  | .srd _ a => a.scalarOk
  | .swr _ a b => a.scalarOk && b.scalarOk
  | .ubrd _ a b => a.scalarOk && b.scalarOk
  | .ubwr _ a b => a.scalarOk && b.scalarOk
  | .lctlPark _ a => a.scalarOk
  | .lctlRes _ a => a.scalarOk
  | .lctlAbort _ a => a.scalarOk
  | .otinv a => a.scalarOk
  | .otinvAll => true
  | .mcall _ a b => a.scalarOk && b.scalarOk
  | .mans a b => a.scalarOk && b.scalarOk
  | .erpost _ a b => a.scalarOk && b.vectorOk
  | .launchQueuePop die => decide (die < 10)
  | .placement die part => decide (die < 10) && decide (part < 8)
  | .placementWaitLimit die part => decide (die < 10) && decide (part < 8)
  | .candidateAging die _ => decide (die < 10)
  | .urgencyWindowEntry die _ => decide (die < 10)
  | .preemptionDecision die part => decide (die < 10) && decide (part < 8)
  | .parkComplete _ => true
  | .parkAbandon _ => true
  | .saveComplete _ => true
  | .resumption _ => true
  | .restoreComplete _ => true
  | .pacerOverrun die _ => decide (die < 10)
  | .agingHold core => coreOk core
  | .faultDelivery core ctx => coreOk core && decide (ctx < 8)
  | .resultLanding core ctx => coreOk core && decide (ctx < 8)
  | .sectorArrival core ctx => coreOk core && decide (ctx < 8)
  | .objectEntryArrival _ => true
  | .remoteScratchpadArrival core => coreOk core
  | .engineHazardRelease core ctx _ => coreOk core && decide (ctx < 8)
  | .engineOpComplete core ctx _ => coreOk core && decide (ctx < 8)
  | .engineFault core ctx _ => coreOk core && decide (ctx < 8)
  | .matrixStep core => coreOk core
  | .attentionOperationStep core => coreOk core
  | .contextEnded core ctx => coreOk core && decide (ctx < 8)
  | .killTakesEffect core ctx => coreOk core && decide (ctx < 8)
  | .taggedWriteStage die _ _ _ _ _ => decide (die < 10)
  | .handlerRecordPush core ctx => coreOk core && decide (ctx < 8)
  | .taskReplayPush core ctx => coreOk core && decide (ctx < 8)
  | .flagIncrement _ => true
  | .store pk => pk.op == 0#5
  | .storeWithFlag pk => pk.op == 1#5
  | .atomic pk => pk.op == 2#5
  | .loadRequest pk => pk.op == 3#5
  | .loadData pk core ctx => coreOk core && decide (ctx < 8) && pk.op == 4#5
  | .acknowledgement pk core ctx => coreOk core && decide (ctx < 8) && pk.op == 5#5
  | .taggedStore pk _ _ _ => pk.op == 6#5
  | .joinControl pk _ => pk.op == 7#5
  | .management pk => pk.op == 8#5
  | .gapTimeout _ _ => true
  | .quarantineResync _ _ _ => true
  | .heartbeat _ => true
  | .heartbeatMissFence _ => true
  | .prepare _ => true
  | .drainComplete => true
  | .rekeyArrival _ _ => true
  | .commit => true
  | .abort => true
  | .prepareTimeout _ => true
  | .fence _ => true
  | .leadAnnouncement _ => true
  | .rekeyRequest _ => true
  | .measurementChangeReport _ => true
  | .scrubLine _ => true
  | .patrolScrub die _ => decide (die < 10)
  | .readErrorLogWord port _ _ => decide (port < 2)
  | .createDomain port _ _ => decide (port < 2)
  | .admitModule port _ _ _ => decide (port < 2)
  | .removeModule port _ => decide (port < 2)
  | .rekeyNow port _ => decide (port < 2)
  | .leaveDomain port => decide (port < 2)
  | .readDomainStatus port => decide (port < 2)
  | .moduleResetRequest port => decide (port < 2)
  | .spdmRequest port _ => decide (port < 2)
  | .registerWrite who _ _ => claimantOk who
  | .take _ => true
  | .semaWrite _ _ => true
  | .leaseExpiry => true
  | .ahiPush port _ => decide (port < 2)
  | .queueWindowPush port _ _ => decide (port < 2)
  | .wqcfgReopen _ die q => decide (die < 10) && decide (q < 64)
  | .strictWrite _ die _ => decide (die < 10)
  | .pendingRecordWrite ring => decide (ring < 16)
  | .interruptCoalescingTimer ring => decide (ring < 16)
  | .transmitDescriptor port pair => decide (port < 4) && decide (pair < 8)
  | .frameReceive port sub pair _ => decide (port < 4) && decide (sub < 8) && decide (pair < 8)
  | .hostMemRead port _ _ => decide (port < 2)
  | .hostMemWrite port _ _ _ => decide (port < 2)
  | .hostAtomic port _ _ _ _ _ => decide (port < 2)
  | .hostLockedOperation port _ _ _ _ _ => decide (port < 2)
  | .hostSnoop port _ _ => decide (port < 2)
  | .translationResponse port _ _ _ _ _ _ => decide (port < 2)
  | .pageRequestResponse port _ _ _ => decide (port < 2)
  | .atsInvalidateRequest port _ _ _ => decide (port < 2)
  | .powerOn => true
  | .moduleReset => true
  | .portReset port => decide (port < 2)
  | .functionLevelReset port => decide (port < 2)
  | .linkStateChange _ link _ => decide (link < 64)
  | .functionReady _ => true
  | .functionFailure _ => true
  | .moduleWideError => true
  | .controlStateError _ => true
  | .softError _ _ core ctx _ => coreOk core && decide (ctx < 8)
  | .errorSummaryRecord die _ => decide (die < 10)
  | .powerControlWindow _ _ => true
  | .kvPageMove die part _ => decide (die < 10) && decide (part < 8) && decide (8 ≤ die)
  | .slabReclaim die part _ => decide (die < 10) && decide (part < 8) && decide (8 ≤ die)
  | .fillEntryAdvance _ lcluster map => decide (lcluster < 64) && decide (map < 4)
  | .waitUntilTickReached core ctx => coreOk core && decide (ctx < 8)
  | .publishComplete core ctx => coreOk core && decide (ctx < 8)
  | .homeUnitExecution _ => true
  | .mapCopyFull core map => coreOk core && decide (map < 4)
  | .configurationAccess port _ => decide (port < 2)
  | .ethernetLinkChange port sub _ => decide (port < 4) && decide (sub < 8)

/-- The instruction is well formed. -/
abbrev WellFormed (i : Instr) : Prop := i.wf = true

end Sys2Proof
end

