-- ==== Sys2Proof/Decode.lean ====
section
/-! DEFINITION. From bits to instructions and back: slot words (spec/05 R139 to R141, Tables 05-3 to 05-13; spec/13
Table 13-2), bundles (R134, R136 to R138) and the order in which a bundle's decode conditions are found (R154). -/

namespace Sys2Proof

/-! ### Fields of a slot word (Table 05-3) -/

def opOf (w : W32) : BitVec 6 := w.extractLsb' 26 6
def dstOf (w : W32) : BitVec 7 := w.extractLsb' 19 7
def fnOf (w : W32) : BitVec 3 := w.extractLsb' 16 3
def bOf (w : W32) : BitVec 8 := w.extractLsb' 8 8
def aOf (w : W32) : BitVec 8 := w.extractLsb' 0 8
def immOf (w : W32) : BitVec 16 := w.extractLsb' 0 16
def wOf (w : W32) : BitVec 2 := w.extractLsb' 14 2
def fOf (w : W32) : BitVec 4 := w.extractLsb' 10 4
def ordOf (w : W32) : BitVec 2 := w.extractLsb' 8 2
def cOf (w : W32) : BitVec 8 := w.extractLsb' 18 8
def offOf (w : W32) : BitVec 18 := w.extractLsb' 0 18
def lenOf (w : W32) : BitVec 6 := w.extractLsb' 20 6
def lrOf (w : W32) : BitVec 1 := w.extractLsb' 19 1
def lresOf (w : W32) : BitVec 11 := w.extractLsb' 8 11
def accOf (w : W32) : BitVec 4 := w.extractLsb' 22 4
def shOf (w : W32) : BitVec 4 := w.extractLsb' 18 4
def mfnOf (w : W32) : BitVec 2 := w.extractLsb' 16 2
def vdOf (w : W32) : BitVec 5 := w.extractLsb' 21 5
def stOf (w : W32) : BitVec 4 := w.extractLsb' 17 4
def rmOf (w : W32) : BitVec 3 := w.extractLsb' 14 3
def satOf (w : W32) : BitVec 1 := w.extractLsb' 13 1
def dtOf (w : W32) : BitVec 4 := w.extractLsb' 9 4
def vresOf (w : W32) : BitVec 1 := w.extractLsb' 8 1

/-! ### The formats put together, most significant field first (Table 05-3) -/

def encR (op : BitVec 6) (d : BitVec 7) (fn : BitVec 3) (b a : BitVec 8) : W32 := op ++ d ++ fn ++ b ++ a
def encI (op : BitVec 6) (d : BitVec 7) (fn : BitVec 3) (imm : BitVec 16) : W32 := op ++ d ++ fn ++ imm
def encA (op : BitVec 6) (d : BitVec 7) (sc : BitVec 3) (w : BitVec 2) (f : BitVec 4) (o : BitVec 2) (a : BitVec 8) : W32 :=
  op ++ d ++ sc ++ w ++ f ++ o ++ a
def encB (op : BitVec 6) (c : BitVec 8) (off : BitVec 18) : W32 := op ++ c ++ off
def encL (op : BitVec 6) (len : BitVec 6) (lr : BitVec 1) (a : BitVec 8) : W32 := op ++ len ++ lr ++ 0#11 ++ a
def encM (op : BitVec 6) (acc sh : BitVec 4) (fn : BitVec 2) (b a : BitVec 8) : W32 := op ++ acc ++ sh ++ fn ++ b ++ a
def encVC (op : BitVec 6) (vd : BitVec 5) (st : BitVec 4) (rm : BitVec 3) (sat : BitVec 1) (dt : BitVec 4) (a : BitVec 8) : W32 :=
  op ++ vd ++ st ++ rm ++ sat ++ dt ++ 0#1 ++ a

/-! ### Operand fields -/

/-- Table 05-5, from the specifier to the item; none for an unassigned specifier. -/
def decSrc (b : BitVec 8) : Option Src :=
  let n := b.toNat
  if h : n < 64 then some (.s ⟨n, h⟩)
  else if h : n - 64 < 16 then some (.a ⟨n - 64, h⟩)
  else if h : n - 80 < 32 then some (.v ⟨n - 80, h⟩)
  else if h : n - 112 < 24 then some (.p ⟨n - 112, h⟩)
  else if h : n - 136 < 16 then some (.sh ⟨n - 136, h⟩)
  else if n = 152 then some .latS0
  else if n = 153 then some .latS1
  else if n = 154 then some .latV0
  else if n = 155 then some .latV1
  else if n = 156 then some .latM
  else if n = 157 then some .latX
  else if n = 158 then some .latC
  else if n < 160 then none
  else if h : n - 160 < 8 then some (.q ⟨n - 160, h⟩)
  else if n < 192 then none
  else some (.imm (b.extractLsb' 0 6))

/-- Table 05-5, from the item to the specifier. -/
def encSrc : Src → BitVec 8
  | .s n => BitVec.ofNat 8 n.val
  | .a n => BitVec.ofNat 8 (64 + n.val)
  | .v n => BitVec.ofNat 8 (80 + n.val)
  | .p n => BitVec.ofNat 8 (112 + n.val)
  | .sh n => BitVec.ofNat 8 (136 + n.val)
  | .latS0 => 152#8 | .latS1 => 153#8 | .latV0 => 154#8 | .latV1 => 155#8
  | .latM => 156#8 | .latX => 157#8 | .latC => 158#8
  | .q n => BitVec.ofNat 8 (160 + n.val)
  | .imm i => 3#2 ++ i

/-- A destination that may be the latch only (Table 05-4 dst), with whether a reserved bit is set. -/
def dOpt (n : Nat) (d : BitVec 7) : Option (Option (Fin n) × Bool) :=
  if d.getLsbD 6 then some (none, d != 64#7)
  else if h : d.toNat < n then some (some ⟨d.toNat, h⟩, false) else none

/-- A destination of a form that requires a register (Table 05-4 dst). -/
def dRes (n : Nat) [NeZero n] (d : BitVec 7) : Option (Fin n × Bool) :=
  if d.getLsbD 6 then (if d = 64#7 then none else some (0, true))
  else if h : d.toNat < n then some (⟨d.toNat, h⟩, false) else none

/-- The data register of a store or push form (Table 05-4): bit 6 is illegal. -/
def dData (n : Nat) (d : BitVec 7) : Option (Fin n × Bool) :=
  if d.getLsbD 6 then none
  else if h : d.toNat < n then some (⟨d.toNat, h⟩, false) else none

def encOpt {n : Nat} (d : Option (Fin n)) : BitVec 7 :=
  match d with
  | none => 64#7
  | some k => BitVec.ofNat 7 k.val

def encFin {n : Nat} (w : Nat) (k : Fin n) : BitVec w := BitVec.ofNat w k.val

/-- A field of w bits as an index below 2 to the w. -/
def finOf {w : Nat} (b : BitVec w) : Fin (2 ^ w) := b.toFin

/-- Scope codes (Table 05-4 sc); 6 and 7 are illegal. -/
def decScope (b : BitVec 3) : Option Scope :=
  match b.toNat with
  | 0 => some .ctx | 1 => some .core | 2 => some .cl | 3 => some .die | 4 => some .mod | 5 => some .dom
  | _ => none

def encScope : Scope → BitVec 3
  | .ctx => 0#3 | .core => 1#3 | .cl => 2#3 | .die => 3#3 | .mod => 4#3 | .dom => 5#3

/-- The register that lis names by fn = 1 to 3 (spec/06 Table 06-3). -/
def decK (b : BitVec 3) : Option (Fin 3) :=
  match b.toNat with
  | 1 => some 0 | 2 => some 1 | 3 => some 2
  | _ => none

/-! ### Decoding of formats: the instruction, and whether a field that must be zero is not. None: illegal encoding. -/

abbrev Parsed := Option (Instr × Bool)

def decDAB {D : Type} (dk : BitVec 7 → Option (D × Bool)) (w : W32) (k : D → Src → Src → Instr) : Parsed := do
  let d ← dk (dstOf w)
  let a ← decSrc (aOf w)
  let b ← decSrc (bOf w)
  some (k d.1 a b, d.2)

def decDA {D : Type} (dk : BitVec 7 → Option (D × Bool)) (w : W32) (k : D → Src → Instr) : Parsed := do
  let d ← dk (dstOf w)
  let a ← decSrc (aOf w)
  some (k d.1 a, d.2 || bOf w != 0#8)

def decDB {D : Type} (dk : BitVec 7 → Option (D × Bool)) (w : W32) (k : D → Src → Instr) : Parsed := do
  let d ← dk (dstOf w)
  let b ← decSrc (bOf w)
  some (k d.1 b, d.2 || aOf w != 0#8)

def decD {D : Type} (dk : BitVec 7 → Option (D × Bool)) (w : W32) (k : D → Instr) : Parsed := do
  let d ← dk (dstOf w)
  some (k d.1, d.2 || bOf w != 0#8 || aOf w != 0#8)

def decAB (w : W32) (k : Src → Src → Instr) : Parsed := do
  let a ← decSrc (aOf w)
  let b ← decSrc (bOf w)
  some (k a b, dstOf w != 0#7)

def decA (w : W32) (k : Src → Instr) : Parsed := do
  let a ← decSrc (aOf w)
  some (k a, dstOf w != 0#7 || bOf w != 0#8)

def decZ (w : W32) (i : Instr) : Parsed :=
  some (i, dstOf w != 0#7 || bOf w != 0#8 || aOf w != 0#8)

/-- As `decDA`, with b a function code or a mode byte. -/
def decDAm {D : Type} (dk : BitVec 7 → Option (D × Bool)) (w : W32) (k : D → Src → Instr) : Parsed := do
  let d ← dk (dstOf w)
  let a ← decSrc (aOf w)
  some (k d.1 a, d.2)

def decScoped (w : W32) (k : Scope → Parsed) : Parsed := do
  let sc ← decScope (fnOf w)
  k sc

/-- Format A, with the destination, the scope and the target (spec/06 R176). -/
def decStrong {D : Type} (dk : BitVec 7 → Option (D × Bool)) (w : W32) (k : D → Scope → Src → Instr) : Parsed := do
  let d ← dk (dstOf w)
  let sc ← decScope (fnOf w)
  let a ← decSrc (aOf w)
  some (k d.1 sc a, d.2)

def decBr (w : W32) (k : Src → BitVec 18 → Instr) : Parsed := do
  let c ← decSrc (cOf w)
  some (k c (offOf w), false)

/-- Format M: what the form does not use must be zero (spec/08 R223). -/
def decMAB (w : W32) (res : Bool) (k : Src → Src → Instr) : Parsed := do
  let a ← decSrc (aOf w)
  let b ← decSrc (bOf w)
  some (k a b, res)

def decMA (w : W32) (res : Bool) (k : Src → Instr) : Parsed := do
  let a ← decSrc (aOf w)
  some (k a, res)

/-- S0 and S1 (Table 05-9); the branch forms are S1's own. -/
def decodeScalar (u : SU) (w : W32) : Parsed :=
  match (opOf w).toNat with
  | 1 => match (fnOf w).toNat with
    | 0 => decDAB (dOpt 64) w fun d a b => .addI64 u d a b
    | 1 => decDAB (dOpt 64) w fun d a b => .subI64 u d a b
    | 2 => decDAB (dOpt 64) w fun d a b => .minI64 u d a b
    | 3 => decDAB (dOpt 64) w fun d a b => .maxI64 u d a b
    | 4 => decDAB (dOpt 64) w fun d a b => .addsI64 u d a b
    | 5 => decDAB (dOpt 64) w fun d a b => .minZ64 u d a b
    | 6 => decDAB (dOpt 64) w fun d a b => .maxZ64 u d a b
    | _ => none
  | 2 => match (fnOf w).toNat with
    | 0 => decDAB (dOpt 64) w fun d a b => .addI32 u d a b
    | 1 => decDAB (dOpt 64) w fun d a b => .subI32 u d a b
    | 2 => decDAB (dOpt 64) w fun d a b => .minI32 u d a b
    | 3 => decDAB (dOpt 64) w fun d a b => .maxI32 u d a b
    | 4 => decDAB (dOpt 64) w fun d a b => .addsI32 u d a b
    | 5 => decDAB (dOpt 64) w fun d a b => .minZ32 u d a b
    | 6 => decDAB (dOpt 64) w fun d a b => .maxZ32 u d a b
    | _ => none
  | 3 => match (fnOf w).toNat with
    | 0 => decDAB (dOpt 64) w fun d a b => .and u d a b
    | 1 => decDAB (dOpt 64) w fun d a b => .or u d a b
    | 2 => decDAB (dOpt 64) w fun d a b => .xor u d a b
    | 3 => decDAB (dOpt 64) w fun d a b => .andn u d a b
    | 4 => decDAB (dOpt 64) w fun d a b => .orn u d a b
    | 5 => decDA (dOpt 64) w fun d a => .not u d a
    | _ => none
  | 4 => match (fnOf w).toNat with
    | 0 => decDAB (dOpt 64) w fun d a b => .shl u d a b
    | 1 => decDAB (dOpt 64) w fun d a b => .shr u d a b
    | 2 => decDAB (dOpt 64) w fun d a b => .sar u d a b
    | _ => none
  | 5 => match (fnOf w).toNat with
    | 0 => decDAB (dOpt 64) w fun d a b => .ceq u d a b
    | 1 => decDAB (dOpt 64) w fun d a b => .cne u d a b
    | 2 => decDAB (dOpt 64) w fun d a b => .cltI64 u d a b
    | 3 => decDAB (dOpt 64) w fun d a b => .cleI64 u d a b
    | 4 => decDAB (dOpt 64) w fun d a b => .cltZ64 u d a b
    | 5 => decDAB (dOpt 64) w fun d a b => .cleZ64 u d a b
    | _ => none
  | 6 => match (fnOf w).toNat with
    | 0 => decDAB (dOpt 64) w fun d a b => .mul u d a b
    | 1 => decDAB (dOpt 64) w fun d a b => .mulhI64 u d a b
    | 2 => decDAB (dOpt 64) w fun d a b => .mulhZ64 u d a b
    | _ => none
  | 7 => match (fnOf w).toNat with
    | 0 => decDAB (dOpt 64) w fun d a b => .divI64 u d a b
    | 1 => decDAB (dOpt 64) w fun d a b => .divZ64 u d a b
    | 2 => decDAB (dOpt 64) w fun d a b => .remI64 u d a b
    | 3 => decDAB (dOpt 64) w fun d a b => .remZ64 u d a b
    | 4 => decDAB (dOpt 64) w fun d a b => .divI32 u d a b
    | 5 => decDAB (dOpt 64) w fun d a b => .divZ32 u d a b
    | 6 => decDAB (dOpt 64) w fun d a b => .remI32 u d a b
    | 7 => decDAB (dOpt 64) w fun d a b => .remZ32 u d a b
    | _ => none
  | 8 => match (fnOf w).toNat with
    | 0 => (dRes 64 (dstOf w)).map fun d => (.li u d.1 (immOf w), d.2)
    | 4 => (dRes 64 (dstOf w)).map fun d => (.addi u d.1 (immOf w), d.2)
    | 5 => (dRes 64 (dstOf w)).map fun d => (.andi u d.1 (immOf w), d.2)
    | _ => (decK (fnOf w)).bind fun k => (dRes 64 (dstOf w)).map fun d => (.lis u d.1 k (immOf w), d.2)
  | 9 => match (fnOf w).toNat with
    | 0 => decDA (dOpt 64) w fun d a => .mov u d a
    | 1 => decDA (dOpt 64) w fun d a => .clz u d a
    | 2 => decDA (dOpt 64) w fun d a => .ctz u d a
    | 3 => decDA (dOpt 64) w fun d a => .popc u d a
    | 4 => decDAB (dOpt 64) w fun d a b => .sext u d a b
    | 5 => decDAB (dOpt 64) w fun d a b => .zext u d a b
    | _ => none
  | 10 => match (fnOf w).toNat with
    | 0 => decDAB (dOpt 16) w fun d a b => .cder u d a b
    | 1 => decDAB (dOpt 16) w fun d a b => .cbnd u d a b
    | 2 => decDAB (dOpt 16) w fun d a b => .csetoff u d a b
    | 3 => decDAB (dOpt 16) w fun d a b => .caddoff u d a b
    | 4 => decDA (dOpt 16) w fun d a => .cmov u d a
    | 5 => decDAB (dOpt 64) w fun d a b => .cchk u d a b
    | 6 => decDAB (dOpt 64) w fun d a b => .cget u d a b
    | _ => none
  | 11 => match (fnOf w).toNat with
    | 0 => decDAB (dOpt 16) w fun d a b => .shld u d a b
    | 1 => decDB (dOpt 16) w fun d b => .shldImg u d b
    | 2 => decDAB (dRes 16) w fun d a b => .shset u d a b
    | 3 => decDAB (dOpt 64) w fun d a b => .shget u d a b
    | _ => none
  | 12 => match (fnOf w).toNat with
    | 0 => decDAB (dOpt 24) w fun d a b => .pand u d a b
    | 1 => decDAB (dOpt 24) w fun d a b => .por u d a b
    | 2 => decDAB (dOpt 24) w fun d a b => .pxor u d a b
    | 3 => decDAB (dOpt 24) w fun d a b => .pandn u d a b
    | 4 => decDA (dOpt 24) w fun d a => .pnot u d a
    | 5 => decDA (dOpt 24) w fun d a => .pmov u d a
    | _ => none
  | 13 => match (fnOf w).toNat with
    | 0 => decDA (dOpt 24) w fun d a => .pset u d a
    | 1 => decDA (dOpt 64) w fun d a => .pany u d a
    | 2 => decDA (dOpt 64) w fun d a => .pcnt u d a
    | _ => none
  | 14 => match (fnOf w).toNat with
    | 0 => decDB (dOpt 64) w fun d b => .rdsr u d b
    | 1 => decAB w fun a b => .wrsr u a b
    | _ => none
  | 15 => match (fnOf w).toNat with
    | 0 => decDB (dOpt 64) w fun d b => .bfrd u d b
    | 1 => decAB w fun a b => .bfwr u a b
    | _ => none
  | 16 => match (fnOf w).toNat with
    | 0 => decDAB (dOpt 64) w fun d a b => .ldZ8 u d a b
    | 1 => decDAB (dOpt 64) w fun d a b => .ldZ16 u d a b
    | 2 => decDAB (dOpt 64) w fun d a b => .ldZ32 u d a b
    | 3 => decDAB (dOpt 64) w fun d a b => .ldI8 u d a b
    | 4 => decDAB (dOpt 64) w fun d a b => .ldI16 u d a b
    | 5 => decDAB (dOpt 64) w fun d a b => .ldI32 u d a b
    | 6 => decDAB (dOpt 64) w fun d a b => .ldI64 u d a b
    | 7 => decDAB (dOpt 16) w fun d a b => .ldC128 u d a b
    | _ => none
  | 17 => decDAB (dOpt 64) w fun d a b => .ldNr u d (finOf (fnOf w)) a b
  | 18 => match (fnOf w).toNat with
    | 0 => decDAB (dData 64) w fun d a b => .stZ8 u d a b
    | 1 => decDAB (dData 64) w fun d a b => .stZ16 u d a b
    | 2 => decDAB (dData 64) w fun d a b => .stZ32 u d a b
    | 3 => decDAB (dData 64) w fun d a b => .stZ64 u d a b
    | _ => none
  | 19 => match (fnOf w).toNat with
    | 0 => decDAB (dOpt 64) w fun d a b => .lds u d a b
    | 1 => decDAB (dOpt 64) w fun d a b => .ldsC u d a b
    | 2 => decDAB (dData 64) w fun d a b => .sts u d a b
    | 3 => decDAB (dData 64) w fun d a b => .stsF u d a b
    | 4 => decAB w fun a b => .drain u a b
    | _ => none
  | 20 => match (ordOf w).toNat, (fOf w).toNat with
    | 0, 0 => decStrong (dOpt 64) w fun d sc a => .ldRlx u d sc (wOf w) false a
    | 0, 1 => decStrong (dOpt 64) w fun d sc a => .ldRlx u d sc (wOf w) true a
    | 1, 0 => decStrong (dOpt 64) w fun d sc a => .ldAcq u d sc (wOf w) false a
    | 1, 1 => decStrong (dOpt 64) w fun d sc a => .ldAcq u d sc (wOf w) true a
    | _, _ => none
  | 21 => match (ordOf w).toNat, (fOf w).toNat with
    | 0, 0 => decStrong (dData 64) w fun d sc a => .stRlx u d sc (wOf w) a
    | 2, 0 => decStrong (dData 64) w fun d sc a => .stRel u d sc (wOf w) a
    | _, _ => none
  | 22 => match (fOf w).toNat with
    | 0 => decStrong (dRes 64) w fun d sc a => .atomAdd u d sc (wOf w) (ordOf w) a
    | 1 => decStrong (dRes 64) w fun d sc a => .atomAnd u d sc (wOf w) (ordOf w) a
    | 2 => decStrong (dRes 64) w fun d sc a => .atomOr u d sc (wOf w) (ordOf w) a
    | 3 => decStrong (dRes 64) w fun d sc a => .atomXor u d sc (wOf w) (ordOf w) a
    | 4 => decStrong (dRes 64) w fun d sc a => .atomMinI u d sc (wOf w) (ordOf w) a
    | 5 => decStrong (dRes 64) w fun d sc a => .atomMaxI u d sc (wOf w) (ordOf w) a
    | 6 => decStrong (dRes 64) w fun d sc a => .atomMinZ u d sc (wOf w) (ordOf w) a
    | 7 => decStrong (dRes 64) w fun d sc a => .atomMaxZ u d sc (wOf w) (ordOf w) a
    | 8 => decStrong (dRes 64) w fun d sc a => .atomSwap u d sc (wOf w) (ordOf w) a
    | 9 => decStrong (dRes 64) w fun d sc a => .atomCas u d sc (wOf w) (ordOf w) a
    | _ => none
  | 23 => decD (dData 64) w fun d => .qpushS u d (finOf (fnOf w))
  | _ => none

/-- The branch forms of S1 (Table 05-9). -/
def decodeBranchS1 (w : W32) : Parsed :=
  match (opOf w).toNat with
  | 48 => decBr w fun c off => .brS1 c off
  | 49 => decBr w fun c off => .brzS1 c off
  | 50 => decBr w fun c off => .callS1 c off
  | _ => none

/-- V0 and V1 (Table 05-10). -/
def decodeVector (u : VU) (w : W32) : Parsed :=
  match (opOf w).toNat with
  | 1 => decDAB (dOpt 32) w fun d a b => .vaddF32 u d (finOf (fnOf w)) a b
  | 2 => decDAB (dOpt 32) w fun d a b => .vsubF32 u d (finOf (fnOf w)) a b
  | 3 => decDAB (dOpt 32) w fun d a b => .vmulF32 u d (finOf (fnOf w)) a b
  | 4 => decDAB (dRes 32) w fun d a b => .vfmaF32 u d (finOf (fnOf w)) a b
  | 5 => decDAB (dOpt 32) w fun d a b => .vminF32 u d (finOf (fnOf w)) a b
  | 6 => decDAB (dOpt 32) w fun d a b => .vmaxF32 u d (finOf (fnOf w)) a b
  | 7 => decDAB (dOpt 32) w fun d a b => .vaddBf16 u d (finOf (fnOf w)) a b
  | 8 => decDAB (dOpt 32) w fun d a b => .vsubBf16 u d (finOf (fnOf w)) a b
  | 9 => decDAB (dOpt 32) w fun d a b => .vmulBf16 u d (finOf (fnOf w)) a b
  | 10 => decDAB (dRes 32) w fun d a b => .vfmaBf16 u d (finOf (fnOf w)) a b
  | 11 => decDAB (dOpt 32) w fun d a b => .vminBf16 u d (finOf (fnOf w)) a b
  | 12 => decDAB (dOpt 32) w fun d a b => .vmaxBf16 u d (finOf (fnOf w)) a b
  | 13 => match (bOf w).toNat with
    | 0 => decDAm (dOpt 32) w fun d a => .vabsF32 u d (finOf (fnOf w)) a
    | 1 => decDAm (dOpt 32) w fun d a => .vnegF32 u d (finOf (fnOf w)) a
    | 2 => decDAm (dOpt 32) w fun d a => .vexp2F32 u d (finOf (fnOf w)) a
    | 3 => decDAm (dOpt 32) w fun d a => .vrcpF32 u d (finOf (fnOf w)) a
    | 4 => decDAm (dOpt 32) w fun d a => .vrsqrtF32 u d (finOf (fnOf w)) a
    | _ => none
  | 14 => match (bOf w).toNat with
    | 0 => decDAm (dOpt 32) w fun d a => .vabsBf16 u d (finOf (fnOf w)) a
    | 1 => decDAm (dOpt 32) w fun d a => .vnegBf16 u d (finOf (fnOf w)) a
    | 2 => decDAm (dOpt 32) w fun d a => .vexp2Bf16 u d (finOf (fnOf w)) a
    | 3 => decDAm (dOpt 32) w fun d a => .vrcpBf16 u d (finOf (fnOf w)) a
    | 4 => decDAm (dOpt 32) w fun d a => .vrsqrtBf16 u d (finOf (fnOf w)) a
    | _ => none
  | 15 => match (fnOf w).toNat with
    | 0 => decDAB (dOpt 32) w fun d a b => .vaddI16 u d a b
    | 1 => decDAB (dOpt 32) w fun d a b => .vsubI16 u d a b
    | 2 => decDAB (dOpt 32) w fun d a b => .vmulI16 u d a b
    | 3 => decDAB (dOpt 32) w fun d a b => .vminI16 u d a b
    | 4 => decDAB (dOpt 32) w fun d a b => .vmaxI16 u d a b
    | 5 => decDAB (dOpt 32) w fun d a b => .vaddsI16 u d a b
    | 6 => decDAB (dOpt 32) w fun d a b => .vsubsI16 u d a b
    | _ => none
  | 16 => match (fnOf w).toNat with
    | 0 => decDAB (dOpt 32) w fun d a b => .vaddI32 u d a b
    | 1 => decDAB (dOpt 32) w fun d a b => .vsubI32 u d a b
    | 2 => decDAB (dOpt 32) w fun d a b => .vmulI32 u d a b
    | 3 => decDAB (dOpt 32) w fun d a b => .vminI32 u d a b
    | 4 => decDAB (dOpt 32) w fun d a b => .vmaxI32 u d a b
    | 5 => decDAB (dOpt 32) w fun d a b => .vaddsI32 u d a b
    | 6 => decDAB (dOpt 32) w fun d a b => .vsubsI32 u d a b
    | _ => none
  | 17 => match (fnOf w).toNat with
    | 0 => decDAB (dOpt 32) w fun d a b => .vaddZ16 u d a b
    | 1 => decDAB (dOpt 32) w fun d a b => .vsubZ16 u d a b
    | 2 => decDAB (dOpt 32) w fun d a b => .vmulZ16 u d a b
    | 3 => decDAB (dOpt 32) w fun d a b => .vminZ16 u d a b
    | 4 => decDAB (dOpt 32) w fun d a b => .vmaxZ16 u d a b
    | 5 => decDAB (dOpt 32) w fun d a b => .vaddsZ16 u d a b
    | 6 => decDAB (dOpt 32) w fun d a b => .vsubsZ16 u d a b
    | _ => none
  | 18 => match (fnOf w).toNat with
    | 0 => decDAB (dOpt 32) w fun d a b => .vaddZ32 u d a b
    | 1 => decDAB (dOpt 32) w fun d a b => .vsubZ32 u d a b
    | 2 => decDAB (dOpt 32) w fun d a b => .vmulZ32 u d a b
    | 3 => decDAB (dOpt 32) w fun d a b => .vminZ32 u d a b
    | 4 => decDAB (dOpt 32) w fun d a b => .vmaxZ32 u d a b
    | 5 => decDAB (dOpt 32) w fun d a b => .vaddsZ32 u d a b
    | 6 => decDAB (dOpt 32) w fun d a b => .vsubsZ32 u d a b
    | _ => none
  | 19 => match (fnOf w).toNat with
    | 0 => decDAB (dOpt 32) w fun d a b => .vand u d a b
    | 1 => decDAB (dOpt 32) w fun d a b => .vor u d a b
    | 2 => decDAB (dOpt 32) w fun d a b => .vxor u d a b
    | 3 => decDAB (dOpt 32) w fun d a b => .vandn u d a b
    | 4 => decDA (dOpt 32) w fun d a => .vnot u d a
    | _ => none
  | 20 => match (fnOf w).toNat with
    | 0 => decDAB (dOpt 32) w fun d a b => .vshlW16 u d a b
    | 1 => decDAB (dOpt 32) w fun d a b => .vshrW16 u d a b
    | 2 => decDAB (dOpt 32) w fun d a b => .vsarW16 u d a b
    | 4 => decDAB (dOpt 32) w fun d a b => .vshlW32 u d a b
    | 5 => decDAB (dOpt 32) w fun d a b => .vshrW32 u d a b
    | 6 => decDAB (dOpt 32) w fun d a b => .vsarW32 u d a b
    | _ => none
  | 21 => match (fnOf w).toNat with
    | 0 => decDAB (dOpt 24) w fun d a b => .vceqF32 u d a b
    | 1 => decDAB (dOpt 24) w fun d a b => .vcneF32 u d a b
    | 2 => decDAB (dOpt 24) w fun d a b => .vcltF32 u d a b
    | 3 => decDAB (dOpt 24) w fun d a b => .vcleF32 u d a b
    | 4 => decDAB (dOpt 24) w fun d a b => .vcunF32 u d a b
    | _ => none
  | 22 => match (fnOf w).toNat with
    | 0 => decDAB (dOpt 24) w fun d a b => .vceqBf16 u d a b
    | 1 => decDAB (dOpt 24) w fun d a b => .vcneBf16 u d a b
    | 2 => decDAB (dOpt 24) w fun d a b => .vcltBf16 u d a b
    | 3 => decDAB (dOpt 24) w fun d a b => .vcleBf16 u d a b
    | 4 => decDAB (dOpt 24) w fun d a b => .vcunBf16 u d a b
    | _ => none
  | 23 => match (fnOf w).toNat with
    | 0 => decDAB (dOpt 24) w fun d a b => .vceqW16 u d a b
    | 1 => decDAB (dOpt 24) w fun d a b => .vcneW16 u d a b
    | 2 => decDAB (dOpt 24) w fun d a b => .vcltI16 u d a b
    | 3 => decDAB (dOpt 24) w fun d a b => .vcleI16 u d a b
    | 4 => decDAB (dOpt 24) w fun d a b => .vcltZ16 u d a b
    | 5 => decDAB (dOpt 24) w fun d a b => .vcleZ16 u d a b
    | _ => none
  | 24 => match (fnOf w).toNat with
    | 0 => decDAB (dOpt 24) w fun d a b => .vceqW32 u d a b
    | 1 => decDAB (dOpt 24) w fun d a b => .vcneW32 u d a b
    | 2 => decDAB (dOpt 24) w fun d a b => .vcltI32 u d a b
    | 3 => decDAB (dOpt 24) w fun d a b => .vcleI32 u d a b
    | 4 => decDAB (dOpt 24) w fun d a b => .vcltZ32 u d a b
    | 5 => decDAB (dOpt 24) w fun d a b => .vcleZ32 u d a b
    | _ => none
  | 25 => decDAB (dOpt 32) w fun d a b => .sel u d (finOf (fnOf w)) a b
  | 26 => match (fnOf w).toNat with
    | 0 => decDAB (dOpt 32) w fun d a b => .perm u d a b
    | 1 => decDAB (dOpt 32) w fun d a b => .rot u d a b
    | 2 => decDAB (dOpt 32) w fun d a b => .bcast u d a b
    | 3 => decDAB (dOpt 32) w fun d a b => .zip u d a b
    | 4 => decDAB (dOpt 32) w fun d a b => .unzip u d a b
    | 5 => decDAB (dOpt 32) w fun d a b => .bcastW32 u d a b
    | 6 => decDAB (dOpt 32) w fun d a b => .permW32 u d a b
    | _ => none
  | 27 => decDAm (dOpt 64) w fun d a => .raddF32 u d (finOf (fnOf w)) a (bOf w)
  | 28 => decDAm (dOpt 64) w fun d a => .raddBf16 u d (finOf (fnOf w)) a (bOf w)
  | 29 => decDAm (dOpt 64) w fun d a => .raddInt u d (finOf (fnOf w)) a (bOf w)
  | 30 => decDAB (dOpt 64) w fun d a b => .rdotF32 u d (finOf (fnOf w)) a b
  | 31 => decDAB (dOpt 64) w fun d a b => .rdotBf16 u d (finOf (fnOf w)) a b
  | 32 => decDAm (dOpt 64) w fun d a => .rmax u d (finOf (fnOf w)) a (bOf w)
  | 33 => decDAm (dOpt 64) w fun d a => .rmin u d (finOf (fnOf w)) a (bOf w)
  | 35 => (decSrc (aOf w)).map fun a => (.cvt u (finOf (vdOf w)) (stOf w) (rmOf w) (satOf w == 1#1) (dtOf w) a, vresOf w != 0#1)
  | 36 => match (fnOf w).toNat with
    | 0 => decDAB (dOpt 64) w fun d a b => .rcupd u d a b
    | 1 => decDB (dOpt 32) w fun d b => .rcrd u d b
    | 2 => decDAB (dOpt 32) w fun d a b => .rcwr u d a b
    | 3 => decDAB (dOpt 64) w fun d a b => .exit u d a b
    | 4 => decDB (dOpt 64) w fun d b => .recurse u d b
    | 5 => decDB (dOpt 64) w fun d b => .exitC u d b
    | _ => none
  | 37 => match (fnOf w).toNat with
    | 0 => decDAB (dOpt 64) w fun d a b => .pack u d a b
    | 1 => decDAB (dOpt 64) w fun d a b => .packRc u d a b
    | 2 => decDAB (dOpt 64) w fun d a b => .packM u d a b
    | 3 => decDAB (dOpt 64) w fun d a b => .unpack u d a b
    | 4 => decDAB (dOpt 64) w fun d a b => .unpackC u d a b
    | _ => none
  | 38 => match (fnOf w).toNat with
    | 0 => decDAB (dOpt 32) w fun d a b => .vld u d a b
    | _ => none
  | 39 => decDAB (dOpt 32) w fun d a b => .vldNr u d (finOf (fnOf w)) a b
  | 40 => match (fnOf w).toNat with
    | 0 => decDAB (dData 32) w fun d a b => .vst u d a b
    | _ => none
  | 41 => match (fnOf w).toNat with
    | 0 => decDAm (dOpt 32) w fun d a => .vlds u d a (bOf w)
    | 1 => decDAm (dOpt 32) w fun d a => .vldsC u d a (bOf w)
    | _ => none
  | 42 => match (fnOf w).toNat with
    | 0 => decDAm (dData 32) w fun d a => .vsts u d a (bOf w)
    | 1 => decDAm (dData 32) w fun d a => .vstsF u d a (bOf w)
    | _ => none
  | 43 => decD (dData 32) w fun d => .qpushV u d (finOf (fnOf w))
  | _ => none

/-- M (Table 05-11). -/
noncomputable def decodeMatrix (w : W32) : Parsed :=
  match (opOf w).toNat with
  | 1 => match (mfnOf w).toNat with
    | 0 => decMAB w false fun a b => .mmaBf16 (finOf (accOf w)) (finOf (shOf w)) a b
    | 1 => decMAB w false fun a b => .mmaBf16Mc (finOf (accOf w)) (finOf (shOf w)) a b
    | 2 => decMAB w false fun a b => .mmaBf16Rop (finOf (accOf w)) (finOf (shOf w)) a b
    | _ => none
  | 2 => match (mfnOf w).toNat with
    | 0 => decMAB w false fun a b => .mmaF16 (finOf (accOf w)) (finOf (shOf w)) a b
    | 1 => decMAB w false fun a b => .mmaF16Mc (finOf (accOf w)) (finOf (shOf w)) a b
    | 2 => decMAB w false fun a b => .mmaF16Rop (finOf (accOf w)) (finOf (shOf w)) a b
    | _ => none
  | 3 => match (mfnOf w).toNat with
    | 0 => decMAB w false fun a b => .mmaE4m3 (finOf (accOf w)) (finOf (shOf w)) a b
    | 1 => decMAB w false fun a b => .mmaE4m3Mc (finOf (accOf w)) (finOf (shOf w)) a b
    | 2 => decMAB w false fun a b => .mmaE4m3Rop (finOf (accOf w)) (finOf (shOf w)) a b
    | _ => none
  | 4 => match (mfnOf w).toNat with
    | 0 => decMAB w false fun a b => .mmaE5m2 (finOf (accOf w)) (finOf (shOf w)) a b
    | 1 => decMAB w false fun a b => .mmaE5m2Mc (finOf (accOf w)) (finOf (shOf w)) a b
    | 2 => decMAB w false fun a b => .mmaE5m2Rop (finOf (accOf w)) (finOf (shOf w)) a b
    | _ => none
  | 5 => match (mfnOf w).toNat with
    | 0 => decMAB w false fun a b => .mmaF4x (finOf (accOf w)) (finOf (shOf w)) a b
    | 1 => decMAB w false fun a b => .mmaF4xMc (finOf (accOf w)) (finOf (shOf w)) a b
    | 2 => decMAB w false fun a b => .mmaF4xRop (finOf (accOf w)) (finOf (shOf w)) a b
    | _ => none
  | 8 => match (mfnOf w).toNat with
    | 0 => decMA w (shOf w != 0#4 || bOf w != 0#8) fun a => .azero (finOf (accOf w)) a
    | 1 => decMA w (shOf w != 0#4 || bOf w != 0#8) fun a => .azeroV (finOf (accOf w)) a
    | 2 => decMA w (shOf w != 0#4 || bOf w != 0#8) fun a => .azeroB (finOf (accOf w)) a
    | _ => none
  | 9 => match (mfnOf w).toNat with
    | 0 => decMAB w (shOf w != 0#4) fun a b => .asetx (finOf (accOf w)) a b
    | 1 => decMAB w (shOf w != 0#4) fun a b => .asetxV (finOf (accOf w)) a b
    | 2 => decMAB w (shOf w != 0#4) fun a b => .asetxZ (finOf (accOf w)) a b
    | 3 => decMAB w (shOf w != 0#4) fun a b => .asetxZV (finOf (accOf w)) a b
    | _ => none
  | 10 => match (mfnOf w).toNat with
    | 0 => decMAB w (shOf w != 0#4) fun a b => .anorm (finOf (accOf w)) a b
    | 1 => decMAB w (shOf w != 0#4) fun a b => .anormV (finOf (accOf w)) a b
    | _ => none
  | 11 => match (mfnOf w).toNat with
    | 0 => some (.aswap (finOf (accOf w)), (shOf w != 0#4 || bOf w != 0#8 || aOf w != 0#8))
    | _ => none
  | 12 => match (mfnOf w).toNat with
    | 0 => decMA w (shOf w != 0#4) fun a => .ardout (finOf (accOf w)) a (bOf w)
    | 1 => decMA w false fun a => .ardoutS (finOf (accOf w)) (finOf (shOf w)) a (bOf w)
    | 2 => decMA w false fun a => .ardoutSf (finOf (accOf w)) (finOf (shOf w)) a (bOf w)
    | _ => none
  | 16 => match (mfnOf w).toNat with
    | 0 => decMAB w false fun a b => .ascore (finOf (accOf w)) (finOf (shOf w)) a b
    | 1 => decMAB w false fun a b => .ascoreGm (finOf (accOf w)) (finOf (shOf w)) a b
    | _ => none
  | 17 => match (mfnOf w).toNat with
    | 0 => decMAB w (shOf w != 0#4) fun a b => .avalue (finOf (accOf w)) a b
    | 1 => decMAB w (shOf w != 0#4) fun a b => .avalueHi (finOf (accOf w)) a b
    | _ => none
  | 18 => match (mfnOf w).toNat with
    | 0 => decMAB w (shOf w != 0#4) fun a b => .smerge (finOf (accOf w)) a b
    | 1 => decMAB w (shOf w != 0#4) fun a b => .smergeX (finOf (accOf w)) a b
    | 2 => decMAB w (shOf w != 0#4) fun a b => .smergeI (finOf (accOf w)) a b
    | _ => none
  | 19 => decMAB w (accOf w != 0#4 || shOf w != 0#4 || mfnOf w != 0#2) fun a b => .mskld a b
  | 20 => match (mfnOf w).toNat with
    | 0 => decMAB w (accOf w != 0#4) fun a b => .kvapp (finOf (shOf w)) a b
    | _ => none
  | _ => none

/-- X (Table 05-12). -/
noncomputable def decodeEngine (w : W32) : Parsed :=
  match (opOf w).toNat with
  | 1 => match (fnOf w).toNat with
    | 0 => decDAB (dOpt 64) w fun d a b => .copy d a b
    | _ => none
  | 2 => decDAB (dOpt 64) w fun d a b => .gather d (finOf (fnOf w)) a b
  | 3 => decDAB (dOpt 64) w fun d a b => .scatter d (finOf (fnOf w)) a b
  | 4 => match (fnOf w).toNat with
    | 0 => decDAB (dOpt 64) w fun d a b => .smpl d a b
    | _ => none
  | 5 => match (fnOf w).toNat with
    | 0 => decDAB (dOpt 64) w fun d a b => .fst d a b
    | 1 => decDAB (dOpt 64) w fun d a b => .fstOf d a b
    | 2 => decDAB (dOpt 64) w fun d a b => .fstSp d a b
    | 3 => decDAB (dOpt 64) w fun d a b => .fstOfSp d a b
    | _ => none
  | 6 => match (fnOf w).toNat with
    | 0 => decDAB (dData 64) w fun d a b => .ratomAdd d a b
    | 1 => decDAB (dData 64) w fun d a b => .ratomAnd d a b
    | 2 => decDAB (dData 64) w fun d a b => .ratomOr d a b
    | 3 => decDAB (dData 64) w fun d a b => .ratomXor d a b
    | 4 => decDAB (dData 64) w fun d a b => .ratomMinI64 d a b
    | 5 => decDAB (dData 64) w fun d a b => .ratomMaxI64 d a b
    | 6 => decDAB (dData 64) w fun d a b => .ratomMinZ64 d a b
    | 7 => decDAB (dData 64) w fun d a b => .ratomMaxZ64 d a b
    | _ => none
  | 7 => match (fnOf w).toNat with
    | 0 => decZ w .ackf
    | _ => none
  | 8 => match (fnOf w).toNat with
    | 0 => decDA (dOpt 64) w fun d a => .jopen d a
    | 1 => decDAB (dOpt 64) w fun d a b => .jarrive d a b
    | 2 => decDAB (dOpt 64) w fun d a b => .jwait d a b
    | 3 => decDAB (dOpt 64) w fun d a b => .jrule d a b
    | _ => none
  | 9 => match (fnOf w).toNat with
    | 0 => decDAB (dOpt 64) w fun d a b => .fillreg d a b
    | 1 => decDB (dOpt 64) w fun d b => .fillregT d b
    | 2 => decDB (dOpt 64) w fun d b => .fillregTf d b
    | 3 => decDAB (dOpt 64) w fun d a b => .fillregTm d a b
    | 4 => decDAB (dOpt 64) w fun d a b => .fillregW d a b
    | _ => none
  | 10 => match (fnOf w).toNat with
    | 0 => decDA (dOpt 64) w fun d a => .accept d a
    | _ => none
  | 11 => match (fnOf w).toNat with
    | 0 => decDAB (dOpt 64) w fun d a b => .ahpush d a b
    | _ => none
  | 12 => match (fnOf w).toNat with
    | 0 => decDAB (dOpt 64) w fun d a b => .ahsel d a b
    | _ => none
  | 13 => match (fnOf w).toNat with
    | 0 => decDAB (dOpt 64) w fun d a b => .mapreq d a b
    | _ => none
  | 14 => match (fnOf w).toNat with
    | 0 => decDA (dOpt 32) w fun d a => .wqpop d a
    | 1 => decDA (dOpt 32) w fun d a => .wqtry d a
    | 2 => decDA (dData 32) w fun d a => .wqpush d a
    | 3 => decDA (dOpt 64) w fun d a => .wqclose d a
    | _ => none
  | 15 => match (fnOf w).toNat with
    | 0 => decDAB (dOpt 64) w fun d a b => .kvalloc d a b
    | 1 => decDAB (dOpt 64) w fun d a b => .kvgrow d a b
    | 2 => decDAB (dOpt 64) w fun d a b => .kvfork d a b
    | 3 => decDA (dOpt 64) w fun d a => .kvfree d a
    | 4 => decDAB (dOpt 64) w fun d a b => .kvinval d a b
    | _ => none
  | 16 => decD (dData 32) w fun d => .qpushX d (finOf (fnOf w))
  | _ => none

/-- C (Table 05-13, Table 13-2). The dst of bar, of which R185 says nothing, is res0 here (log 60). -/
noncomputable def decodeControl (w : W32) : Parsed :=
  match (opOf w).toNat with
  | 1 => decBr w fun c off => .brC c off
  | 2 => decBr w fun c off => .brzC c off
  | 3 => decBr w fun c off => .callC c off
  | 4 => match (fnOf w).toNat with
    | 0 => decA w fun a => .ret a
    | _ => none
  | 5 => match (fnOf w).toNat with
    | 0 => decAB w fun a b => .fjmp a b
    | _ => none
  | 6 => if lrOf w = 0#1 then (decSrc (aOf w)).map fun a => (.lap (lenOf w) a, lresOf w != 0#11)
    else some (.lapLr (lenOf w), lresOf w != 0#11 || aOf w != 0#8)
  | 7 => decScoped w fun sc => decZ w (.phase sc)
  | 8 => decScoped w fun sc => decAB w fun a b => .bar sc a b
  | 9 => match (fnOf w).toNat with
    | 0 => decA w fun a => .wait a
    | 1 => decZ w .waitP
    | _ => none
  | 10 => match (fnOf w).toNat with
    | 0 => decZ w .tend
    | 1 => decZ w .kpoint
    | _ => none
  | 11 => match (fnOf w).toNat with
    | 0 => decAB w fun a b => .spawn a b
    | _ => none
  | 12 => match (fnOf w).toNat with
    | 0 => decA w fun a => .trap a
    | 1 => decZ w .rti
    | _ => none
  | 56 => match (fnOf w).toNat with
    | 0 => decDA (dOpt 64) w fun d a => .srd d a
    | 1 => decDAB (dOpt 64) w fun d a b => .swr d a b
    | _ => none
  | 57 => match (fnOf w).toNat with
    | 0 => decDAB (dOpt 64) w fun d a b => .ubrd d a b
    | 1 => decDAB (dData 64) w fun d a b => .ubwr d a b
    | _ => none
  | 58 => match (fnOf w).toNat with
    | 0 => decDA (dOpt 64) w fun d a => .lctlPark d a
    | 1 => decDA (dOpt 64) w fun d a => .lctlRes d a
    | 2 => decDA (dOpt 64) w fun d a => .lctlAbort d a
    | _ => none
  | 59 => match (fnOf w).toNat with
    | 0 => decA w fun a => .otinv a
    | 1 => decZ w .otinvAll
    | _ => none
  | 60 => match (fnOf w).toNat with
    | 0 => decDAB (dOpt 64) w fun d a b => .mcall d a b
    | 1 => decAB w fun a b => .mans a b
    | _ => none
  | 61 => match (fnOf w).toNat with
    | 0 => decDAB (dOpt 64) w fun d a b => .erpost d a b
    | _ => none
  | _ => none

/-- The slots of a bundle in the order of Table 05-1. -/
inductive Slot where
  | s0 | s1 | v0 | v1 | m | x | c
deriving DecidableEq, Repr

/-- The number a slot has in trap records (Table 15-4). -/
def Slot.num : Slot → Nat
  | .s0 => 0 | .s1 => 1 | .v0 => 2 | .v1 => 3 | .m => 4 | .x => 5 | .c => 6

/-- What a slot word says, its instruction being other than a nop. -/
noncomputable def decodeWord (sl : Slot) (w : W32) : Parsed :=
  match sl with
  | .s0 => decodeScalar .s0 w
  | .s1 => if 0x30 ≤ (opOf w).toNat then decodeBranchS1 w else decodeScalar .s1 w
  | .v0 => decodeVector .v0 w
  | .v1 => decodeVector .v1 w
  | .m => decodeMatrix w
  | .x => decodeEngine w
  | .c => decodeControl w

/-- The word of a slot operation, from the encoding tables (0 for an event, which has no word). -/
def encode : Instr → W32
  | .addI64 _ d a b => encR 1#6 (encOpt d) 0#3 (encSrc b) (encSrc a)
  | .subI64 _ d a b => encR 1#6 (encOpt d) 1#3 (encSrc b) (encSrc a)
  | .minI64 _ d a b => encR 1#6 (encOpt d) 2#3 (encSrc b) (encSrc a)
  | .maxI64 _ d a b => encR 1#6 (encOpt d) 3#3 (encSrc b) (encSrc a)
  | .addsI64 _ d a b => encR 1#6 (encOpt d) 4#3 (encSrc b) (encSrc a)
  | .minZ64 _ d a b => encR 1#6 (encOpt d) 5#3 (encSrc b) (encSrc a)
  | .maxZ64 _ d a b => encR 1#6 (encOpt d) 6#3 (encSrc b) (encSrc a)
  | .addI32 _ d a b => encR 2#6 (encOpt d) 0#3 (encSrc b) (encSrc a)
  | .subI32 _ d a b => encR 2#6 (encOpt d) 1#3 (encSrc b) (encSrc a)
  | .minI32 _ d a b => encR 2#6 (encOpt d) 2#3 (encSrc b) (encSrc a)
  | .maxI32 _ d a b => encR 2#6 (encOpt d) 3#3 (encSrc b) (encSrc a)
  | .addsI32 _ d a b => encR 2#6 (encOpt d) 4#3 (encSrc b) (encSrc a)
  | .minZ32 _ d a b => encR 2#6 (encOpt d) 5#3 (encSrc b) (encSrc a)
  | .maxZ32 _ d a b => encR 2#6 (encOpt d) 6#3 (encSrc b) (encSrc a)
  | .and _ d a b => encR 3#6 (encOpt d) 0#3 (encSrc b) (encSrc a)
  | .or _ d a b => encR 3#6 (encOpt d) 1#3 (encSrc b) (encSrc a)
  | .xor _ d a b => encR 3#6 (encOpt d) 2#3 (encSrc b) (encSrc a)
  | .andn _ d a b => encR 3#6 (encOpt d) 3#3 (encSrc b) (encSrc a)
  | .orn _ d a b => encR 3#6 (encOpt d) 4#3 (encSrc b) (encSrc a)
  | .not _ d a => encR 3#6 (encOpt d) 5#3 0#8 (encSrc a)
  | .shl _ d a b => encR 4#6 (encOpt d) 0#3 (encSrc b) (encSrc a)
  | .shr _ d a b => encR 4#6 (encOpt d) 1#3 (encSrc b) (encSrc a)
  | .sar _ d a b => encR 4#6 (encOpt d) 2#3 (encSrc b) (encSrc a)
  | .ceq _ d a b => encR 5#6 (encOpt d) 0#3 (encSrc b) (encSrc a)
  | .cne _ d a b => encR 5#6 (encOpt d) 1#3 (encSrc b) (encSrc a)
  | .cltI64 _ d a b => encR 5#6 (encOpt d) 2#3 (encSrc b) (encSrc a)
  | .cleI64 _ d a b => encR 5#6 (encOpt d) 3#3 (encSrc b) (encSrc a)
  | .cltZ64 _ d a b => encR 5#6 (encOpt d) 4#3 (encSrc b) (encSrc a)
  | .cleZ64 _ d a b => encR 5#6 (encOpt d) 5#3 (encSrc b) (encSrc a)
  | .mul _ d a b => encR 6#6 (encOpt d) 0#3 (encSrc b) (encSrc a)
  | .mulhI64 _ d a b => encR 6#6 (encOpt d) 1#3 (encSrc b) (encSrc a)
  | .mulhZ64 _ d a b => encR 6#6 (encOpt d) 2#3 (encSrc b) (encSrc a)
  | .divI64 _ d a b => encR 7#6 (encOpt d) 0#3 (encSrc b) (encSrc a)
  | .divZ64 _ d a b => encR 7#6 (encOpt d) 1#3 (encSrc b) (encSrc a)
  | .remI64 _ d a b => encR 7#6 (encOpt d) 2#3 (encSrc b) (encSrc a)
  | .remZ64 _ d a b => encR 7#6 (encOpt d) 3#3 (encSrc b) (encSrc a)
  | .divI32 _ d a b => encR 7#6 (encOpt d) 4#3 (encSrc b) (encSrc a)
  | .divZ32 _ d a b => encR 7#6 (encOpt d) 5#3 (encSrc b) (encSrc a)
  | .remI32 _ d a b => encR 7#6 (encOpt d) 6#3 (encSrc b) (encSrc a)
  | .remZ32 _ d a b => encR 7#6 (encOpt d) 7#3 (encSrc b) (encSrc a)
  | .li _ d imm => encI 8#6 (encFin 7 d) 0#3 imm
  | .lis _ d k imm => encI 8#6 (encFin 7 d) (encFin 3 k.succ) imm
  | .addi _ d imm => encI 8#6 (encFin 7 d) 4#3 imm
  | .andi _ d imm => encI 8#6 (encFin 7 d) 5#3 imm
  | .mov _ d a => encR 9#6 (encOpt d) 0#3 0#8 (encSrc a)
  | .clz _ d a => encR 9#6 (encOpt d) 1#3 0#8 (encSrc a)
  | .ctz _ d a => encR 9#6 (encOpt d) 2#3 0#8 (encSrc a)
  | .popc _ d a => encR 9#6 (encOpt d) 3#3 0#8 (encSrc a)
  | .sext _ d a b => encR 9#6 (encOpt d) 4#3 (encSrc b) (encSrc a)
  | .zext _ d a b => encR 9#6 (encOpt d) 5#3 (encSrc b) (encSrc a)
  | .cder _ d a b => encR 10#6 (encOpt d) 0#3 (encSrc b) (encSrc a)
  | .cbnd _ d a b => encR 10#6 (encOpt d) 1#3 (encSrc b) (encSrc a)
  | .csetoff _ d a b => encR 10#6 (encOpt d) 2#3 (encSrc b) (encSrc a)
  | .caddoff _ d a b => encR 10#6 (encOpt d) 3#3 (encSrc b) (encSrc a)
  | .cmov _ d a => encR 10#6 (encOpt d) 4#3 0#8 (encSrc a)
  | .cchk _ d a b => encR 10#6 (encOpt d) 5#3 (encSrc b) (encSrc a)
  | .cget _ d a b => encR 10#6 (encOpt d) 6#3 (encSrc b) (encSrc a)
  | .shld _ d a b => encR 11#6 (encOpt d) 0#3 (encSrc b) (encSrc a)
  | .shldImg _ d b => encR 11#6 (encOpt d) 1#3 (encSrc b) 0#8
  | .shset _ d a b => encR 11#6 (encFin 7 d) 2#3 (encSrc b) (encSrc a)
  | .shget _ d a b => encR 11#6 (encOpt d) 3#3 (encSrc b) (encSrc a)
  | .pand _ d a b => encR 12#6 (encOpt d) 0#3 (encSrc b) (encSrc a)
  | .por _ d a b => encR 12#6 (encOpt d) 1#3 (encSrc b) (encSrc a)
  | .pxor _ d a b => encR 12#6 (encOpt d) 2#3 (encSrc b) (encSrc a)
  | .pandn _ d a b => encR 12#6 (encOpt d) 3#3 (encSrc b) (encSrc a)
  | .pnot _ d a => encR 12#6 (encOpt d) 4#3 0#8 (encSrc a)
  | .pmov _ d a => encR 12#6 (encOpt d) 5#3 0#8 (encSrc a)
  | .pset _ d a => encR 13#6 (encOpt d) 0#3 0#8 (encSrc a)
  | .pany _ d a => encR 13#6 (encOpt d) 1#3 0#8 (encSrc a)
  | .pcnt _ d a => encR 13#6 (encOpt d) 2#3 0#8 (encSrc a)
  | .rdsr _ d b => encR 14#6 (encOpt d) 0#3 (encSrc b) 0#8
  | .wrsr _ a b => encR 14#6 0#7 1#3 (encSrc b) (encSrc a)
  | .bfrd _ d b => encR 15#6 (encOpt d) 0#3 (encSrc b) 0#8
  | .bfwr _ a b => encR 15#6 0#7 1#3 (encSrc b) (encSrc a)
  | .ldZ8 _ d a b => encR 16#6 (encOpt d) 0#3 (encSrc b) (encSrc a)
  | .ldZ16 _ d a b => encR 16#6 (encOpt d) 1#3 (encSrc b) (encSrc a)
  | .ldZ32 _ d a b => encR 16#6 (encOpt d) 2#3 (encSrc b) (encSrc a)
  | .ldI8 _ d a b => encR 16#6 (encOpt d) 3#3 (encSrc b) (encSrc a)
  | .ldI16 _ d a b => encR 16#6 (encOpt d) 4#3 (encSrc b) (encSrc a)
  | .ldI32 _ d a b => encR 16#6 (encOpt d) 5#3 (encSrc b) (encSrc a)
  | .ldI64 _ d a b => encR 16#6 (encOpt d) 6#3 (encSrc b) (encSrc a)
  | .ldC128 _ d a b => encR 16#6 (encOpt d) 7#3 (encSrc b) (encSrc a)
  | .ldNr _ d p a b => encR 17#6 (encOpt d) (encFin 3 p) (encSrc b) (encSrc a)
  | .stZ8 _ d a b => encR 18#6 (encFin 7 d) 0#3 (encSrc b) (encSrc a)
  | .stZ16 _ d a b => encR 18#6 (encFin 7 d) 1#3 (encSrc b) (encSrc a)
  | .stZ32 _ d a b => encR 18#6 (encFin 7 d) 2#3 (encSrc b) (encSrc a)
  | .stZ64 _ d a b => encR 18#6 (encFin 7 d) 3#3 (encSrc b) (encSrc a)
  | .lds _ d a b => encR 19#6 (encOpt d) 0#3 (encSrc b) (encSrc a)
  | .ldsC _ d a b => encR 19#6 (encOpt d) 1#3 (encSrc b) (encSrc a)
  | .sts _ d a b => encR 19#6 (encFin 7 d) 2#3 (encSrc b) (encSrc a)
  | .stsF _ d a b => encR 19#6 (encFin 7 d) 3#3 (encSrc b) (encSrc a)
  | .drain _ a b => encR 19#6 0#7 4#3 (encSrc b) (encSrc a)
  | .ldRlx _ d sc w sg a => encA 20#6 (encOpt d) (encScope sc) w (BitVec.ofNat 4 sg.toNat) 0#2 (encSrc a)
  | .ldAcq _ d sc w sg a => encA 20#6 (encOpt d) (encScope sc) w (BitVec.ofNat 4 sg.toNat) 1#2 (encSrc a)
  | .stRlx _ d sc w a => encA 21#6 (encFin 7 d) (encScope sc) w 0#4 0#2 (encSrc a)
  | .stRel _ d sc w a => encA 21#6 (encFin 7 d) (encScope sc) w 0#4 2#2 (encSrc a)
  | .atomAdd _ d sc w o a => encA 22#6 (encFin 7 d) (encScope sc) w 0#4 o (encSrc a)
  | .atomAnd _ d sc w o a => encA 22#6 (encFin 7 d) (encScope sc) w 1#4 o (encSrc a)
  | .atomOr _ d sc w o a => encA 22#6 (encFin 7 d) (encScope sc) w 2#4 o (encSrc a)
  | .atomXor _ d sc w o a => encA 22#6 (encFin 7 d) (encScope sc) w 3#4 o (encSrc a)
  | .atomMinI _ d sc w o a => encA 22#6 (encFin 7 d) (encScope sc) w 4#4 o (encSrc a)
  | .atomMaxI _ d sc w o a => encA 22#6 (encFin 7 d) (encScope sc) w 5#4 o (encSrc a)
  | .atomMinZ _ d sc w o a => encA 22#6 (encFin 7 d) (encScope sc) w 6#4 o (encSrc a)
  | .atomMaxZ _ d sc w o a => encA 22#6 (encFin 7 d) (encScope sc) w 7#4 o (encSrc a)
  | .atomSwap _ d sc w o a => encA 22#6 (encFin 7 d) (encScope sc) w 8#4 o (encSrc a)
  | .atomCas _ d sc w o a => encA 22#6 (encFin 7 d) (encScope sc) w 9#4 o (encSrc a)
  | .qpushS _ d q => encR 23#6 (encFin 7 d) (encFin 3 q) 0#8 0#8
  | .brS1 c off => encB 48#6 (encSrc c) off
  | .brzS1 c off => encB 49#6 (encSrc c) off
  | .callS1 c off => encB 50#6 (encSrc c) off
  | .vaddF32 _ d g a b => encR 1#6 (encOpt d) (encFin 3 g) (encSrc b) (encSrc a)
  | .vsubF32 _ d g a b => encR 2#6 (encOpt d) (encFin 3 g) (encSrc b) (encSrc a)
  | .vmulF32 _ d g a b => encR 3#6 (encOpt d) (encFin 3 g) (encSrc b) (encSrc a)
  | .vfmaF32 _ d g a b => encR 4#6 (encFin 7 d) (encFin 3 g) (encSrc b) (encSrc a)
  | .vminF32 _ d g a b => encR 5#6 (encOpt d) (encFin 3 g) (encSrc b) (encSrc a)
  | .vmaxF32 _ d g a b => encR 6#6 (encOpt d) (encFin 3 g) (encSrc b) (encSrc a)
  | .vaddBf16 _ d g a b => encR 7#6 (encOpt d) (encFin 3 g) (encSrc b) (encSrc a)
  | .vsubBf16 _ d g a b => encR 8#6 (encOpt d) (encFin 3 g) (encSrc b) (encSrc a)
  | .vmulBf16 _ d g a b => encR 9#6 (encOpt d) (encFin 3 g) (encSrc b) (encSrc a)
  | .vfmaBf16 _ d g a b => encR 10#6 (encFin 7 d) (encFin 3 g) (encSrc b) (encSrc a)
  | .vminBf16 _ d g a b => encR 11#6 (encOpt d) (encFin 3 g) (encSrc b) (encSrc a)
  | .vmaxBf16 _ d g a b => encR 12#6 (encOpt d) (encFin 3 g) (encSrc b) (encSrc a)
  | .vabsF32 _ d g a => encR 13#6 (encOpt d) (encFin 3 g) 0#8 (encSrc a)
  | .vnegF32 _ d g a => encR 13#6 (encOpt d) (encFin 3 g) 1#8 (encSrc a)
  | .vexp2F32 _ d g a => encR 13#6 (encOpt d) (encFin 3 g) 2#8 (encSrc a)
  | .vrcpF32 _ d g a => encR 13#6 (encOpt d) (encFin 3 g) 3#8 (encSrc a)
  | .vrsqrtF32 _ d g a => encR 13#6 (encOpt d) (encFin 3 g) 4#8 (encSrc a)
  | .vabsBf16 _ d g a => encR 14#6 (encOpt d) (encFin 3 g) 0#8 (encSrc a)
  | .vnegBf16 _ d g a => encR 14#6 (encOpt d) (encFin 3 g) 1#8 (encSrc a)
  | .vexp2Bf16 _ d g a => encR 14#6 (encOpt d) (encFin 3 g) 2#8 (encSrc a)
  | .vrcpBf16 _ d g a => encR 14#6 (encOpt d) (encFin 3 g) 3#8 (encSrc a)
  | .vrsqrtBf16 _ d g a => encR 14#6 (encOpt d) (encFin 3 g) 4#8 (encSrc a)
  | .vaddI16 _ d a b => encR 15#6 (encOpt d) 0#3 (encSrc b) (encSrc a)
  | .vsubI16 _ d a b => encR 15#6 (encOpt d) 1#3 (encSrc b) (encSrc a)
  | .vmulI16 _ d a b => encR 15#6 (encOpt d) 2#3 (encSrc b) (encSrc a)
  | .vminI16 _ d a b => encR 15#6 (encOpt d) 3#3 (encSrc b) (encSrc a)
  | .vmaxI16 _ d a b => encR 15#6 (encOpt d) 4#3 (encSrc b) (encSrc a)
  | .vaddsI16 _ d a b => encR 15#6 (encOpt d) 5#3 (encSrc b) (encSrc a)
  | .vsubsI16 _ d a b => encR 15#6 (encOpt d) 6#3 (encSrc b) (encSrc a)
  | .vaddI32 _ d a b => encR 16#6 (encOpt d) 0#3 (encSrc b) (encSrc a)
  | .vsubI32 _ d a b => encR 16#6 (encOpt d) 1#3 (encSrc b) (encSrc a)
  | .vmulI32 _ d a b => encR 16#6 (encOpt d) 2#3 (encSrc b) (encSrc a)
  | .vminI32 _ d a b => encR 16#6 (encOpt d) 3#3 (encSrc b) (encSrc a)
  | .vmaxI32 _ d a b => encR 16#6 (encOpt d) 4#3 (encSrc b) (encSrc a)
  | .vaddsI32 _ d a b => encR 16#6 (encOpt d) 5#3 (encSrc b) (encSrc a)
  | .vsubsI32 _ d a b => encR 16#6 (encOpt d) 6#3 (encSrc b) (encSrc a)
  | .vaddZ16 _ d a b => encR 17#6 (encOpt d) 0#3 (encSrc b) (encSrc a)
  | .vsubZ16 _ d a b => encR 17#6 (encOpt d) 1#3 (encSrc b) (encSrc a)
  | .vmulZ16 _ d a b => encR 17#6 (encOpt d) 2#3 (encSrc b) (encSrc a)
  | .vminZ16 _ d a b => encR 17#6 (encOpt d) 3#3 (encSrc b) (encSrc a)
  | .vmaxZ16 _ d a b => encR 17#6 (encOpt d) 4#3 (encSrc b) (encSrc a)
  | .vaddsZ16 _ d a b => encR 17#6 (encOpt d) 5#3 (encSrc b) (encSrc a)
  | .vsubsZ16 _ d a b => encR 17#6 (encOpt d) 6#3 (encSrc b) (encSrc a)
  | .vaddZ32 _ d a b => encR 18#6 (encOpt d) 0#3 (encSrc b) (encSrc a)
  | .vsubZ32 _ d a b => encR 18#6 (encOpt d) 1#3 (encSrc b) (encSrc a)
  | .vmulZ32 _ d a b => encR 18#6 (encOpt d) 2#3 (encSrc b) (encSrc a)
  | .vminZ32 _ d a b => encR 18#6 (encOpt d) 3#3 (encSrc b) (encSrc a)
  | .vmaxZ32 _ d a b => encR 18#6 (encOpt d) 4#3 (encSrc b) (encSrc a)
  | .vaddsZ32 _ d a b => encR 18#6 (encOpt d) 5#3 (encSrc b) (encSrc a)
  | .vsubsZ32 _ d a b => encR 18#6 (encOpt d) 6#3 (encSrc b) (encSrc a)
  | .vand _ d a b => encR 19#6 (encOpt d) 0#3 (encSrc b) (encSrc a)
  | .vor _ d a b => encR 19#6 (encOpt d) 1#3 (encSrc b) (encSrc a)
  | .vxor _ d a b => encR 19#6 (encOpt d) 2#3 (encSrc b) (encSrc a)
  | .vandn _ d a b => encR 19#6 (encOpt d) 3#3 (encSrc b) (encSrc a)
  | .vnot _ d a => encR 19#6 (encOpt d) 4#3 0#8 (encSrc a)
  | .vshlW16 _ d a b => encR 20#6 (encOpt d) 0#3 (encSrc b) (encSrc a)
  | .vshrW16 _ d a b => encR 20#6 (encOpt d) 1#3 (encSrc b) (encSrc a)
  | .vsarW16 _ d a b => encR 20#6 (encOpt d) 2#3 (encSrc b) (encSrc a)
  | .vshlW32 _ d a b => encR 20#6 (encOpt d) 4#3 (encSrc b) (encSrc a)
  | .vshrW32 _ d a b => encR 20#6 (encOpt d) 5#3 (encSrc b) (encSrc a)
  | .vsarW32 _ d a b => encR 20#6 (encOpt d) 6#3 (encSrc b) (encSrc a)
  | .vceqF32 _ d a b => encR 21#6 (encOpt d) 0#3 (encSrc b) (encSrc a)
  | .vcneF32 _ d a b => encR 21#6 (encOpt d) 1#3 (encSrc b) (encSrc a)
  | .vcltF32 _ d a b => encR 21#6 (encOpt d) 2#3 (encSrc b) (encSrc a)
  | .vcleF32 _ d a b => encR 21#6 (encOpt d) 3#3 (encSrc b) (encSrc a)
  | .vcunF32 _ d a b => encR 21#6 (encOpt d) 4#3 (encSrc b) (encSrc a)
  | .vceqBf16 _ d a b => encR 22#6 (encOpt d) 0#3 (encSrc b) (encSrc a)
  | .vcneBf16 _ d a b => encR 22#6 (encOpt d) 1#3 (encSrc b) (encSrc a)
  | .vcltBf16 _ d a b => encR 22#6 (encOpt d) 2#3 (encSrc b) (encSrc a)
  | .vcleBf16 _ d a b => encR 22#6 (encOpt d) 3#3 (encSrc b) (encSrc a)
  | .vcunBf16 _ d a b => encR 22#6 (encOpt d) 4#3 (encSrc b) (encSrc a)
  | .vceqW16 _ d a b => encR 23#6 (encOpt d) 0#3 (encSrc b) (encSrc a)
  | .vcneW16 _ d a b => encR 23#6 (encOpt d) 1#3 (encSrc b) (encSrc a)
  | .vcltI16 _ d a b => encR 23#6 (encOpt d) 2#3 (encSrc b) (encSrc a)
  | .vcleI16 _ d a b => encR 23#6 (encOpt d) 3#3 (encSrc b) (encSrc a)
  | .vcltZ16 _ d a b => encR 23#6 (encOpt d) 4#3 (encSrc b) (encSrc a)
  | .vcleZ16 _ d a b => encR 23#6 (encOpt d) 5#3 (encSrc b) (encSrc a)
  | .vceqW32 _ d a b => encR 24#6 (encOpt d) 0#3 (encSrc b) (encSrc a)
  | .vcneW32 _ d a b => encR 24#6 (encOpt d) 1#3 (encSrc b) (encSrc a)
  | .vcltI32 _ d a b => encR 24#6 (encOpt d) 2#3 (encSrc b) (encSrc a)
  | .vcleI32 _ d a b => encR 24#6 (encOpt d) 3#3 (encSrc b) (encSrc a)
  | .vcltZ32 _ d a b => encR 24#6 (encOpt d) 4#3 (encSrc b) (encSrc a)
  | .vcleZ32 _ d a b => encR 24#6 (encOpt d) 5#3 (encSrc b) (encSrc a)
  | .sel _ d g a b => encR 25#6 (encOpt d) (encFin 3 g) (encSrc b) (encSrc a)
  | .perm _ d a b => encR 26#6 (encOpt d) 0#3 (encSrc b) (encSrc a)
  | .rot _ d a b => encR 26#6 (encOpt d) 1#3 (encSrc b) (encSrc a)
  | .bcast _ d a b => encR 26#6 (encOpt d) 2#3 (encSrc b) (encSrc a)
  | .zip _ d a b => encR 26#6 (encOpt d) 3#3 (encSrc b) (encSrc a)
  | .unzip _ d a b => encR 26#6 (encOpt d) 4#3 (encSrc b) (encSrc a)
  | .bcastW32 _ d a b => encR 26#6 (encOpt d) 5#3 (encSrc b) (encSrc a)
  | .permW32 _ d a b => encR 26#6 (encOpt d) 6#3 (encSrc b) (encSrc a)
  | .raddF32 _ d g a b => encR 27#6 (encOpt d) (encFin 3 g) b (encSrc a)
  | .raddBf16 _ d g a b => encR 28#6 (encOpt d) (encFin 3 g) b (encSrc a)
  | .raddInt _ d g a b => encR 29#6 (encOpt d) (encFin 3 g) b (encSrc a)
  | .rdotF32 _ d g a b => encR 30#6 (encOpt d) (encFin 3 g) (encSrc b) (encSrc a)
  | .rdotBf16 _ d g a b => encR 31#6 (encOpt d) (encFin 3 g) (encSrc b) (encSrc a)
  | .rmax _ d g a b => encR 32#6 (encOpt d) (encFin 3 g) b (encSrc a)
  | .rmin _ d g a b => encR 33#6 (encOpt d) (encFin 3 g) b (encSrc a)
  | .cvt _ d st rm sat dt a => encVC 35#6 (encFin 5 d) st rm (BitVec.ofBool sat) dt (encSrc a)
  | .rcupd _ d a b => encR 36#6 (encOpt d) 0#3 (encSrc b) (encSrc a)
  | .rcrd _ d b => encR 36#6 (encOpt d) 1#3 (encSrc b) 0#8
  | .rcwr _ d a b => encR 36#6 (encOpt d) 2#3 (encSrc b) (encSrc a)
  | .exit _ d a b => encR 36#6 (encOpt d) 3#3 (encSrc b) (encSrc a)
  | .recurse _ d b => encR 36#6 (encOpt d) 4#3 (encSrc b) 0#8
  | .exitC _ d b => encR 36#6 (encOpt d) 5#3 (encSrc b) 0#8
  | .pack _ d a b => encR 37#6 (encOpt d) 0#3 (encSrc b) (encSrc a)
  | .packRc _ d a b => encR 37#6 (encOpt d) 1#3 (encSrc b) (encSrc a)
  | .packM _ d a b => encR 37#6 (encOpt d) 2#3 (encSrc b) (encSrc a)
  | .unpack _ d a b => encR 37#6 (encOpt d) 3#3 (encSrc b) (encSrc a)
  | .unpackC _ d a b => encR 37#6 (encOpt d) 4#3 (encSrc b) (encSrc a)
  | .vld _ d a b => encR 38#6 (encOpt d) 0#3 (encSrc b) (encSrc a)
  | .vldNr _ d p a b => encR 39#6 (encOpt d) (encFin 3 p) (encSrc b) (encSrc a)
  | .vst _ d a b => encR 40#6 (encFin 7 d) 0#3 (encSrc b) (encSrc a)
  | .vlds _ d a b => encR 41#6 (encOpt d) 0#3 b (encSrc a)
  | .vldsC _ d a b => encR 41#6 (encOpt d) 1#3 b (encSrc a)
  | .vsts _ d a b => encR 42#6 (encFin 7 d) 0#3 b (encSrc a)
  | .vstsF _ d a b => encR 42#6 (encFin 7 d) 1#3 b (encSrc a)
  | .qpushV _ d q => encR 43#6 (encFin 7 d) (encFin 3 q) 0#8 0#8
  | .mmaBf16 acc sh a b => encM 1#6 (encFin 4 acc) (encFin 4 sh) 0#2 (encSrc b) (encSrc a)
  | .mmaBf16Mc acc sh a b => encM 1#6 (encFin 4 acc) (encFin 4 sh) 1#2 (encSrc b) (encSrc a)
  | .mmaBf16Rop acc sh a b => encM 1#6 (encFin 4 acc) (encFin 4 sh) 2#2 (encSrc b) (encSrc a)
  | .mmaF16 acc sh a b => encM 2#6 (encFin 4 acc) (encFin 4 sh) 0#2 (encSrc b) (encSrc a)
  | .mmaF16Mc acc sh a b => encM 2#6 (encFin 4 acc) (encFin 4 sh) 1#2 (encSrc b) (encSrc a)
  | .mmaF16Rop acc sh a b => encM 2#6 (encFin 4 acc) (encFin 4 sh) 2#2 (encSrc b) (encSrc a)
  | .mmaE4m3 acc sh a b => encM 3#6 (encFin 4 acc) (encFin 4 sh) 0#2 (encSrc b) (encSrc a)
  | .mmaE4m3Mc acc sh a b => encM 3#6 (encFin 4 acc) (encFin 4 sh) 1#2 (encSrc b) (encSrc a)
  | .mmaE4m3Rop acc sh a b => encM 3#6 (encFin 4 acc) (encFin 4 sh) 2#2 (encSrc b) (encSrc a)
  | .mmaE5m2 acc sh a b => encM 4#6 (encFin 4 acc) (encFin 4 sh) 0#2 (encSrc b) (encSrc a)
  | .mmaE5m2Mc acc sh a b => encM 4#6 (encFin 4 acc) (encFin 4 sh) 1#2 (encSrc b) (encSrc a)
  | .mmaE5m2Rop acc sh a b => encM 4#6 (encFin 4 acc) (encFin 4 sh) 2#2 (encSrc b) (encSrc a)
  | .mmaF4x acc sh a b => encM 5#6 (encFin 4 acc) (encFin 4 sh) 0#2 (encSrc b) (encSrc a)
  | .mmaF4xMc acc sh a b => encM 5#6 (encFin 4 acc) (encFin 4 sh) 1#2 (encSrc b) (encSrc a)
  | .mmaF4xRop acc sh a b => encM 5#6 (encFin 4 acc) (encFin 4 sh) 2#2 (encSrc b) (encSrc a)
  | .azero acc a => encM 8#6 (encFin 4 acc) 0#4 0#2 0#8 (encSrc a)
  | .azeroV acc a => encM 8#6 (encFin 4 acc) 0#4 1#2 0#8 (encSrc a)
  | .azeroB acc a => encM 8#6 (encFin 4 acc) 0#4 2#2 0#8 (encSrc a)
  | .asetx acc a b => encM 9#6 (encFin 4 acc) 0#4 0#2 (encSrc b) (encSrc a)
  | .asetxV acc a b => encM 9#6 (encFin 4 acc) 0#4 1#2 (encSrc b) (encSrc a)
  | .asetxZ acc a b => encM 9#6 (encFin 4 acc) 0#4 2#2 (encSrc b) (encSrc a)
  | .asetxZV acc a b => encM 9#6 (encFin 4 acc) 0#4 3#2 (encSrc b) (encSrc a)
  | .anorm acc a b => encM 10#6 (encFin 4 acc) 0#4 0#2 (encSrc b) (encSrc a)
  | .anormV acc a b => encM 10#6 (encFin 4 acc) 0#4 1#2 (encSrc b) (encSrc a)
  | .aswap acc => encM 11#6 (encFin 4 acc) 0#4 0#2 0#8 0#8
  | .ardout acc a b => encM 12#6 (encFin 4 acc) 0#4 0#2 b (encSrc a)
  | .ardoutS acc sh a b => encM 12#6 (encFin 4 acc) (encFin 4 sh) 1#2 b (encSrc a)
  | .ardoutSf acc sh a b => encM 12#6 (encFin 4 acc) (encFin 4 sh) 2#2 b (encSrc a)
  | .ascore acc sh a b => encM 16#6 (encFin 4 acc) (encFin 4 sh) 0#2 (encSrc b) (encSrc a)
  | .ascoreGm acc sh a b => encM 16#6 (encFin 4 acc) (encFin 4 sh) 1#2 (encSrc b) (encSrc a)
  | .avalue acc a b => encM 17#6 (encFin 4 acc) 0#4 0#2 (encSrc b) (encSrc a)
  | .avalueHi acc a b => encM 17#6 (encFin 4 acc) 0#4 1#2 (encSrc b) (encSrc a)
  | .smerge acc a b => encM 18#6 (encFin 4 acc) 0#4 0#2 (encSrc b) (encSrc a)
  | .smergeX acc a b => encM 18#6 (encFin 4 acc) 0#4 1#2 (encSrc b) (encSrc a)
  | .smergeI acc a b => encM 18#6 (encFin 4 acc) 0#4 2#2 (encSrc b) (encSrc a)
  | .mskld a b => encM 19#6 0#4 0#4 0#2 (encSrc b) (encSrc a)
  | .kvapp sh a b => encM 20#6 0#4 (encFin 4 sh) 0#2 (encSrc b) (encSrc a)
  | .copy d a b => encR 1#6 (encOpt d) 0#3 (encSrc b) (encSrc a)
  | .gather d q a b => encR 2#6 (encOpt d) (encFin 3 q) (encSrc b) (encSrc a)
  | .scatter d q a b => encR 3#6 (encOpt d) (encFin 3 q) (encSrc b) (encSrc a)
  | .smpl d a b => encR 4#6 (encOpt d) 0#3 (encSrc b) (encSrc a)
  | .fst d a b => encR 5#6 (encOpt d) 0#3 (encSrc b) (encSrc a)
  | .fstOf d a b => encR 5#6 (encOpt d) 1#3 (encSrc b) (encSrc a)
  | .fstSp d a b => encR 5#6 (encOpt d) 2#3 (encSrc b) (encSrc a)
  | .fstOfSp d a b => encR 5#6 (encOpt d) 3#3 (encSrc b) (encSrc a)
  | .ratomAdd d a b => encR 6#6 (encFin 7 d) 0#3 (encSrc b) (encSrc a)
  | .ratomAnd d a b => encR 6#6 (encFin 7 d) 1#3 (encSrc b) (encSrc a)
  | .ratomOr d a b => encR 6#6 (encFin 7 d) 2#3 (encSrc b) (encSrc a)
  | .ratomXor d a b => encR 6#6 (encFin 7 d) 3#3 (encSrc b) (encSrc a)
  | .ratomMinI64 d a b => encR 6#6 (encFin 7 d) 4#3 (encSrc b) (encSrc a)
  | .ratomMaxI64 d a b => encR 6#6 (encFin 7 d) 5#3 (encSrc b) (encSrc a)
  | .ratomMinZ64 d a b => encR 6#6 (encFin 7 d) 6#3 (encSrc b) (encSrc a)
  | .ratomMaxZ64 d a b => encR 6#6 (encFin 7 d) 7#3 (encSrc b) (encSrc a)
  | .ackf => encR 7#6 0#7 0#3 0#8 0#8
  | .jopen d a => encR 8#6 (encOpt d) 0#3 0#8 (encSrc a)
  | .jarrive d a b => encR 8#6 (encOpt d) 1#3 (encSrc b) (encSrc a)
  | .jwait d a b => encR 8#6 (encOpt d) 2#3 (encSrc b) (encSrc a)
  | .jrule d a b => encR 8#6 (encOpt d) 3#3 (encSrc b) (encSrc a)
  | .fillreg d a b => encR 9#6 (encOpt d) 0#3 (encSrc b) (encSrc a)
  | .fillregT d b => encR 9#6 (encOpt d) 1#3 (encSrc b) 0#8
  | .fillregTf d b => encR 9#6 (encOpt d) 2#3 (encSrc b) 0#8
  | .fillregTm d a b => encR 9#6 (encOpt d) 3#3 (encSrc b) (encSrc a)
  | .fillregW d a b => encR 9#6 (encOpt d) 4#3 (encSrc b) (encSrc a)
  | .accept d a => encR 10#6 (encOpt d) 0#3 0#8 (encSrc a)
  | .ahpush d a b => encR 11#6 (encOpt d) 0#3 (encSrc b) (encSrc a)
  | .ahsel d a b => encR 12#6 (encOpt d) 0#3 (encSrc b) (encSrc a)
  | .mapreq d a b => encR 13#6 (encOpt d) 0#3 (encSrc b) (encSrc a)
  | .wqpop d a => encR 14#6 (encOpt d) 0#3 0#8 (encSrc a)
  | .wqtry d a => encR 14#6 (encOpt d) 1#3 0#8 (encSrc a)
  | .wqpush d a => encR 14#6 (encFin 7 d) 2#3 0#8 (encSrc a)
  | .wqclose d a => encR 14#6 (encOpt d) 3#3 0#8 (encSrc a)
  | .kvalloc d a b => encR 15#6 (encOpt d) 0#3 (encSrc b) (encSrc a)
  | .kvgrow d a b => encR 15#6 (encOpt d) 1#3 (encSrc b) (encSrc a)
  | .kvfork d a b => encR 15#6 (encOpt d) 2#3 (encSrc b) (encSrc a)
  | .kvfree d a => encR 15#6 (encOpt d) 3#3 0#8 (encSrc a)
  | .kvinval d a b => encR 15#6 (encOpt d) 4#3 (encSrc b) (encSrc a)
  | .qpushX d q => encR 16#6 (encFin 7 d) (encFin 3 q) 0#8 0#8
  | .brC c off => encB 1#6 (encSrc c) off
  | .brzC c off => encB 2#6 (encSrc c) off
  | .callC c off => encB 3#6 (encSrc c) off
  | .ret a => encR 4#6 0#7 0#3 0#8 (encSrc a)
  | .fjmp a b => encR 5#6 0#7 0#3 (encSrc b) (encSrc a)
  | .lap len a => encL 6#6 len 0#1 (encSrc a)
  | .lapLr len => encL 6#6 len 1#1 0#8
  | .phase sc => encR 7#6 0#7 (encScope sc) 0#8 0#8
  | .bar sc a b => encR 8#6 0#7 (encScope sc) (encSrc b) (encSrc a)
  | .wait a => encR 9#6 0#7 0#3 0#8 (encSrc a)
  | .waitP => encR 9#6 0#7 1#3 0#8 0#8
  | .tend => encR 10#6 0#7 0#3 0#8 0#8
  | .kpoint => encR 10#6 0#7 1#3 0#8 0#8
  | .spawn a b => encR 11#6 0#7 0#3 (encSrc b) (encSrc a)
  | .trap a => encR 12#6 0#7 0#3 0#8 (encSrc a)
  | .rti => encR 12#6 0#7 1#3 0#8 0#8
  | .srd d a => encR 56#6 (encOpt d) 0#3 0#8 (encSrc a)
  | .swr d a b => encR 56#6 (encOpt d) 1#3 (encSrc b) (encSrc a)
  | .ubrd d a b => encR 57#6 (encOpt d) 0#3 (encSrc b) (encSrc a)
  | .ubwr d a b => encR 57#6 (encFin 7 d) 1#3 (encSrc b) (encSrc a)
  | .lctlPark d a => encR 58#6 (encOpt d) 0#3 0#8 (encSrc a)
  | .lctlRes d a => encR 58#6 (encOpt d) 1#3 0#8 (encSrc a)
  | .lctlAbort d a => encR 58#6 (encOpt d) 2#3 0#8 (encSrc a)
  | .otinv a => encR 59#6 0#7 0#3 0#8 (encSrc a)
  | .otinvAll => encR 59#6 0#7 1#3 0#8 0#8
  | .mcall d a b => encR 60#6 (encOpt d) 0#3 (encSrc b) (encSrc a)
  | .mans a b => encR 60#6 0#7 1#3 (encSrc b) (encSrc a)
  | .erpost d a b => encR 61#6 (encOpt d) 0#3 (encSrc b) (encSrc a)
  | .launchQueuePop _ => 0#32
  | .placement _ _ => 0#32
  | .placementWaitLimit _ _ => 0#32
  | .candidateAging _ _ => 0#32
  | .urgencyWindowEntry _ _ => 0#32
  | .preemptionDecision _ _ => 0#32
  | .parkComplete _ => 0#32
  | .parkAbandon _ => 0#32
  | .saveComplete _ => 0#32
  | .resumption _ => 0#32
  | .restoreComplete _ => 0#32
  | .pacerOverrun _ _ => 0#32
  | .agingHold _ => 0#32
  | .faultDelivery _ _ => 0#32
  | .resultLanding _ _ => 0#32
  | .sectorArrival _ _ => 0#32
  | .objectEntryArrival _ => 0#32
  | .remoteScratchpadArrival _ => 0#32
  | .engineHazardRelease _ _ _ => 0#32
  | .engineOpComplete _ _ _ => 0#32
  | .engineFault _ _ _ => 0#32
  | .matrixStep _ => 0#32
  | .attentionOperationStep _ => 0#32
  | .contextEnded _ _ => 0#32
  | .killTakesEffect _ _ => 0#32
  | .taggedWriteStage _ _ _ _ _ _ => 0#32
  | .handlerRecordPush _ _ => 0#32
  | .taskReplayPush _ _ => 0#32
  | .flagIncrement _ => 0#32
  | .store _ => 0#32
  | .storeWithFlag _ => 0#32
  | .atomic _ => 0#32
  | .loadRequest _ => 0#32
  | .loadData _ _ _ => 0#32
  | .acknowledgement _ _ _ => 0#32
  | .taggedStore _ _ _ _ => 0#32
  | .joinControl _ _ => 0#32
  | .management _ => 0#32
  | .gapTimeout _ _ => 0#32
  | .quarantineResync _ _ _ => 0#32
  | .heartbeat _ => 0#32
  | .heartbeatMissFence _ => 0#32
  | .prepare _ => 0#32
  | .drainComplete => 0#32
  | .rekeyArrival _ _ => 0#32
  | .commit => 0#32
  | .abort => 0#32
  | .prepareTimeout _ => 0#32
  | .fence _ => 0#32
  | .leadAnnouncement _ => 0#32
  | .rekeyRequest _ => 0#32
  | .measurementChangeReport _ => 0#32
  | .scrubLine _ => 0#32
  | .patrolScrub _ _ => 0#32
  | .readErrorLogWord _ _ _ => 0#32
  | .createDomain _ _ _ => 0#32
  | .admitModule _ _ _ _ => 0#32
  | .removeModule _ _ => 0#32
  | .rekeyNow _ _ => 0#32
  | .leaveDomain _ => 0#32
  | .readDomainStatus _ => 0#32
  | .moduleResetRequest _ => 0#32
  | .spdmRequest _ _ => 0#32
  | .registerWrite _ _ _ => 0#32
  | .take _ => 0#32
  | .semaWrite _ _ => 0#32
  | .leaseExpiry => 0#32
  | .ahiPush _ _ => 0#32
  | .queueWindowPush _ _ _ => 0#32
  | .wqcfgReopen _ _ _ => 0#32
  | .strictWrite _ _ _ => 0#32
  | .pendingRecordWrite _ => 0#32
  | .interruptCoalescingTimer _ => 0#32
  | .transmitDescriptor _ _ => 0#32
  | .frameReceive _ _ _ _ => 0#32
  | .hostMemRead _ _ _ => 0#32
  | .hostMemWrite _ _ _ _ => 0#32
  | .hostAtomic _ _ _ _ _ _ => 0#32
  | .hostLockedOperation _ _ _ _ _ _ => 0#32
  | .hostSnoop _ _ _ => 0#32
  | .translationResponse _ _ _ _ _ _ _ => 0#32
  | .pageRequestResponse _ _ _ _ => 0#32
  | .atsInvalidateRequest _ _ _ _ => 0#32
  | .powerOn => 0#32
  | .moduleReset => 0#32
  | .portReset _ => 0#32
  | .functionLevelReset _ => 0#32
  | .linkStateChange _ _ _ => 0#32
  | .functionReady _ => 0#32
  | .functionFailure _ => 0#32
  | .moduleWideError => 0#32
  | .controlStateError _ => 0#32
  | .softError _ _ _ _ _ => 0#32
  | .errorSummaryRecord _ _ => 0#32
  | .powerControlWindow _ _ => 0#32
  | .kvPageMove _ _ _ => 0#32
  | .slabReclaim _ _ _ => 0#32
  | .fillEntryAdvance _ _ _ => 0#32
  | .waitUntilTickReached _ _ => 0#32
  | .publishComplete _ _ => 0#32
  | .homeUnitExecution _ => 0#32
  | .mapCopyFull _ _ => 0#32
  | .configurationAccess _ _ => 0#32
  | .ethernetLinkChange _ _ _ => 0#32

/-- The slot a slot operation is in (none for an event). -/
def slotOf : Instr → Option Slot
  | .addI64 u _ _ _ => some (match u with | .s0 => .s0 | .s1 => .s1)
  | .subI64 u _ _ _ => some (match u with | .s0 => .s0 | .s1 => .s1)
  | .minI64 u _ _ _ => some (match u with | .s0 => .s0 | .s1 => .s1)
  | .maxI64 u _ _ _ => some (match u with | .s0 => .s0 | .s1 => .s1)
  | .addsI64 u _ _ _ => some (match u with | .s0 => .s0 | .s1 => .s1)
  | .minZ64 u _ _ _ => some (match u with | .s0 => .s0 | .s1 => .s1)
  | .maxZ64 u _ _ _ => some (match u with | .s0 => .s0 | .s1 => .s1)
  | .addI32 u _ _ _ => some (match u with | .s0 => .s0 | .s1 => .s1)
  | .subI32 u _ _ _ => some (match u with | .s0 => .s0 | .s1 => .s1)
  | .minI32 u _ _ _ => some (match u with | .s0 => .s0 | .s1 => .s1)
  | .maxI32 u _ _ _ => some (match u with | .s0 => .s0 | .s1 => .s1)
  | .addsI32 u _ _ _ => some (match u with | .s0 => .s0 | .s1 => .s1)
  | .minZ32 u _ _ _ => some (match u with | .s0 => .s0 | .s1 => .s1)
  | .maxZ32 u _ _ _ => some (match u with | .s0 => .s0 | .s1 => .s1)
  | .and u _ _ _ => some (match u with | .s0 => .s0 | .s1 => .s1)
  | .or u _ _ _ => some (match u with | .s0 => .s0 | .s1 => .s1)
  | .xor u _ _ _ => some (match u with | .s0 => .s0 | .s1 => .s1)
  | .andn u _ _ _ => some (match u with | .s0 => .s0 | .s1 => .s1)
  | .orn u _ _ _ => some (match u with | .s0 => .s0 | .s1 => .s1)
  | .not u _ _ => some (match u with | .s0 => .s0 | .s1 => .s1)
  | .shl u _ _ _ => some (match u with | .s0 => .s0 | .s1 => .s1)
  | .shr u _ _ _ => some (match u with | .s0 => .s0 | .s1 => .s1)
  | .sar u _ _ _ => some (match u with | .s0 => .s0 | .s1 => .s1)
  | .ceq u _ _ _ => some (match u with | .s0 => .s0 | .s1 => .s1)
  | .cne u _ _ _ => some (match u with | .s0 => .s0 | .s1 => .s1)
  | .cltI64 u _ _ _ => some (match u with | .s0 => .s0 | .s1 => .s1)
  | .cleI64 u _ _ _ => some (match u with | .s0 => .s0 | .s1 => .s1)
  | .cltZ64 u _ _ _ => some (match u with | .s0 => .s0 | .s1 => .s1)
  | .cleZ64 u _ _ _ => some (match u with | .s0 => .s0 | .s1 => .s1)
  | .mul u _ _ _ => some (match u with | .s0 => .s0 | .s1 => .s1)
  | .mulhI64 u _ _ _ => some (match u with | .s0 => .s0 | .s1 => .s1)
  | .mulhZ64 u _ _ _ => some (match u with | .s0 => .s0 | .s1 => .s1)
  | .divI64 u _ _ _ => some (match u with | .s0 => .s0 | .s1 => .s1)
  | .divZ64 u _ _ _ => some (match u with | .s0 => .s0 | .s1 => .s1)
  | .remI64 u _ _ _ => some (match u with | .s0 => .s0 | .s1 => .s1)
  | .remZ64 u _ _ _ => some (match u with | .s0 => .s0 | .s1 => .s1)
  | .divI32 u _ _ _ => some (match u with | .s0 => .s0 | .s1 => .s1)
  | .divZ32 u _ _ _ => some (match u with | .s0 => .s0 | .s1 => .s1)
  | .remI32 u _ _ _ => some (match u with | .s0 => .s0 | .s1 => .s1)
  | .remZ32 u _ _ _ => some (match u with | .s0 => .s0 | .s1 => .s1)
  | .li u _ _ => some (match u with | .s0 => .s0 | .s1 => .s1)
  | .lis u _ _ _ => some (match u with | .s0 => .s0 | .s1 => .s1)
  | .addi u _ _ => some (match u with | .s0 => .s0 | .s1 => .s1)
  | .andi u _ _ => some (match u with | .s0 => .s0 | .s1 => .s1)
  | .mov u _ _ => some (match u with | .s0 => .s0 | .s1 => .s1)
  | .clz u _ _ => some (match u with | .s0 => .s0 | .s1 => .s1)
  | .ctz u _ _ => some (match u with | .s0 => .s0 | .s1 => .s1)
  | .popc u _ _ => some (match u with | .s0 => .s0 | .s1 => .s1)
  | .sext u _ _ _ => some (match u with | .s0 => .s0 | .s1 => .s1)
  | .zext u _ _ _ => some (match u with | .s0 => .s0 | .s1 => .s1)
  | .cder u _ _ _ => some (match u with | .s0 => .s0 | .s1 => .s1)
  | .cbnd u _ _ _ => some (match u with | .s0 => .s0 | .s1 => .s1)
  | .csetoff u _ _ _ => some (match u with | .s0 => .s0 | .s1 => .s1)
  | .caddoff u _ _ _ => some (match u with | .s0 => .s0 | .s1 => .s1)
  | .cmov u _ _ => some (match u with | .s0 => .s0 | .s1 => .s1)
  | .cchk u _ _ _ => some (match u with | .s0 => .s0 | .s1 => .s1)
  | .cget u _ _ _ => some (match u with | .s0 => .s0 | .s1 => .s1)
  | .shld u _ _ _ => some (match u with | .s0 => .s0 | .s1 => .s1)
  | .shldImg u _ _ => some (match u with | .s0 => .s0 | .s1 => .s1)
  | .shset u _ _ _ => some (match u with | .s0 => .s0 | .s1 => .s1)
  | .shget u _ _ _ => some (match u with | .s0 => .s0 | .s1 => .s1)
  | .pand u _ _ _ => some (match u with | .s0 => .s0 | .s1 => .s1)
  | .por u _ _ _ => some (match u with | .s0 => .s0 | .s1 => .s1)
  | .pxor u _ _ _ => some (match u with | .s0 => .s0 | .s1 => .s1)
  | .pandn u _ _ _ => some (match u with | .s0 => .s0 | .s1 => .s1)
  | .pnot u _ _ => some (match u with | .s0 => .s0 | .s1 => .s1)
  | .pmov u _ _ => some (match u with | .s0 => .s0 | .s1 => .s1)
  | .pset u _ _ => some (match u with | .s0 => .s0 | .s1 => .s1)
  | .pany u _ _ => some (match u with | .s0 => .s0 | .s1 => .s1)
  | .pcnt u _ _ => some (match u with | .s0 => .s0 | .s1 => .s1)
  | .rdsr u _ _ => some (match u with | .s0 => .s0 | .s1 => .s1)
  | .wrsr u _ _ => some (match u with | .s0 => .s0 | .s1 => .s1)
  | .bfrd u _ _ => some (match u with | .s0 => .s0 | .s1 => .s1)
  | .bfwr u _ _ => some (match u with | .s0 => .s0 | .s1 => .s1)
  | .ldZ8 u _ _ _ => some (match u with | .s0 => .s0 | .s1 => .s1)
  | .ldZ16 u _ _ _ => some (match u with | .s0 => .s0 | .s1 => .s1)
  | .ldZ32 u _ _ _ => some (match u with | .s0 => .s0 | .s1 => .s1)
  | .ldI8 u _ _ _ => some (match u with | .s0 => .s0 | .s1 => .s1)
  | .ldI16 u _ _ _ => some (match u with | .s0 => .s0 | .s1 => .s1)
  | .ldI32 u _ _ _ => some (match u with | .s0 => .s0 | .s1 => .s1)
  | .ldI64 u _ _ _ => some (match u with | .s0 => .s0 | .s1 => .s1)
  | .ldC128 u _ _ _ => some (match u with | .s0 => .s0 | .s1 => .s1)
  | .ldNr u _ _ _ _ => some (match u with | .s0 => .s0 | .s1 => .s1)
  | .stZ8 u _ _ _ => some (match u with | .s0 => .s0 | .s1 => .s1)
  | .stZ16 u _ _ _ => some (match u with | .s0 => .s0 | .s1 => .s1)
  | .stZ32 u _ _ _ => some (match u with | .s0 => .s0 | .s1 => .s1)
  | .stZ64 u _ _ _ => some (match u with | .s0 => .s0 | .s1 => .s1)
  | .lds u _ _ _ => some (match u with | .s0 => .s0 | .s1 => .s1)
  | .ldsC u _ _ _ => some (match u with | .s0 => .s0 | .s1 => .s1)
  | .sts u _ _ _ => some (match u with | .s0 => .s0 | .s1 => .s1)
  | .stsF u _ _ _ => some (match u with | .s0 => .s0 | .s1 => .s1)
  | .drain u _ _ => some (match u with | .s0 => .s0 | .s1 => .s1)
  | .ldRlx u _ _ _ _ _ => some (match u with | .s0 => .s0 | .s1 => .s1)
  | .ldAcq u _ _ _ _ _ => some (match u with | .s0 => .s0 | .s1 => .s1)
  | .stRlx u _ _ _ _ => some (match u with | .s0 => .s0 | .s1 => .s1)
  | .stRel u _ _ _ _ => some (match u with | .s0 => .s0 | .s1 => .s1)
  | .atomAdd u _ _ _ _ _ => some (match u with | .s0 => .s0 | .s1 => .s1)
  | .atomAnd u _ _ _ _ _ => some (match u with | .s0 => .s0 | .s1 => .s1)
  | .atomOr u _ _ _ _ _ => some (match u with | .s0 => .s0 | .s1 => .s1)
  | .atomXor u _ _ _ _ _ => some (match u with | .s0 => .s0 | .s1 => .s1)
  | .atomMinI u _ _ _ _ _ => some (match u with | .s0 => .s0 | .s1 => .s1)
  | .atomMaxI u _ _ _ _ _ => some (match u with | .s0 => .s0 | .s1 => .s1)
  | .atomMinZ u _ _ _ _ _ => some (match u with | .s0 => .s0 | .s1 => .s1)
  | .atomMaxZ u _ _ _ _ _ => some (match u with | .s0 => .s0 | .s1 => .s1)
  | .atomSwap u _ _ _ _ _ => some (match u with | .s0 => .s0 | .s1 => .s1)
  | .atomCas u _ _ _ _ _ => some (match u with | .s0 => .s0 | .s1 => .s1)
  | .qpushS u _ _ => some (match u with | .s0 => .s0 | .s1 => .s1)
  | .brS1 _ _ => some .s1
  | .brzS1 _ _ => some .s1
  | .callS1 _ _ => some .s1
  | .vaddF32 u _ _ _ _ => some (match u with | .v0 => .v0 | .v1 => .v1)
  | .vsubF32 u _ _ _ _ => some (match u with | .v0 => .v0 | .v1 => .v1)
  | .vmulF32 u _ _ _ _ => some (match u with | .v0 => .v0 | .v1 => .v1)
  | .vfmaF32 u _ _ _ _ => some (match u with | .v0 => .v0 | .v1 => .v1)
  | .vminF32 u _ _ _ _ => some (match u with | .v0 => .v0 | .v1 => .v1)
  | .vmaxF32 u _ _ _ _ => some (match u with | .v0 => .v0 | .v1 => .v1)
  | .vaddBf16 u _ _ _ _ => some (match u with | .v0 => .v0 | .v1 => .v1)
  | .vsubBf16 u _ _ _ _ => some (match u with | .v0 => .v0 | .v1 => .v1)
  | .vmulBf16 u _ _ _ _ => some (match u with | .v0 => .v0 | .v1 => .v1)
  | .vfmaBf16 u _ _ _ _ => some (match u with | .v0 => .v0 | .v1 => .v1)
  | .vminBf16 u _ _ _ _ => some (match u with | .v0 => .v0 | .v1 => .v1)
  | .vmaxBf16 u _ _ _ _ => some (match u with | .v0 => .v0 | .v1 => .v1)
  | .vabsF32 u _ _ _ => some (match u with | .v0 => .v0 | .v1 => .v1)
  | .vnegF32 u _ _ _ => some (match u with | .v0 => .v0 | .v1 => .v1)
  | .vexp2F32 u _ _ _ => some (match u with | .v0 => .v0 | .v1 => .v1)
  | .vrcpF32 u _ _ _ => some (match u with | .v0 => .v0 | .v1 => .v1)
  | .vrsqrtF32 u _ _ _ => some (match u with | .v0 => .v0 | .v1 => .v1)
  | .vabsBf16 u _ _ _ => some (match u with | .v0 => .v0 | .v1 => .v1)
  | .vnegBf16 u _ _ _ => some (match u with | .v0 => .v0 | .v1 => .v1)
  | .vexp2Bf16 u _ _ _ => some (match u with | .v0 => .v0 | .v1 => .v1)
  | .vrcpBf16 u _ _ _ => some (match u with | .v0 => .v0 | .v1 => .v1)
  | .vrsqrtBf16 u _ _ _ => some (match u with | .v0 => .v0 | .v1 => .v1)
  | .vaddI16 u _ _ _ => some (match u with | .v0 => .v0 | .v1 => .v1)
  | .vsubI16 u _ _ _ => some (match u with | .v0 => .v0 | .v1 => .v1)
  | .vmulI16 u _ _ _ => some (match u with | .v0 => .v0 | .v1 => .v1)
  | .vminI16 u _ _ _ => some (match u with | .v0 => .v0 | .v1 => .v1)
  | .vmaxI16 u _ _ _ => some (match u with | .v0 => .v0 | .v1 => .v1)
  | .vaddsI16 u _ _ _ => some (match u with | .v0 => .v0 | .v1 => .v1)
  | .vsubsI16 u _ _ _ => some (match u with | .v0 => .v0 | .v1 => .v1)
  | .vaddI32 u _ _ _ => some (match u with | .v0 => .v0 | .v1 => .v1)
  | .vsubI32 u _ _ _ => some (match u with | .v0 => .v0 | .v1 => .v1)
  | .vmulI32 u _ _ _ => some (match u with | .v0 => .v0 | .v1 => .v1)
  | .vminI32 u _ _ _ => some (match u with | .v0 => .v0 | .v1 => .v1)
  | .vmaxI32 u _ _ _ => some (match u with | .v0 => .v0 | .v1 => .v1)
  | .vaddsI32 u _ _ _ => some (match u with | .v0 => .v0 | .v1 => .v1)
  | .vsubsI32 u _ _ _ => some (match u with | .v0 => .v0 | .v1 => .v1)
  | .vaddZ16 u _ _ _ => some (match u with | .v0 => .v0 | .v1 => .v1)
  | .vsubZ16 u _ _ _ => some (match u with | .v0 => .v0 | .v1 => .v1)
  | .vmulZ16 u _ _ _ => some (match u with | .v0 => .v0 | .v1 => .v1)
  | .vminZ16 u _ _ _ => some (match u with | .v0 => .v0 | .v1 => .v1)
  | .vmaxZ16 u _ _ _ => some (match u with | .v0 => .v0 | .v1 => .v1)
  | .vaddsZ16 u _ _ _ => some (match u with | .v0 => .v0 | .v1 => .v1)
  | .vsubsZ16 u _ _ _ => some (match u with | .v0 => .v0 | .v1 => .v1)
  | .vaddZ32 u _ _ _ => some (match u with | .v0 => .v0 | .v1 => .v1)
  | .vsubZ32 u _ _ _ => some (match u with | .v0 => .v0 | .v1 => .v1)
  | .vmulZ32 u _ _ _ => some (match u with | .v0 => .v0 | .v1 => .v1)
  | .vminZ32 u _ _ _ => some (match u with | .v0 => .v0 | .v1 => .v1)
  | .vmaxZ32 u _ _ _ => some (match u with | .v0 => .v0 | .v1 => .v1)
  | .vaddsZ32 u _ _ _ => some (match u with | .v0 => .v0 | .v1 => .v1)
  | .vsubsZ32 u _ _ _ => some (match u with | .v0 => .v0 | .v1 => .v1)
  | .vand u _ _ _ => some (match u with | .v0 => .v0 | .v1 => .v1)
  | .vor u _ _ _ => some (match u with | .v0 => .v0 | .v1 => .v1)
  | .vxor u _ _ _ => some (match u with | .v0 => .v0 | .v1 => .v1)
  | .vandn u _ _ _ => some (match u with | .v0 => .v0 | .v1 => .v1)
  | .vnot u _ _ => some (match u with | .v0 => .v0 | .v1 => .v1)
  | .vshlW16 u _ _ _ => some (match u with | .v0 => .v0 | .v1 => .v1)
  | .vshrW16 u _ _ _ => some (match u with | .v0 => .v0 | .v1 => .v1)
  | .vsarW16 u _ _ _ => some (match u with | .v0 => .v0 | .v1 => .v1)
  | .vshlW32 u _ _ _ => some (match u with | .v0 => .v0 | .v1 => .v1)
  | .vshrW32 u _ _ _ => some (match u with | .v0 => .v0 | .v1 => .v1)
  | .vsarW32 u _ _ _ => some (match u with | .v0 => .v0 | .v1 => .v1)
  | .vceqF32 u _ _ _ => some (match u with | .v0 => .v0 | .v1 => .v1)
  | .vcneF32 u _ _ _ => some (match u with | .v0 => .v0 | .v1 => .v1)
  | .vcltF32 u _ _ _ => some (match u with | .v0 => .v0 | .v1 => .v1)
  | .vcleF32 u _ _ _ => some (match u with | .v0 => .v0 | .v1 => .v1)
  | .vcunF32 u _ _ _ => some (match u with | .v0 => .v0 | .v1 => .v1)
  | .vceqBf16 u _ _ _ => some (match u with | .v0 => .v0 | .v1 => .v1)
  | .vcneBf16 u _ _ _ => some (match u with | .v0 => .v0 | .v1 => .v1)
  | .vcltBf16 u _ _ _ => some (match u with | .v0 => .v0 | .v1 => .v1)
  | .vcleBf16 u _ _ _ => some (match u with | .v0 => .v0 | .v1 => .v1)
  | .vcunBf16 u _ _ _ => some (match u with | .v0 => .v0 | .v1 => .v1)
  | .vceqW16 u _ _ _ => some (match u with | .v0 => .v0 | .v1 => .v1)
  | .vcneW16 u _ _ _ => some (match u with | .v0 => .v0 | .v1 => .v1)
  | .vcltI16 u _ _ _ => some (match u with | .v0 => .v0 | .v1 => .v1)
  | .vcleI16 u _ _ _ => some (match u with | .v0 => .v0 | .v1 => .v1)
  | .vcltZ16 u _ _ _ => some (match u with | .v0 => .v0 | .v1 => .v1)
  | .vcleZ16 u _ _ _ => some (match u with | .v0 => .v0 | .v1 => .v1)
  | .vceqW32 u _ _ _ => some (match u with | .v0 => .v0 | .v1 => .v1)
  | .vcneW32 u _ _ _ => some (match u with | .v0 => .v0 | .v1 => .v1)
  | .vcltI32 u _ _ _ => some (match u with | .v0 => .v0 | .v1 => .v1)
  | .vcleI32 u _ _ _ => some (match u with | .v0 => .v0 | .v1 => .v1)
  | .vcltZ32 u _ _ _ => some (match u with | .v0 => .v0 | .v1 => .v1)
  | .vcleZ32 u _ _ _ => some (match u with | .v0 => .v0 | .v1 => .v1)
  | .sel u _ _ _ _ => some (match u with | .v0 => .v0 | .v1 => .v1)
  | .perm u _ _ _ => some (match u with | .v0 => .v0 | .v1 => .v1)
  | .rot u _ _ _ => some (match u with | .v0 => .v0 | .v1 => .v1)
  | .bcast u _ _ _ => some (match u with | .v0 => .v0 | .v1 => .v1)
  | .zip u _ _ _ => some (match u with | .v0 => .v0 | .v1 => .v1)
  | .unzip u _ _ _ => some (match u with | .v0 => .v0 | .v1 => .v1)
  | .bcastW32 u _ _ _ => some (match u with | .v0 => .v0 | .v1 => .v1)
  | .permW32 u _ _ _ => some (match u with | .v0 => .v0 | .v1 => .v1)
  | .raddF32 u _ _ _ _ => some (match u with | .v0 => .v0 | .v1 => .v1)
  | .raddBf16 u _ _ _ _ => some (match u with | .v0 => .v0 | .v1 => .v1)
  | .raddInt u _ _ _ _ => some (match u with | .v0 => .v0 | .v1 => .v1)
  | .rdotF32 u _ _ _ _ => some (match u with | .v0 => .v0 | .v1 => .v1)
  | .rdotBf16 u _ _ _ _ => some (match u with | .v0 => .v0 | .v1 => .v1)
  | .rmax u _ _ _ _ => some (match u with | .v0 => .v0 | .v1 => .v1)
  | .rmin u _ _ _ _ => some (match u with | .v0 => .v0 | .v1 => .v1)
  | .cvt u _ _ _ _ _ _ => some (match u with | .v0 => .v0 | .v1 => .v1)
  | .rcupd u _ _ _ => some (match u with | .v0 => .v0 | .v1 => .v1)
  | .rcrd u _ _ => some (match u with | .v0 => .v0 | .v1 => .v1)
  | .rcwr u _ _ _ => some (match u with | .v0 => .v0 | .v1 => .v1)
  | .exit u _ _ _ => some (match u with | .v0 => .v0 | .v1 => .v1)
  | .recurse u _ _ => some (match u with | .v0 => .v0 | .v1 => .v1)
  | .exitC u _ _ => some (match u with | .v0 => .v0 | .v1 => .v1)
  | .pack u _ _ _ => some (match u with | .v0 => .v0 | .v1 => .v1)
  | .packRc u _ _ _ => some (match u with | .v0 => .v0 | .v1 => .v1)
  | .packM u _ _ _ => some (match u with | .v0 => .v0 | .v1 => .v1)
  | .unpack u _ _ _ => some (match u with | .v0 => .v0 | .v1 => .v1)
  | .unpackC u _ _ _ => some (match u with | .v0 => .v0 | .v1 => .v1)
  | .vld u _ _ _ => some (match u with | .v0 => .v0 | .v1 => .v1)
  | .vldNr u _ _ _ _ => some (match u with | .v0 => .v0 | .v1 => .v1)
  | .vst u _ _ _ => some (match u with | .v0 => .v0 | .v1 => .v1)
  | .vlds u _ _ _ => some (match u with | .v0 => .v0 | .v1 => .v1)
  | .vldsC u _ _ _ => some (match u with | .v0 => .v0 | .v1 => .v1)
  | .vsts u _ _ _ => some (match u with | .v0 => .v0 | .v1 => .v1)
  | .vstsF u _ _ _ => some (match u with | .v0 => .v0 | .v1 => .v1)
  | .qpushV u _ _ => some (match u with | .v0 => .v0 | .v1 => .v1)
  | .mmaBf16 _ _ _ _ => some .m
  | .mmaBf16Mc _ _ _ _ => some .m
  | .mmaBf16Rop _ _ _ _ => some .m
  | .mmaF16 _ _ _ _ => some .m
  | .mmaF16Mc _ _ _ _ => some .m
  | .mmaF16Rop _ _ _ _ => some .m
  | .mmaE4m3 _ _ _ _ => some .m
  | .mmaE4m3Mc _ _ _ _ => some .m
  | .mmaE4m3Rop _ _ _ _ => some .m
  | .mmaE5m2 _ _ _ _ => some .m
  | .mmaE5m2Mc _ _ _ _ => some .m
  | .mmaE5m2Rop _ _ _ _ => some .m
  | .mmaF4x _ _ _ _ => some .m
  | .mmaF4xMc _ _ _ _ => some .m
  | .mmaF4xRop _ _ _ _ => some .m
  | .azero _ _ => some .m
  | .azeroV _ _ => some .m
  | .azeroB _ _ => some .m
  | .asetx _ _ _ => some .m
  | .asetxV _ _ _ => some .m
  | .asetxZ _ _ _ => some .m
  | .asetxZV _ _ _ => some .m
  | .anorm _ _ _ => some .m
  | .anormV _ _ _ => some .m
  | .aswap _ => some .m
  | .ardout _ _ _ => some .m
  | .ardoutS _ _ _ _ => some .m
  | .ardoutSf _ _ _ _ => some .m
  | .ascore _ _ _ _ => some .m
  | .ascoreGm _ _ _ _ => some .m
  | .avalue _ _ _ => some .m
  | .avalueHi _ _ _ => some .m
  | .smerge _ _ _ => some .m
  | .smergeX _ _ _ => some .m
  | .smergeI _ _ _ => some .m
  | .mskld _ _ => some .m
  | .kvapp _ _ _ => some .m
  | .copy _ _ _ => some .x
  | .gather _ _ _ _ => some .x
  | .scatter _ _ _ _ => some .x
  | .smpl _ _ _ => some .x
  | .fst _ _ _ => some .x
  | .fstOf _ _ _ => some .x
  | .fstSp _ _ _ => some .x
  | .fstOfSp _ _ _ => some .x
  | .ratomAdd _ _ _ => some .x
  | .ratomAnd _ _ _ => some .x
  | .ratomOr _ _ _ => some .x
  | .ratomXor _ _ _ => some .x
  | .ratomMinI64 _ _ _ => some .x
  | .ratomMaxI64 _ _ _ => some .x
  | .ratomMinZ64 _ _ _ => some .x
  | .ratomMaxZ64 _ _ _ => some .x
  | .ackf => some .x
  | .jopen _ _ => some .x
  | .jarrive _ _ _ => some .x
  | .jwait _ _ _ => some .x
  | .jrule _ _ _ => some .x
  | .fillreg _ _ _ => some .x
  | .fillregT _ _ => some .x
  | .fillregTf _ _ => some .x
  | .fillregTm _ _ _ => some .x
  | .fillregW _ _ _ => some .x
  | .accept _ _ => some .x
  | .ahpush _ _ _ => some .x
  | .ahsel _ _ _ => some .x
  | .mapreq _ _ _ => some .x
  | .wqpop _ _ => some .x
  | .wqtry _ _ => some .x
  | .wqpush _ _ => some .x
  | .wqclose _ _ => some .x
  | .kvalloc _ _ _ => some .x
  | .kvgrow _ _ _ => some .x
  | .kvfork _ _ _ => some .x
  | .kvfree _ _ => some .x
  | .kvinval _ _ _ => some .x
  | .qpushX _ _ => some .x
  | .brC _ _ => some .c
  | .brzC _ _ => some .c
  | .callC _ _ => some .c
  | .ret _ => some .c
  | .fjmp _ _ => some .c
  | .lap _ _ => some .c
  | .lapLr _ => some .c
  | .phase _ => some .c
  | .bar _ _ _ => some .c
  | .wait _ => some .c
  | .waitP => some .c
  | .tend => some .c
  | .kpoint => some .c
  | .spawn _ _ => some .c
  | .trap _ => some .c
  | .rti => some .c
  | .srd _ _ => some .c
  | .swr _ _ _ => some .c
  | .ubrd _ _ _ => some .c
  | .ubwr _ _ _ => some .c
  | .lctlPark _ _ => some .c
  | .lctlRes _ _ => some .c
  | .lctlAbort _ _ => some .c
  | .otinv _ => some .c
  | .otinvAll => some .c
  | .mcall _ _ _ => some .c
  | .mans _ _ => some .c
  | .erpost _ _ _ => some .c
  | .launchQueuePop _ => none
  | .placement _ _ => none
  | .placementWaitLimit _ _ => none
  | .candidateAging _ _ => none
  | .urgencyWindowEntry _ _ => none
  | .preemptionDecision _ _ => none
  | .parkComplete _ => none
  | .parkAbandon _ => none
  | .saveComplete _ => none
  | .resumption _ => none
  | .restoreComplete _ => none
  | .pacerOverrun _ _ => none
  | .agingHold _ => none
  | .faultDelivery _ _ => none
  | .resultLanding _ _ => none
  | .sectorArrival _ _ => none
  | .objectEntryArrival _ => none
  | .remoteScratchpadArrival _ => none
  | .engineHazardRelease _ _ _ => none
  | .engineOpComplete _ _ _ => none
  | .engineFault _ _ _ => none
  | .matrixStep _ => none
  | .attentionOperationStep _ => none
  | .contextEnded _ _ => none
  | .killTakesEffect _ _ => none
  | .taggedWriteStage _ _ _ _ _ _ => none
  | .handlerRecordPush _ _ => none
  | .taskReplayPush _ _ => none
  | .flagIncrement _ => none
  | .store _ => none
  | .storeWithFlag _ => none
  | .atomic _ => none
  | .loadRequest _ => none
  | .loadData _ _ _ => none
  | .acknowledgement _ _ _ => none
  | .taggedStore _ _ _ _ => none
  | .joinControl _ _ => none
  | .management _ => none
  | .gapTimeout _ _ => none
  | .quarantineResync _ _ _ => none
  | .heartbeat _ => none
  | .heartbeatMissFence _ => none
  | .prepare _ => none
  | .drainComplete => none
  | .rekeyArrival _ _ => none
  | .commit => none
  | .abort => none
  | .prepareTimeout _ => none
  | .fence _ => none
  | .leadAnnouncement _ => none
  | .rekeyRequest _ => none
  | .measurementChangeReport _ => none
  | .scrubLine _ => none
  | .patrolScrub _ _ => none
  | .readErrorLogWord _ _ _ => none
  | .createDomain _ _ _ => none
  | .admitModule _ _ _ _ => none
  | .removeModule _ _ => none
  | .rekeyNow _ _ => none
  | .leaveDomain _ => none
  | .readDomainStatus _ => none
  | .moduleResetRequest _ => none
  | .spdmRequest _ _ => none
  | .registerWrite _ _ _ => none
  | .take _ => none
  | .semaWrite _ _ => none
  | .leaseExpiry => none
  | .ahiPush _ _ => none
  | .queueWindowPush _ _ _ => none
  | .wqcfgReopen _ _ _ => none
  | .strictWrite _ _ _ => none
  | .pendingRecordWrite _ => none
  | .interruptCoalescingTimer _ => none
  | .transmitDescriptor _ _ => none
  | .frameReceive _ _ _ _ => none
  | .hostMemRead _ _ _ => none
  | .hostMemWrite _ _ _ _ => none
  | .hostAtomic _ _ _ _ _ _ => none
  | .hostLockedOperation _ _ _ _ _ _ => none
  | .hostSnoop _ _ _ => none
  | .translationResponse _ _ _ _ _ _ _ => none
  | .pageRequestResponse _ _ _ _ => none
  | .atsInvalidateRequest _ _ _ _ => none
  | .powerOn => none
  | .moduleReset => none
  | .portReset _ => none
  | .functionLevelReset _ => none
  | .linkStateChange _ _ _ => none
  | .functionReady _ => none
  | .functionFailure _ => none
  | .moduleWideError => none
  | .controlStateError _ => none
  | .softError _ _ _ _ _ => none
  | .errorSummaryRecord _ _ => none
  | .powerControlWindow _ _ => none
  | .kvPageMove _ _ _ => none
  | .slabReclaim _ _ _ => none
  | .fillEntryAdvance _ _ _ => none
  | .waitUntilTickReached _ _ => none
  | .publishComplete _ _ => none
  | .homeUnitExecution _ => none
  | .mapCopyFull _ _ => none
  | .configurationAccess _ _ => none
  | .ethernetLinkChange _ _ _ => none

/-- The branch instructions (spec/05 R150). -/
def Instr.isBranch : Instr → Bool
  | .brS1 _ _ => true
  | .brzS1 _ _ => true
  | .callS1 _ _ => true
  | .brC _ _ => true
  | .brzC _ _ => true
  | .callC _ _ => true
  | .ret _ => true
  | .fjmp _ _ => true
  | _ => false

/-- Lap openings (spec/06 R182). -/
def Instr.isLap : Instr → Bool
  | .lap _ _ => true
  | .lapLr _ => true
  | _ => false

/-- The repeatable M operations (spec/08 R223). -/
def Instr.isMma : Instr → Bool
  | .mmaBf16 _ _ _ _ => true
  | .mmaBf16Mc _ _ _ _ => true
  | .mmaBf16Rop _ _ _ _ => true
  | .mmaF16 _ _ _ _ => true
  | .mmaF16Mc _ _ _ _ => true
  | .mmaF16Rop _ _ _ _ => true
  | .mmaE4m3 _ _ _ _ => true
  | .mmaE4m3Mc _ _ _ _ => true
  | .mmaE4m3Rop _ _ _ _ => true
  | .mmaE5m2 _ _ _ _ => true
  | .mmaE5m2Mc _ _ _ _ => true
  | .mmaE5m2Rop _ _ _ _ => true
  | .mmaF4x _ _ _ _ => true
  | .mmaF4xMc _ _ _ _ => true
  | .mmaF4xRop _ _ _ _ => true
  | _ => false

/-- Majors 0x24 and 0x25 of the V slots (spec/07 R193). -/
def Instr.isRowControl : Instr → Bool
  | .rcupd _ _ _ _ => true
  | .rcrd _ _ _ => true
  | .rcwr _ _ _ _ => true
  | .exit _ _ _ _ => true
  | .recurse _ _ _ => true
  | .exitC _ _ _ => true
  | .pack _ _ _ _ => true
  | .packRc _ _ _ _ => true
  | .packM _ _ _ _ => true
  | .unpack _ _ _ _ => true
  | .unpackC _ _ _ _ => true
  | _ => false

/-- Majors 0x10 to 0x14 of the M slot (spec/08 R243). -/
def Instr.isAttention : Instr → Bool
  | .ascore _ _ _ _ => true
  | .ascoreGm _ _ _ _ => true
  | .avalue _ _ _ => true
  | .avalueHi _ _ _ => true
  | .smerge _ _ _ => true
  | .smergeX _ _ _ => true
  | .smergeI _ _ _ => true
  | .mskld _ _ => true
  | .kvapp _ _ _ => true
  | _ => false

/-- What raises a privilege trap at user privilege (spec/09 R297, spec/13 R322). -/
def Instr.isPrivileged : Instr → Bool
  | .rti => true
  | .srd _ _ => true
  | .swr _ _ _ => true
  | .ubrd _ _ _ => true
  | .ubwr _ _ _ => true
  | .lctlPark _ _ => true
  | .lctlRes _ _ => true
  | .lctlAbort _ _ => true
  | .otinv _ => true
  | .otinvAll => true
  | .mcall _ _ _ => true
  | .mans _ _ => true
  | .erpost _ _ _ => true
  | _ => false

/-! ### Bundles (R134, R136, R154) -/

/-- The header of a bundle (Table 05-2). -/
structure Header where
  pop : BitVec 8
  yld : Bool
  rep : BitVec 10
  lbc : BitVec 4
deriving DecidableEq, Repr

/-- A decoded bundle: its header and the operations of its slots, in slot order, nops left out. -/
structure Bundle where
  hdr : Header
  ops : List (Slot × Instr)
deriving DecidableEq, Repr

/-- Why a bundle is not decoded, with the slot that the trap record names (7: the header or several slots). -/
inductive DecodeError where
  /-- an illegal encoding (Table 15-3 kind 1) -/
  | illegal (slot : Nat)
  /-- a non-zero reserved field (kind 2) -/
  | reserved (slot : Nat)
deriving DecidableEq, Repr

def headerOf (b : BitVec 256) : Header :=
  { pop := b.extractLsb' 0 8, yld := b.getLsbD 8, rep := b.extractLsb' 9 10, lbc := b.extractLsb' 19 4 }

def headerRes (b : BitVec 256) : Bool := b.extractLsb' 23 9 != 0#9

/-- The word of a slot (Table 05-1). -/
def slotWord (b : BitVec 256) (sl : Slot) : W32 := b.extractLsb' (32 * (sl.num + 1)) 32

def allSlots : List Slot := [.s0, .s1, .v0, .v1, .m, .x, .c]

/-- One slot of a bundle: none where illegal; otherwise its operation, if it is no nop, and whether a reserved field is
set. att: the core is an attention core (R156). -/
noncomputable def decodeSlot (att : Bool) (sl : Slot) (w : W32) : Option (Option Instr × Bool) :=
  if w = 0#32 then some (none, false)
  else if opOf w = 0#6 then some (none, true)
  else match decodeWord sl w with
    | none => none
    | some (i, r) => if i.wf && (att || !i.isAttention) then some (some i, r) else none

/-- The operations of the slots listed, in order; the first slot whose encoding is illegal, otherwise. -/
noncomputable def decodeSlots (att : Bool) (b : BitVec 256) : List Slot → Except DecodeError (List (Slot × Option Instr × Bool))
  | [] => .ok []
  | sl :: rest =>
    match decodeSlot att sl (slotWord b sl), decodeSlots att b rest with
    | none, _ => .error (.illegal sl.num)
    | some _, .error e => .error e
    | some (i, r), .ok t => .ok ((sl, i, r) :: t)

/-- Conditions of the header and those that involve more than one slot (R154): R137 on rep, R138 on lbc, R151 on a lap
with a branch, R193 on row control. The M slot's word and the slots that decode are given: a word that is no nop and decodes to
nothing is a failure of the M slot alone. -/
def headerIllegal (h : Header) (mword : W32) (ops : List (Slot × Instr)) : Bool :=
  let has (p : Instr → Bool) : Bool := ops.any fun x => p x.2
  decide (2 < h.lbc.toNat)
    || (h.rep != 0#10 && (mword == 0#32 || ops.any fun x => x.1 == .m && !x.2.isMma))
    || (h.lbc != 0#4 && (has Instr.isLap || has Instr.isBranch))
    || (has Instr.isLap && has Instr.isBranch)
    || decide (1 < (ops.filter fun x => x.2.isRowControl).length)

/-- The operations of the slots whose words decode on their own. -/
noncomputable def legalOps (att : Bool) (b : BitVec 256) : List (Slot × Instr) :=
  allSlots.filterMap fun sl =>
    match decodeSlot att sl (slotWord b sl) with
    | some (some i, _) => some (sl, i)
    | _ => none

/-- Decode a bundle: illegal-encoding conditions first, the header's before the slots', then reserved fields (R154). -/
noncomputable def decodeBundle (att : Bool) (b : BitVec 256) : Except DecodeError Bundle :=
  let h := headerOf b
  if headerIllegal h (slotWord b .m) (legalOps att b) then .error (.illegal 7)
  else match decodeSlots att b allSlots with
    | .error e => .error e
    | .ok l =>
      if headerRes b then .error (.reserved 7)
      else match l.find? fun x => x.2.2 with
        | some x => .error (.reserved x.1.num)
        | none => .ok { hdr := h, ops := legalOps att b }

/-- Placing a word in a slot of a bundle whose other slots are nops and whose header is zero. -/
def bundleOfWord (sl : Slot) (w : W32) : BitVec 256 := (w.setWidth 256) <<< (32 * (sl.num + 1))

/-- The slots in which a bare word is looked up: the same word means different operations in different slots, and the
opcode table does not say which slot a row is of, so the first slot that reads the word gives its meaning. -/
def wordSlots : List Slot := [.s0, .s1, .v0, .m, .x, .c]

/-- The slot that reads a bare word, and its instruction. -/
noncomputable def findWord (w : W32) : Option (Slot × Instr) :=
  wordSlots.findSome? fun sl =>
    match decodeWord sl w with
    | some (i, false) => some (sl, i)
    | _ => none

/-- The instruction of a word numbered as the opcode table numbers its bits: nbits is 32 for every row with an encoding. -/
noncomputable def decodeTableWord (nbits w : Nat) : Option Instr :=
  if nbits = 32 then (findWord (BitVec.ofNat 32 w)).map (·.2) else none

end Sys2Proof
end

