-- ==== Sys2Proof/Config.lean ====
section
/-! DEFINITION. What the manual leaves open, as constants without a body: no proof can see a value of theirs (the free
values of assumption log 3, 4 and 13), and what another party outside the module answers. -/

namespace Sys2Proof.Config

/-- Undefined() (spec/05 R155): w bits drawn with the machine's counter, the slot that reads, and which read of the slot
it is. Two reads may differ (log 3). -/
opaque undef (w : Nat) (draw slot pos : Nat) : BitVec w

/-- Whether an ordinary load of a racing byte takes the newly published store (spec/04 R105), by draw and byte (log 4). -/
opaque raceTakesNew (draw byte : Nat) : Bool

/-- Whether a refresh includes a published store that it need not include (spec/04 R103), by tick, byte and number of the
store (log 5). -/
opaque refreshTakes (tick byte seq : Nat) : Bool

/-- Whether a clean byte that a load has brought into the L1 data cache is still there (spec/02 R62, R70), by draw and byte
(log 7). -/
opaque stillCached (draw byte : Nat) : Bool

/-- AES-GMAC truncated to 64 bits (spec/16 R405, R406): the key, and the bits authenticated (log 13). -/
opaque gmac (key : BitVec 256) (data : List (BitVec 128)) : BitVec 64

/-- AES-256-XTS on one 16-byte block (spec/16 R403): the data and tweak keys, the tweak value, the block's number in its line, and the
block (log 13). -/
opaque xts (k1 k2 : BitVec 256) (tweak : BitVec 128) (block : Nat) (plain : BitVec 128) : BitVec 128

/-- SHAKE256 with 64 bytes of output (spec/16 R400) (log 13). -/
opaque shake256 (data : List Byte) : BitVec 512

/-- The module's certificate chain and its private key (spec/16 R400) (log 13). -/
opaque certificateChain : List Byte
opaque identityKey : List Byte

/-- What the responder of SPDM 1.3 answers with its chain, its key and its measurement summary (spec/16 R400; the protocol is not in
the manual) (log 13). -/
opaque spdmAnswer (chain key : List Byte) (measurement : BitVec 512) (request : List Byte) : List Byte

/-- Keys that a leader draws fresh (spec/16 R402), by draw (log 13). -/
opaque freshKeys (draw : Nat) : EpochKeys

/-- The firmware images that Brosy loads at reset, in load order (spec/16 R400) (log 13). -/
opaque firmware : List (List Byte)

/-- Where Brosy puts the table object of a partition at bring-up (spec/15 R364): die, base and length, as numbers that the
machine brings within the manual's bounds (log 3). -/
opaque tablePlace (part : Nat) : Nat × Nat × Nat

/-- Where the sequence tables of a Crievo die lie in memory (spec/09 R277), as a physical address (log 23). -/
opaque kvTable (die : Nat) : Nat

/-- The module's fabric address, as installed (spec/16 R394) (log 3). -/
opaque fabricAddress : BitVec 13

/-- The path that the packets of a 512-byte line of an object take to a module (spec/16 R397), by link state, destination,
object and line: the route tables, which no program sees, and the choice among their paths (log 39). -/
opaque path (lstat : BitVec 38) (gstat : BitVec 64) (dst : BitVec 13) (obj : BitVec 24) (line : Nat) : BitVec 4

/-- The fibre length of a global port in metres, as Brosy measures it (spec/16 R394) (log 3). -/
opaque fibre (port : Nat) : BitVec 16

end Sys2Proof.Config
end

