-- ==== Sys2Proof/Machine/State.lean ====
section
/-! DEFINITION. The state of an AX24 module as plain data: everything the manual names (INVENTORY.md lists each piece with
its rule), the ways a step can stop, and the state after reset (spec/17 R421). -/

namespace Sys2Proof.Machine

/-- Why a step stops the machine with a fault. -/
inductive Fault where
  /-- No meaning raises it: every trap and fault of Table 15-3 is taken as a next state. Safe. -/
  | none
deriving DecidableEq, Repr

/-- Why the model refuses a step. -/
inductive Refusal where
  /-- Raised by an arm of the dispatch whose instruction has no meaning yet. Safe. -/
  | notModelled (mnemonic : String)
deriving DecidableEq, Repr

/-! ### The register bank (spec/02 Table 02-2, Table 02-3) -/

/-- One lap-loop level (Table 02-3). -/
structure LoopLevel where
  remain : W32
  blen : BitVec 7
  lrform : Bool
  bstart : W64
deriving DecidableEq, Repr

/-- A register bank. Its lat fields are the latches of the seven slots. -/
structure Bank where
  s : Vector W64 64
  a : Vector Cap 16
  v : Vector VecReg 32
  p : Vector Pred 24
  sh : Vector Shape 16
  latS0 : W64
  latS1 : W64
  latV0 : VecReg
  latV1 : VecReg
  latM : VecReg
  latX : VecReg
  latC : W64
  link : W64
  lrc : BitVec 16
  status : W64
  ptick : W64
  misses : BitVec 16
  depth : BitVec 3
  loops : Vector LoopLevel 4
  pc : W64
  target : W64
  delay : BitVec 2
  /-- The record of the current task, as delivered (spec/01 R31, R35). -/
  task : Rec
  /-- Number of the latest X result in lat.x (spec/09 R295). -/
  xSeq : Nat
deriving DecidableEq, Repr

/-- Every register at the value of an idle bank: p0 all ones, the rest 0. -/
def Bank.zero : Bank :=
  { s := Vector.replicate 64 0, a := Vector.replicate 16 0, v := Vector.replicate 32 0
    p := (Vector.replicate 24 0).set 0 (BitVec.allOnes 128), sh := Vector.replicate 16 0
    latS0 := 0, latS1 := 0, latV0 := 0, latV1 := 0, latM := 0, latX := 0, latC := 0
    link := 0, lrc := 0, status := 0, ptick := 0, misses := 0, depth := 0
    loops := Vector.replicate 4 ⟨0, 0, false, 0⟩, pc := 0, target := 0, delay := 0, task := 0, xSeq := 0 }

/-- What a result is written to: a register, a latch by slot number (0 to 6), link or lrc. -/
inductive WReg where
  | s (n : Fin 64) | a (n : Fin 16) | v (n : Fin 32) | p (n : Fin 24) | sh (n : Fin 16)
  | lat (slot : Nat) | link | lrc
deriving DecidableEq, Repr

/-- An open window of a write (spec/05 R146): reads give Undefined() while the tick is below `until`; none: until the
register is written. `req` names the request whose answer is still to land here. -/
structure Window where
  reg : WReg
  until' : Option Nat
  req : Option Nat
deriving DecidableEq, Repr

/-! ### Engine operations (spec/09 R254 to R263) -/

/-- A byte range: space 0 global (obj, off), 1 scratchpad (obj: the core's logical index in the cluster), 2 queue. -/
structure Range where
  space : Nat
  obj : Nat
  off : Nat
  len : Nat
deriving DecidableEq, Repr

/-- One side of a walk: its shape, capability, row starts of a gather or scatter, and in conversion mode the format of the
bank at each position, as at issue (spec/02 R55). -/
structure Side where
  shape : Shape
  cap : Cap
  rows : Option (List W32)
  fmts : List W32
deriving DecidableEq, Repr

/-- A slot that fillreg.w writes (spec/09 R288): keys of its key and value bytes, the fill-list entry, the key of its word
of the handle table, and the position. -/
structure FillItem where
  key : Nat
  val : Nat
  entry : Nat
  word : Nat
  pos : Nat
deriving DecidableEq, Repr

/-- What an engine operation does, with its operands as read at issue. -/
inductive EngBody where
  /-- copy, gather, scatter, fst. w: element bytes in byte mode; run: 0 in byte mode, else elements per position; flag:
  capability and displacement of the flag word, and whether ordered; tag: member word and join handle. -/
  | move (src dst : Side) (w run : Nat) (cons : Bool) (flag : Option (Cap × Int × Bool)) (tag : Option (W64 × W64))
  | smpl (a b : W64) (meSeq : Nat)
  | ratom (op : HomeOp) (cap : Cap) (disp : Int) (v : W64)
  /-- xseq: the number of the lat.x result that holds its promise (spec/09 R295). -/
  | mapreq (cap : Cap) (len xseq : Nat)
  | accept (a : W64)
  /-- Lane packer: each entry copies the line at `src` (none: zeros) to the line at `dst`; lines by place × 2^15 + line; a row
  slice is k of them. -/
  | lines (k : Nat) (moves : List (Nat × Option Nat))
  | fillw (block map : Nat) (items : List FillItem)
deriving DecidableEq, Repr

/-- An outstanding engine operation of a context. -/
structure EngOp where
  cmd : Nat
  major : Nat
  fn : Nat
  ptick : Option Nat
  body : EngBody
  rd : List Range
  wr : List Range
  /-- Positions already done. -/
  at' : Nat
  /-- Source bytes already read: place × 2^22 + offset (spec/09 R254, R258). -/
  buf : List Host.Cell
  /-- Source bytes among them that were poisoned. -/
  bufBad : List Nat
  /-- Global bytes written and not yet published (spec/04 R125): physical address, byte. -/
  gw : List Host.Cell
  /-- Bytes of other modules that have arrived, and the blocks and pages asked for. -/
  rdata : List Host.Cell
  asked : List Nat
  /-- Acknowledgement awaited: serial × 2^13 + module (spec/04 R128). -/
  serial : Option Nat
  /-- Packets of writes to another module not yet acknowledged. -/
  owed : Nat
  /-- Answer that a mapreq has got so far (spec/15 R373). -/
  status : Nat
  /-- Reported as a missed promise (spec/02 R73). -/
  missed : Bool
  /-- Issued from the supervisor bank. -/
  sv : Bool
  /-- Waits for these mapreqs (spec/15 R379 defer). -/
  defer : List Nat
  /-- Parked by pre-emption (spec/14 R357). -/
  parked : Bool
  /-- The tick of its issue: earlier requests of its context to a bank go first (spec/04 R110). -/
  issued : Nat
  /-- The context that issued it, by its index on the core. -/
  ctx : Nat
  /-- Dirty bytes under its reads that it waits to be published (spec/04 R124). -/
  awaits : List Nat
deriving DecidableEq, Repr

/-- A fault found after issue and not yet delivered (spec/15 R377). -/
structure PendFault where
  kind : Nat
  sub : Nat
  record : BitVec 256
  found : Nat
  cmd : Nat
  op : Option EngOp
  /-- Of an operation or a publish of the supervisor bank. -/
  sv : Bool
deriving DecidableEq, Repr

/-! ### What holds the next bundle of a context (spec/01 R18) -/

/-- Where the word of a strong access is (spec/04 R112). -/
inductive StrongAt where
  /-- Physical address; object and offset of the word, whose sector the context publishes first (spec/02 R64). -/
  | phys (addr obj off : Nat) (dp : Bool)
  | remote (mo : BitVec 13) (rid : BitVec 24) (off obj : Nat) (dp : Bool)
  /-- A scratchpad: physical core and offset. -/
  | sp (core off : Nat)
deriving DecidableEq, Repr

/-- A strong access: its word, operation and operands; whether it refreshes afterwards; where its value goes. -/
structure Strong where
  loc : StrongAt
  bytes : Nat
  op : HomeOp
  v : W64
  v2 : W64
  acq : Bool
  scope : Scope
  dst : Option (Fin 64)
  slot : Nat
  sg : Bool
  rq : Nat
  /-- The bundle that issued it. -/
  pc : W64
deriving DecidableEq, Repr

/-- What a publish is followed by when it completes (Table 04-2). -/
inductive After where
  | nothing
  | refresh (sc : Scope)
  | strong (x : Strong)
  | barrier (sc : Scope) (key count : Nat)
  | arrive (handle member : W64) (dst : Option (Fin 64)) (rq : Nat)
  /-- A work-queue push, whose status answers rq (spec/06 R188). -/
  | push (die q : Nat) (record : Rec) (rq : Nat)
  /-- A push to the admission heap, whose result answers rq (spec/09 R292). -/
  | heap (a b : W64) (rq : Nat)
  /-- Nothing: the publish of the dirty bytes under an engine operation's reads (spec/04 R124). -/
  | reads (keys : List Nat)
deriving DecidableEq, Repr

/-- What the next bundle of a context waits for. -/
inductive Pending where
  | publish (sc : Scope) (after : After)
  | barrier (key : Nat)
  | acks (serials : List Nat)
  | spawn (record : Rec)
  | monitor (req : Nat)
  | park (launch : W32) (rq : Nat) (dst : Option (Fin 64))
  /-- A strong access on its way to another core or module (spec/04 R112): the block asked for, and how its answer lands. -/
  | remote (req key : Nat) (x : Strong)
  /-- A load request to another module for the held bundle (spec/16 R404): the block. -/
  | fetch (key : Nat)
  /-- The answer of a join of another module; the status that stands for it when the module is cut off. -/
  | joinReply (rq : Nat) (mo : BitVec 13) (refused : Nat)
  /-- The question whether a join of another module has released a generation, for a held jwait (spec/09 R274). -/
  | joinAsk (rq : Nat) (handle : W64) (gen : Nat)
  /-- A waiting read of another core's lines for the held bundle: the lines' key (spec/02 R61). -/
  | lines (rq key : Nat)
  /-- A handler record waits for room (spec/01 R35), then the context restarts at its entry. -/
  | handler (record : Rec)
  /-- A replayed task waits for room (spec/15 R381). -/
  | replay (record : Rec) (handler : Rec)
deriving DecidableEq, Repr

/-- Table 01-3. -/
inductive CtxState where
  | ready | running | blocked | parked | ending | ended
deriving DecidableEq, Repr

/-- A kill on its way (spec/09 R273): the join's handle, the generation and the member. -/
structure KillReq where
  handle : W64
  gen : Nat
  member : Nat
  /-- Bytes it had staged that the release cleared (spec/12 R313). -/
  staged : Nat
deriving DecidableEq, Repr

/-- A context. -/
structure Ctx where
  st : CtxState
  age : Nat
  /-- The bank its register names reach: the user bank, or the supervisor bank while `saved` holds the user bank. -/
  bank : Bank
  saved : Option Bank
  windows : List Window
  /-- Registers of the saved user bank that nothing has written yet. -/
  savedWin : List Window
  svKind : Nat
  svRecord : BitVec 256
  svOp : Option EngOp
  /-- Registers that hold poisoned data (spec/15 R384), and those of the saved user bank. -/
  poison : List WReg
  savedPoison : List WReg
  /-- Unpublished stores: object × 2^64 + offset, byte (spec/04 R103). -/
  unpub : List Host.Cell
  /-- Poisoned bytes among the unpublished stores. -/
  unpubPoison : List Nat
  /-- Unpublished bytes sent to another module and not yet acknowledged, with their serials (spec/16 R408). -/
  out : Tab Nat
  /-- The snapshot: physical bytes as last refreshed (spec/04 R103). -/
  snap : List Host.Cell
  /-- The number of the publication that the snapshot shows, by physical address (spec/04 R108). -/
  seen : Tab Nat
  /-- Clean bytes that its loads have brought into the L1 data cache since the last refresh: object × 2^64 + offset (spec/02 R70). -/
  l1 : List Host.Cell
  /-- Bytes of remote objects fetched since the last refresh: object × 2^64 + offset. -/
  rcache : List Host.Cell
  engine : List EngOp
  cmd : Nat
  /-- Acknowledgements outstanding, oldest first: serial × 2^13 + module; and the next serial. -/
  acks : List Nat
  ackNext : Nat
  faults : List PendFault
  /-- Kills sent and not yet in effect, oldest first. -/
  kills : List KillReq
  pending : List Pending
  /-- What the saved user bank's next bundle waits for, while the supervisor handles it. -/
  savedPend : List Pending
  /-- Unpublished bytes whose publish has failed, which the supervisor's publishes leave alone (spec/15 R372). -/
  stuck : List Nat
  /-- The join and generation that its held jwait is blocked on (spec/09 R274). -/
  joinWait : Option (W64 × Nat)
  /-- The tick that its held bundle waits for, when nothing else holds it (spec/06 R186). -/
  waitTick : Option Nat
  /-- Duty fixed by a barrier or join (spec/14 R352); none: ungrouped. -/
  duty : Option Nat
  /-- The tick from which a ceiling below its duty counts: its last boundary, or the ceiling's fall (spec/14 R353). -/
  overSince : Option Nat
  /-- The number of its next request. -/
  reqNext : Nat
  /-- Page requests sent for the held bundle have failed: sub-code (spec/15 R372). -/
  pageFail : Option (Nat × Nat × Nat)
  /-- A load request has failed at its home: block, sub-code (spec/15 R370). -/
  remoteFail : Option (Nat × Nat)
  /-- Blocks that their homes have answered for the held bundle (spec/15 R370). -/
  checked : List Nat
  /-- Lines of other cores that have been read for the held bundle: key, bytes, whether poisoned (spec/02 R61). -/
  lineGot : List (Nat × List Byte × Bool)
  /-- The answer for its held jwait: handle, generation, summary (spec/09 R274). -/
  joinTold : Option (W64 × Nat × W64)
  /-- It waits for the supervisor bank (spec/13 R318). -/
  waitBank : Bool
  /-- It was Blocked when it was Parked. -/
  wasBlocked : Bool
deriving DecidableEq, Repr

/-! ### Publications (spec/04 R103, Table 04-1) -/

/-- Where a context issues from: its launch, logical core and logical cluster, its number on the core, and the physical core. -/
structure PubSource where
  launch : Nat
  lcore : Nat
  lcl : Nat
  ctx : Nat
  core : Nat
deriving DecidableEq, Repr

/-- Whose store a published byte is. -/
inductive PubBy where
  /-- A write that every later refresh shows: a strong access, an engine write, or what stood there before. -/
  | every
  /-- A host port, which belongs to .mod and .dom instances only (R131). -/
  | host
  | ctx (p : PubSource)
deriving DecidableEq, Repr

/-- A store of a byte that its home has applied: the value, whose it is, the scope it was published at (none: it is at the home
for the sake of a strong access and not published, R116), and its number. -/
structure Pub where
  val : Byte
  src : PubBy
  scope : Option Scope
  seq : Nat
deriving DecidableEq, Repr

/-! ### The core -/

/-- One accumulator bank (spec/02 R49, spec/03 R91): elements by 64 × row + column, exponents by row; unlisted: 0. A poisoned
element holds the NaN marker (log 24). -/
structure AccBank where
  elems : Tab (BitVec 40)
  exps : Tab (BitVec 16)
  sticky : Bool
deriving DecidableEq, Repr

def AccBank.zero : AccBank := ⟨[], [], false⟩

/-- A visible and a working bank (spec/02 R48). -/
structure AccPair where
  vis : AccBank
  work : AccBank
deriving DecidableEq, Repr

def AccPair.zero : AccPair := ⟨AccBank.zero, AccBank.zero⟩

/-- An entry of a handoff queue. -/
structure QEntry where
  data : VecReg
  poison : Bool
deriving DecidableEq, Repr

/-- A finish-order map with its fill-slot table (spec/07 R215, spec/09 R286). -/
structure FMap where
  row0 : Nat
  n : Nat
  count : Nat
  full : Bool
  /-- Written by a pack and about to become full (spec/07 R215). -/
  coming : Bool
  entries : List Nat
  /-- The fill-slot table, present after a selection: fill-list indices in order. -/
  fill : Option (List Nat)
  /-- A fillreg.t has selected since the map filled (R286). -/
  selected : Bool
deriving DecidableEq, Repr

def FMap.empty : FMap := ⟨0, 0, 0, false, false, [], none, false⟩

/-- A mask slot (spec/08 R246, R247). -/
structure MaskSlot where
  valid : Bool
  /-- A mskld of this launch has loaded it (spec/14 Table 14-3). -/
  loaded : Bool
  p0 : W32
  n : Nat
  av : Vector (BitVec 16) 16
deriving DecidableEq, Repr

def MaskSlot.empty : MaskSlot := ⟨false, false, 0, 0, Vector.replicate 16 0⟩

/-- A segment of a sequence (spec/09 R277). -/
structure Seg where
  base : Nat
  k : Nat
deriving DecidableEq, Repr

/-- A sequence-table entry (Table 09-11). -/
structure Seq where
  length : Nat
  version : Nat
  segs : List Seg
  dh : Bool
  moving : Bool
  live : Bool
  check : BitVec 16
  fold : Nat
  fnew : Nat
  fmark : Nat
  fseg : Nat
deriving DecidableEq, Repr

def Seq.reset : Seq := ⟨0, 0, [], false, false, false, 0, 0, 0, 0, 0⟩

/-- Element types of mma (Table 08-1). -/
inductive MmaTy where
  | bf16 | f16 | e4m3 | e5m2 | f4x
deriving DecidableEq, Repr

/-- One operand vector of an mma step (spec/08 R226, R227, R234), with its bank format as at issue: from a register, at a
scratchpad address and its key (place × 2^22 + offset), or at displacements of the vector and its companion bytes from the capability. -/
inductive MmaVec where
  | reg (data : BitVec 512)
  | sp (addr key : Nat) (fmt : W32)
  | mem (disp : Int) (comp : Option Int)
deriving DecidableEq, Repr

/-- What an M operation does, with its sources as read at issue. -/
inductive MeBody where
  /-- Each step: the 8 row vectors and the 64 column vectors. lat: the result for lat.m. -/
  | mma (ty : MmaTy) (grp : Nat) (cap : Cap) (steps : List (List MmaVec × List MmaVec)) (lat : VecReg)
  | azero (vis work : Bool) (e : BitVec 16)
  | asetx (vis zero : Bool) (e : BitVec 16) (mask : W32)
  | anorm (vis : Bool) (h : Nat) (mask : W32)
  | aswap
  | ardout (r0 : Nat) (mode : BitVec 8) (key stream : W64)
  /-- rows: the key and bank format of each destination row. -/
  | ardoutS (fill : Bool) (r0 : Nat) (mode : BitVec 8) (rows : List (Nat × W32)) (key stream : W64)
  /-- rows: the addresses of the query rows. -/
  | ascore (gm : Bool) (rows : List Nat) (p0 : Nat) (addr : Nat)
  | avalue (hi : Bool) (p0 : Nat) (addr : Nat)
  | smerge (fn : Nat) (rec addr : Nat)
  | mskld (addr : Nat) (slot : Nat)
  /-- rows: the addresses of key and value of each position with data; n bytes each. -/
  | kvapp (rows : List (Option (Nat × Nat))) (n : Nat) (p0 : Nat) (handle : W64)
deriving DecidableEq, Repr

/-- An M operation in the matrix engine. -/
structure MeOp where
  seq : Nat
  ctx : Nat
  sv : Bool
  pc : W64
  major : Nat
  fn : Nat
  acc : Nat
  body : MeBody
  /-- Steps done. -/
  step : Nat
  /-- The die, partition and sequence version captured when it started (spec/08 R243). -/
  capt : Option (Nat × Nat × Seq)
  /-- The tick its result is due by (R146). -/
  due : Nat
  /-- Whether it lands a result in lat.m. -/
  lands : Bool
  /-- The working bank before its first step, which a fault of any other cause than R235's first brings back. -/
  before : Option AccBank
  /-- The lowest row that has clamped (spec/03 R94). -/
  clamp : Option Nat
  /-- The state line as read when its step started (spec/08 R244). -/
  line : Option Nat
  /-- Bytes of other modules that have arrived, and the blocks asked for. -/
  rdata : List Host.Cell
  asked : List Nat
  /-- Pages, by object and number, that it has requested, and those of them whose request failed (spec/15 R373). -/
  pages : List (Nat × Nat)
  failed : List (Nat × Nat)
deriving DecidableEq, Repr

/-- What a remote scratchpad request does at the owning bank (spec/02 R61). -/
inductive RemoteAct where
  /-- A waiting read, consuming when `cons`: n bytes; for a vector load its mode byte, the bank's format, key and stream. -/
  | read (cons : Bool) (n : Nat) (vec : Option (BitVec 8 × W32 × W64 × W64))
  | write (data : List Byte) (comp : List Host.Cell) (fill : Bool)
  | drain
  /-- A strong access (spec/06 R176). -/
  | strong (x : Strong)
  /-- A waiting read of n bytes for a held bundle (R61); their key. -/
  | lines (n key : Nat)
deriving DecidableEq, Repr

/-- A remote scratchpad request in flight or waiting at this core's bank. -/
structure RemoteReq where
  core : Nat
  ctx : Nat
  req : Nat
  issued : Nat
  addr : Nat
  act : RemoteAct
  dst : Option WReg
  slot : Nat
  /-- The bundle that sent it, and whether its context was in its supervisor bank. -/
  pc : W64
  sv : Bool
deriving DecidableEq, Repr

/-- A core. -/
structure Core where
  launch : Option W32
  lcore : Nat
  running : Option Nat
  ctxs : List Ctx
  svHolder : Option Nat
  accs : Tab AccPair
  /-- Scratchpad bytes written by this launch; an unlisted byte is undefined (spec/02 R43). -/
  sp : List Host.Cell
  /-- Full lines, rising. -/
  full : List Nat
  spPoison : List Nat
  bfmt : Vector W32 32
  queues : Vector (List QEntry) 8
  maps : Vector FMap 4
  masks : Vector MaskSlot 4
  meq : List MeOp
  meSeq : Nat
  reqs : List RemoteReq
  /-- Entries discarded by this core when its last context ended (spec/01 R27). -/
  left : Bool
deriving DecidableEq, Repr

/-- A core that holds no launch. -/
def Core.idle : Core :=
  { launch := none, lcore := 0, running := none, ctxs := [], svHolder := none, accs := [], sp := []
    full := [], spPoison := [], bfmt := Vector.replicate 32 0, queues := Vector.replicate 8 []
    maps := Vector.replicate 4 FMap.empty, masks := Vector.replicate 4 MaskSlot.empty, meq := [], meSeq := 0, reqs := []
    left := false }

/-! ### Launches (spec/01 R11 to R14, spec/13 R329 to R333, spec/14 R358) -/

/-- An entry of the leg table (Table 13-9). -/
structure Leg where
  entry : Nat
  inMask : BitVec 8
  outMask : BitVec 8
  kill : Nat
deriving DecidableEq, Repr

/-- A fill-list entry (spec/09 R285). -/
structure FillEntry where
  row : Nat
  addr : Nat
  lines : Nat
  table : Nat
  last : Nat
  pos : W32
  next : Nat
  /-- The map in whose fill-slot table it stands. -/
  placed : Option Nat
  deferred : Bool
  serial : Nat
deriving DecidableEq, Repr

/-- What a launch owns of one logical cluster. -/
structure Cluster where
  rows : Tab W32
  thr : Vector W64 4
  fills : Tab FillEntry
  serial : Nat
  /-- Cores whose fillreg.w of a map and block has completed (spec/09 R288). -/
  filled : List (Nat × Nat × Nat)
deriving DecidableEq, Repr

/-- The reset value of a threshold register (Table 07-8). -/
def thrReset : W64 := 0x00007FC07FC07FC0

def Cluster.fresh : Cluster := ⟨[], Vector.replicate 4 thrReset, [], 0, []⟩

/-- Table 14-2. -/
inductive LaunchState where
  | running | draining | parked | saving | saved | restoring
deriving DecidableEq, Repr

/-- Who asked for a park (spec/14 R355). -/
inductive ParkSource where
  | lctl | scheduler | overrun
deriving DecidableEq, Repr

/-- A launch record's contents (Table 13-6) with its image's header (Table 13-9). -/
structure LaunchRec where
  tag : W32
  n : Nat
  att : Bool
  pword : W32
  hq : Option (Nat × Nat)
  dl : Bool
  pclass : Nat
  ring : Nat
  image : Cap
  arg : W64
  acap : Cap
  deadline : Nat
  part : Nat
deriving DecidableEq, Repr

/-- The parts of a kernel image's header. -/
structure Image where
  codeOff : Nat
  codeLen : Nat
  dataOff : Nat
  dataLen : Nat
  legs : List Leg
  formats : Vector W32 32
  jtabs : List (Nat × Nat)
deriving DecidableEq, Repr

/-- An accepted launch. -/
structure Launch where
  record : LaunchRec
  img : Image
  die : Nat
  state : LaunchState
  /-- A park has been asked for and waits for the supervisor bank (spec/14 R355). -/
  asked : Bool
  source : ParkSource
  parkTick : Nat
  parkOrder : Nat
  tier : Nat
  accepted : Nat
  /-- Physical core of each logical core: die × 64 + core. -/
  cores : List Nat
  clusters : Tab Cluster
  faults : Nat
  /-- A fault has given fcode and fhandle. -/
  noted : Bool
  fcode : W32
  fhandle : W32
  left : Bool
  /-- Its save slot: die × 16 + slot. -/
  slot : Option Nat
  /-- The cores of a saved launch, by logical index. -/
  images : List Core
  /-- lctl.park forms that wait for the outcome: core, context, request. -/
  waiters : List (Nat × Nat × Nat)
deriving DecidableEq, Repr

/-- A candidate of a launch scheduler (spec/14 R342). A parked launch waits under its id. -/
structure Cand where
  record : LaunchRec
  img : Image
  entered : Nat
  order : Nat
  /-- Its place in tier 1, once aged (spec/14 R344). -/
  aged : Option Nat
  parked : Option W32
deriving DecidableEq, Repr

/-! ### Work queues (spec/13 Table 13-4) -/

/-- A blocked popper: core, context; `held` a record is kept for it (spec/01 R29). -/
structure Popper where
  core : Nat
  ctx : Nat
deriving DecidableEq, Repr

structure WorkQueue where
  cap : Nat
  mode : Nat
  grant : BitVec 8
  win : Bool
  closed : Bool
  ring : Nat
  recs : List Rec
  /-- Delivery sequence number of the next record (spec/01 R31). -/
  seq : Nat
  poppers : List Popper
  /-- Records held for the first poppers, in order. -/
  reserved : Nat
  /-- The tick of the latest push, and the parties of its pushes in their order (spec/04 R129). -/
  freshTick : Nat
  freshRanks : List Nat
deriving DecidableEq, Repr

def WorkQueue.reset : WorkQueue := ⟨0, 0, 0, false, false, 0, [], 0, [], 0, 0, []⟩

/-! ### Joins (spec/09 R268 to R276) -/

inductive JoinState where
  | collecting | closing
  /-- Its last release is on its way. -/
  | leaving
deriving DecidableEq, Repr

structure Member where
  staging : List Host.Cell
  committed : List Host.Cell
  /-- Their poisoned sectors of 128 bytes (spec/15 R384). -/
  stagingBad : List Nat
  committedBad : List Nat
  entered : Bool
  arrived : Bool
  /-- It has arrived in the current cycle, at whose end it commits (spec/09 R271). -/
  now : Bool
  /-- The context that entered: module, launch id × 512 + logical core, context; and its ceiling. -/
  who : Option (Nat × Nat × Nat)
  ceil : Nat
deriving DecidableEq, Repr

structure Release where
  gen : Nat
  weight : W32
  count : Nat
deriving DecidableEq, Repr

/-- A tagged write that has reached its join's home in the current cycle, to be judged at its end (spec/09 R272): member and its
generation modulo 1,024, sender and ceiling, offset in the target, bytes, and whether they are poisoned. -/
structure JoinWrite where
  member : Nat
  gen : Nat
  who : Option (Nat × Nat × Nat)
  ceil : Nat
  off : Nat
  data : List Byte
  bad : Bool
deriving DecidableEq, Repr

/-- A release whose combined result is on its way (spec/04 R133): the duty and the members that take it, the stragglers with their
member numbers and staged bytes, and the packets of the result not yet acknowledged. -/
structure Releasing where
  release : Release
  duty : Nat
  takers : List (Nat × Nat × Nat)
  stragglers : List (Nat × (Nat × Nat × Nat) × Nat)
  owed : Nat
deriving DecidableEq, Repr

/-- A wait of a context of another module (spec/09 R274): module, core, context, request and generation. -/
structure JoinAsk where
  module : BitVec 13
  core : Nat
  ctx : Nat
  req : Nat
  gen : Nat
deriving DecidableEq, Repr

structure Join where
  state : JoinState
  part : Nat
  target : Cap
  klog : Cap
  len : Nat
  fmt : Nat
  rule : Nat
  nextRule : Nat
  scope : Scope
  members : List Member
  weights : List Nat
  quorum : Nat
  gen : Nat
  late : Nat
  kills : Nat
  releases : List Release
  inbox : List JoinWrite
  /-- The arrived weight has reached the quorum in the current cycle. -/
  met : Bool
  releasing : List Releasing
  asks : List JoinAsk
deriving DecidableEq, Repr

/-- A join number of a die: the check of its last open, the join if open, and the join last freed, for the waits that it
still held. -/
structure JoinSlot where
  check : BitVec 8
  join : Option Join
  last : Option Join
deriving DecidableEq, Repr

def JoinSlot.free : JoinSlot := ⟨0, none, none⟩

/-! ### Key-value managers (spec/09 R277 to R283, spec/13 R335) -/

/-- A slab: first page, size exponent, dh, reference count; kept until nothing that captured it runs. -/
structure Slab where
  base : Nat
  k : Nat
  dh : Bool
  refs : Nat
deriving DecidableEq, Repr

structure KvSlice where
  first : Nat
  pages : Nat
  reserve : Nat
  /-- Entries by index; unlisted: not live. -/
  seqs : Tab Seq
  slabs : List Slab
deriving DecidableEq, Repr

def KvSlice.reset : KvSlice := ⟨0, 0, 0, [], []⟩

structure KvMgr where
  slices : Vector KvSlice 8
  /-- Gap words by page. -/
  gaps : Tab W64
  /-- Where the sequence tables of the partitions lie in memory once the die has started, one after another (R277). -/
  table : Option Nat
deriving DecidableEq, Repr

def KvMgr.reset : KvMgr := ⟨Vector.replicate 8 KvSlice.reset, [], none⟩

/-! ### Dies -/

structure Die where
  dpart : BitVec 4
  /-- The strict register, and the setting in force, which follows it a cycle later (spec/14 R354). -/
  strict : Bool
  strictOn : Bool
  svcode : Cap
  tvec : W64
  psave : Cap
  wq : Tab WorkQueue
  cands : List Cand
  lastq : Nat
  accepted : Nat
  order : Nat
  ceil : Nat
  parks : W32
  overruns : W32
  wrefused : W32
  bad : Bool
deriving DecidableEq, Repr

/-- The duty ceiling starts at 64 (spec/17 R428). -/
def Die.reset : Die := ⟨0, false, false, 0, 0, 0, [], [], 0, 0, 0, 64, 0, 0, 0, false⟩

/-! ### Event rings (spec/13 Table 13-8) -/

structure Ring where
  base : W64
  size : BitVec 4
  en : Bool
  ien : Bool
  port : Bool
  vec : BitVec 8
  ccount : BitVec 16
  ctime : W32
  head : W32
  tail : W32
  pasid : BitVec 20
  pv : Bool
  /-- Records written since the last interrupt, and the tick of the oldest. -/
  pend : Nat
  oldest : Nat
deriving DecidableEq, Repr

def Ring.reset : Ring := ⟨0, 0, false, false, false, 0, 0, 0, 0, 0, 0, false, 0, 0⟩

/-! ### Translation (spec/15 R364 to R374) -/

/-- An object-table entry (Table 15-1) as its four words. -/
abbrev Entry := BitVec 256

structure Xlate where
  port : Nat
  pasid : Option (BitVec 20)
  va : Nat
  size : Nat
  pa : Nat
  rd : Bool
  wr : Bool
deriving DecidableEq, Repr

/-- An outstanding page request (spec/15 R372, R373). -/
structure PageReq where
  port : Nat
  obj : BitVec 24
  page : Nat
  write : Bool
  /-- The page request group that it is sent in. -/
  group : Nat
deriving DecidableEq, Repr

/-- An outstanding translation request (spec/15 R371): host port, PASID and 4 KiB page of the virtual address; after a page request
that succeeded, that request (R372). -/
structure AtsReq where
  port : Nat
  pasid : Option (BitVec 20)
  page : Nat
  after : Option PageReq
deriving DecidableEq, Repr

/-- A host physical memory decoder (spec/16 R390). -/
structure Decoder where
  base : Nat
  len : Nat
  dbase : Nat
  targets : List Nat
deriving DecidableEq, Repr

/-- A host port. -/
structure HostPort where
  decoders : List Decoder
  ide : Bool
  spdm : Bool
  /-- Page requests are stopped after a Response Failure (spec/15 R372). -/
  stopped : Bool
  prAlloc : Nat
  ahd : W64
  ahi : W64
  vectors : List (Nat × Nat)
  /-- The last answer to a read, an atomic or the responder; whether it came with poison (1) or the request was not supported (2). -/
  answer : List Byte
  status : Nat
  /-- Dropped pushes of its queue windows, by die × 64 + queue (spec/13 R331). -/
  drops : Tab W32
  /-- Invalidate Completions sent (spec/15 R374). -/
  completions : Nat
deriving DecidableEq, Repr

def HostPort.reset : HostPort := ⟨[], false, false, false, 512, 0, 0, [], [], 0, [], 0⟩

/-! ### Ethernet (spec/16 Table 16-10) -/

structure EthPair where
  obj : BitVec 24
  size : BitVec 4
  qen : Bool
  ering : BitVec 4
  ttail : BitVec 16
  thead : BitVec 16
  rtail : BitVec 16
  rhead : BitVec 16
deriving DecidableEq, Repr

def EthPair.reset : EthPair := ⟨0, 0, false, 0, 0, 0, 0, 0⟩

structure EthPort where
  en : Bool
  split : BitVec 2
  msec : Bool
  mtu : BitVec 14
  part : BitVec 3
  up : BitVec 8
  drops : W32
  pairs : Vector EthPair 8
  /-- Frames given to the line. -/
  sent : List (Nat × List Byte)
deriving DecidableEq, Repr

def EthPort.reset : EthPort := ⟨false, 0, false, 1518, 0, 0, 0, Vector.replicate 8 EthPair.reset, []⟩

/-! ### The trust domain (spec/16 R399 to R417) -/

inductive DomState where
  | outside | attesting | member | fenced
deriving DecidableEq, Repr

inductive RekeyState where
  | idle | draining | arrived
deriving DecidableEq, Repr

/-- A receive window of a source, channel and epoch (spec/16 R407): base and accepted numbers above it. -/
structure SeqWin where
  src : BitVec 13
  vc : BitVec 2
  epoch : BitVec 2
  base : Nat
  /-- With the tick of each one's acceptance. -/
  seen : Tab Nat
  /-- The highest number accepted of a 512-byte line's packets, which arrive in order (spec/16 R397). -/
  lines : Tab Nat
deriving DecidableEq, Repr

/-- A 512-byte line of a domain-protected object (spec/16 R403, R405): the epoch and the tag of its metadata, and its domain address,
an object of this module and its line there. Memory holds what the domain's key shows of it; `bare`: the bytes that are there instead,
once the key is gone or the line has been written beside the domain, so that its check fails. -/
structure DomLine where
  epoch : BitVec 2
  obj : Nat
  line : Nat
  tag : BitVec 64
  bare : Option (List Byte)
deriving DecidableEq, Repr

structure SendNum where
  dst : BitVec 13
  vc : BitVec 2
  epoch : BitVec 2
  next : Nat
deriving DecidableEq, Repr

structure Domain where
  state : DomState
  epoch : BitVec 2
  keys : Tab EpochKeys
  newKeys : Option EpochKeys
  rekey : RekeyState
  scrub : Bool
  leader : BitVec 13
  leads : Bool
  /-- The leader took the lead by announcement (R416). -/
  announced : Bool
  members : List (BitVec 13)
  admitting : Option (BitVec 13)
  arrivals : List (BitVec 13 × Nat)
  /-- Those that the running rekey of the leader includes, and the older epochs that members have told it they hold. -/
  party : List (BitVec 13)
  olders : Tab Nat
  prepTick : Nat
  rekeyWanted : Bool
  misses : Tab Nat
  wins : List SeqWin
  sends : List SendNum
  discarded : Nat
  /-- Packets waiting for the end of a drain. -/
  queued : List Packet
  /-- Packets given to the fabric. -/
  sent : List Packet
  /-- Requests of this module not yet answered, by the module asked. -/
  opens : Tab Nat
  quar : List (BitVec 13)
  quarSince : Tab Nat
  fence : List (BitVec 13)
  /-- The protected lines held, by physical address / 512. -/
  lines : Tab DomLine
  policy : Option (BitVec 24 × W64)
deriving DecidableEq, Repr

def Domain.reset : Domain :=
  ⟨.outside, 0, [], none, .idle, false, 0, false, false, [], none, [], [], [], 0, false, [], [], [], 0, [], [], [], [], [], [], [], none⟩

/-! ### Fabric stores received or sent (spec/04 R126 to R128) -/

/-- What the flag packet of a fabric store says (log 19): elements of the store, ordered-flag, and the flag's object and offset. -/
structure FlagInfo where
  want : Nat
  ordered : Bool
  flag : BitVec 24 × Nat
deriving DecidableEq, Repr

/-- A fabric store being received (spec/04 R126, R127; log 19): its source module and context, its serial there, elements
applied, what its flag packet said, its number, and whether later ordered flags no longer wait for it: its flag has been incremented,
or refused. -/
structure FlagWait where
  src : BitVec 13
  who : Nat
  serial : Nat
  got : List Nat
  info : Option FlagInfo
  num : Option Nat
  flagged : Bool
deriving DecidableEq, Repr

/-- A barrier instance (spec/06 R185). -/
structure Barrier where
  key : Nat
  count : Nat
  arrived : Nat
  ceil : Nat
deriving DecidableEq, Repr

/-- A request in Brosy's mailbox (spec/13 R327). -/
structure MailReq where
  num : Nat
  core : Nat
  ctx : Nat
  req : Nat
  dst : Option (Fin 64)
  a : W64
  b : W64
deriving DecidableEq, Repr

/-- A take of the semaphore by a supervisor, whose result a request number awaits (spec/13 R336). -/
structure TakeReq where
  core : Nat
  ctx : Nat
  req : Nat
deriving DecidableEq, Repr

/-- A request of the admission heap (spec/09 R292). -/
structure HeapEntry where
  deadline : Nat
  cost : Nat
  id : W32
  part : Nat
  serial : Nat
  /-- The tick of the push and its party, which order the pushes of one cycle (spec/04 R129). -/
  tick : Nat
  rank : Nat
deriving DecidableEq, Repr

/-- The management window of a port (spec/16 R393). -/
structure Mgmt where
  words : Vector W64 8
  answer : W64
  busy : Bool
deriving DecidableEq, Repr

def Mgmt.reset : Mgmt := ⟨Vector.replicate 8 0, 0, false⟩

/-- Correctable errors of a unit in the current 600,000 ticks (spec/15 R387): their number, the first one's tick, and whether one
was corrected in place. -/
structure ErrCount where
  die : Nat
  unit : Nat
  count : Nat
  first : Nat
  inPlace : Bool
deriving DecidableEq, Repr

/-! ### The module -/

structure Mod where
  tick : Nat
  /-- Occupied cores by die × 64 + core; unlisted: idle. -/
  cores : Tab Core
  launches : Tab Launch
  dies : Vector Die 10
  /-- Memory: die × 2^48 + HBM4 address, and 2^60 + host physical address; an unlisted byte reads as 0 (log 1). -/
  mem : List Host.Cell
  /-- Poisoned 128-byte sectors by physical address / 128. -/
  poison : List Nat
  /-- Stores that contexts have published, by physical address, the latest first (spec/04 R103, R108); unlisted: every party sees
  the byte of `mem`. And the number of the last. -/
  pubs : Tab (List Pub)
  pubSeq : Nat
  /-- The supervisor bank of each physical core, die × 64 + core (spec/13 R317); unlisted: 0 (log 2). A context that holds it has
  it as its bank. -/
  svBanks : Tab Bank
  /-- Table objects' pinned entries by partition, and cached entries by object id. -/
  tables : Tab Entry
  entries : Tab Entry
  xlates : List Xlate
  /-- Translations that the cache holds no longer, through which clean bytes may have been read (spec/15 R374). -/
  pastXlates : List Xlate
  pageReqs : List PageReq
  /-- Page request groups sent so far. -/
  prGroup : Nat
  atsReqs : List AtsReq
  joins : Tab JoinSlot
  /-- Bytes that a hardware unit has still to write: capability, displacement, byte, poisoned (spec/15 R371). -/
  todo : List (Cap × Nat × Byte × Bool)
  kv8 : KvMgr
  kv9 : KvMgr
  rings : Tab Ring
  pendRecs : List (Nat × BitVec 256)
  heap : List HeapEntry
  heapSerial : Nat
  barriers : List Barrier
  mail : List MailReq
  mailNext : Nat
  mgmt : Vector Mgmt 2
  ports : Vector HostPort 2
  /-- Takes of supervisors that have reached the semaphore in this cycle (spec/13 R336). -/
  takes : List TakeReq
  semaOwner : Nat
  semaLast : Nat
  werr : Vector Bool 2
  expired : Bool
  since : Nat
  lease : W32
  addr : BitVec 13
  rdy : BitVec 30
  plim : BitVec 12
  pwr : BitVec 24
  gapt : W32
  idereq : Bool
  lstat : BitVec 38
  gstat : W64
  glen : Tab (BitVec 16)
  dom : Domain
  flags : List FlagWait
  /-- Fabric stores completed without a gap, by source module and context; and the number of the next store sent, by target
  module and context. -/
  flagBase : Tab Nat
  fstNext : Tab Nat
  eth : Vector EthPort 4
  log : List (BitVec 256)
  logSeq : Nat
  /-- Corrected errors and refetches counted for the next summaries. -/
  corrected : List ErrCount
  measurement : BitVec 512
  /-- Module failed over into a reset by Brosy. -/
  resets : Nat
deriving DecidableEq, Repr

/-- The module after a power-on reset (spec/17 R421), as Table 13-3 and Table 16-8 give the registers. -/
def Mod.reset : Mod :=
  { tick := 0, cores := [], launches := [], dies := Vector.replicate 10 Die.reset, mem := [], poison := [], pubs := [], pubSeq := 0, svBanks := [], tables := []
    entries := [], xlates := [], pastXlates := [], pageReqs := [], prGroup := 0, atsReqs := [], joins := [], todo := [], kv8 := KvMgr.reset, kv9 := KvMgr.reset, rings := []
    pendRecs := [], heap := [], heapSerial := 0, barriers := [], mail := [], mailNext := 0
    mgmt := Vector.replicate 2 Mgmt.reset, ports := Vector.replicate 2 HostPort.reset, takes := [], semaOwner := 0, semaLast := 3
    werr := Vector.replicate 2 false, expired := false, since := 0, lease := 0, addr := 0, rdy := 0
    plim := 2400, pwr := 0, gapt := 600000, idereq := false, lstat := 0, gstat := 0, glen := [], dom := Domain.reset
    flags := [], flagBase := [], fstNext := [], eth := Vector.replicate 4 EthPort.reset, log := [], logSeq := 0, corrected := [], measurement := 0
    resets := 0 }

/-! ### The issue stage -/

/-- The machine with the issuing core and context taken out of `mod` into the issue stage: core number `cid`, context
`xid`. The stage is empty while `core` holds no launch. -/
structure Mach where
  mod : Mod
  core : Core
  ctx : Ctx
  cid : Nat
  xid : Nat
deriving DecidableEq, Repr

/-- What the bundle being issued has decided: its header, and what its slots asked for. -/
structure Iss where
  pop : BitVec 8
  yield : Bool
  rep : Nat
  lbc : Nat
  /-- A slot cannot issue (spec/01 R18). -/
  held : Bool
  /-- The held slot waits on a work queue: die × 64 + queue. -/
  waitq : Option Nat
  /-- A trap has been taken (spec/05 R144). -/
  trapped : Bool
  /-- The trap is a page fault or a missed promise, which comes before what holds the bundle (spec/15 R377). -/
  urgent : Bool
  /-- A branch in the bundle, and its target when taken. -/
  branch : Bool
  taken : Option W64
  /-- The next pc, when a lap opening gives it. -/
  next : Option W64
  /-- link before the bundle's S1 call, to annul it (spec/05 R150). -/
  link : Option (W64 × List Window)
  /-- A trap instruction's code (spec/09 R296). -/
  user : Option W64
  /-- rti or another operation has redirected the context: no next pc is computed. -/
  jumped : Bool
  kpoint : Bool
  /-- What a held bundle sends: page requests and load requests (spec/15 R372, spec/16 R404). -/
  pageReqs : List PageReq
  packets : List Packet
  ats : List AtsReq
  /-- Engine operations whose promise the held bundle finds missed (spec/02 R73). -/
  missed : List Nat
  /-- The join and generation that a held jwait waits for, and whether it asks another module. -/
  joinWait : Option (W64 × Nat)
  joinAsk : Bool
  /-- Lines of another core that the held bundle reads: physical core, offset, bytes, and their key. -/
  lines : Option (Nat × Nat × Nat × Nat)
  /-- The tick that a held wait names, and whether anything else holds the bundle. -/
  waitTick : Option Nat
  heldElse : Bool
deriving DecidableEq, Repr

def Iss.idle : Iss := ⟨0, false, 0, 0, false, none, false, false, false, none, none, none, none, false, false, [], [], [], [], none, false, none, none, false⟩

def Ctx.idle : Ctx :=
  { st := .ended, age := 0, bank := Bank.zero, saved := none, windows := [], savedWin := [], svKind := 0, svRecord := 0, svOp := none
    poison := [], savedPoison := [], unpub := [], unpubPoison := [], out := [], snap := [], seen := [], l1 := [], rcache := [], engine := [], cmd := 0, acks := [], ackNext := 0
    faults := [], kills := [], pending := [], savedPend := [], stuck := [], joinWait := none, waitTick := none, duty := none, overSince := none, reqNext := 0, pageFail := none, remoteFail := none, checked := [], lineGot := [], joinTold := none
    waitBank := false, wasBlocked := false }

/-- The machine. `now` is as the slots of the bundle so far have left it; `start` is the view at the start of the bundle,
which every slot reads (spec/05 R143); `agenda` holds the events of other agents that come next; `turn` is the part of a core's
cycle that comes next (log 15); `free` draws free values. -/
structure State where
  now : Mach
  start : Mach
  iss : Iss
  agenda : List Instr
  turn : Nat
  free : Nat
deriving DecidableEq, Repr

def Mach.reset : Mach := ⟨Mod.reset, Core.idle, Ctx.idle, 0, 0⟩

/-- The machine after reset: no launch, no context, no event to come. -/
def State.reset : State := ⟨Mach.reset, Mach.reset, Iss.idle, [], 0, 0⟩

end Sys2Proof.Machine
end

