-- ==== Sys2Proof/Machine/Table.lean ====
section
/-! DEFINITION. Tables by key and memory: the canonical form (keys strictly rising, no entry equal to what an unlisted
key holds) and the operations that keep it. -/

namespace Sys2Proof.Machine

variable {α : Type}

/-- The entry of a key, if listed. -/
def tfind (k : Nat) : List (Nat × α) → Option α
  | [] => none
  | (j, v) :: t => if j = k then some v else tfind k t

/-- What a key holds: d when unlisted. -/
def tget (d : α) (k : Nat) (t : List (Nat × α)) : α := (tfind k t).getD d

/-- List an entry. -/
def tset (k : Nat) (v : α) : List (Nat × α) → List (Nat × α)
  | [] => [(k, v)]
  | (j, w) :: t =>
    if k < j then (k, v) :: (j, w) :: t
    else if j = k then (k, v) :: t
    else (j, w) :: tset k v t

/-- Unlist a key. -/
def tdel (k : Nat) (t : List (Nat × α)) : List (Nat × α) := t.filter fun e => e.1 ≠ k

/-- Store a value where unlisted keys hold d. -/
def tput [DecidableEq α] (d : α) (k : Nat) (v : α) (t : List (Nat × α)) : List (Nat × α) :=
  if v = d then tdel k t else tset k v t

/-- Update what a key holds. -/
def tmod [DecidableEq α] (d : α) (k : Nat) (f : α → α) (t : List (Nat × α)) : List (Nat × α) :=
  tput d k (f (tget d k t)) t

/-- Update a listed entry; an unlisted key stays unlisted. -/
def tadj (k : Nat) (f : α → α) (t : List (Nat × α)) : List (Nat × α) :=
  match tfind k t with
  | some v => tset k (f v) t
  | none => t

/-- Keys strictly rising, each above b. -/
def keysAbove : Option Nat → List (Nat × α) → Bool
  | _, [] => true
  | none, (k, _) :: t => keysAbove (some k) t
  | some b, (k, _) :: t => decide (b < k) && keysAbove (some k) t

/-- Keys strictly rising. -/
def keysRise (t : List (Nat × α)) : Bool := keysAbove none t

/-- The canonical form of a table whose unlisted keys hold d. -/
def tableWf [DecidableEq α] (d : α) (t : List (Nat × α)) : Bool := keysRise t && t.all fun e => e.2 ≠ d

/-! ### Memory -/

/-- What a byte of memory that nothing has written reads as (assumption log 1). -/
def emptyByte : Byte := 0

/-- Memory in its canonical form. -/
def Memory.wf (m : List Host.Cell) : Bool := tableWf emptyByte m

/-- One byte. -/
def Memory.read (m : List Host.Cell) (a : Nat) : Byte := tget emptyByte a m

/-- Write one byte. -/
def Memory.write (m : List Host.Cell) (a : Nat) (b : Byte) : List Host.Cell := tput emptyByte a b m

/-- n bytes from an address upwards. -/
def Memory.bytes (m : List Host.Cell) (a : Nat) : Nat → List Byte
  | 0 => []
  | n + 1 => Memory.read m a :: Memory.bytes m (a + 1) n

/-- Write bytes from an address upwards. -/
def Memory.fill (m : List Host.Cell) (a : Nat) : List Byte → List Host.Cell
  | [] => m
  | b :: bs => Memory.fill (Memory.write m a b) (a + 1) bs

/-- Write listed bytes. -/
def Memory.store (m : List Host.Cell) : List Host.Cell → List Host.Cell
  | [] => m
  | (a, b) :: t => Memory.store (Memory.write m a b) t

/-! ### Bytes and words (spec/00 R7: little-endian) -/

/-- The number of little-endian bytes. -/
def leNat : List Byte → Nat
  | [] => 0
  | b :: bs => b.toNat + 256 * leNat bs

/-- n little-endian bytes of a number. -/
def leBytes : Nat → Nat → List Byte
  | 0, _ => []
  | n + 1, x => BitVec.ofNat 8 x :: leBytes n (x / 256)

/-! ### Rising sets of numbers -/

def sins (k : Nat) : List Nat → List Nat
  | [] => [k]
  | j :: t => if k < j then k :: j :: t else if j = k then j :: t else j :: sins k t

def sdel (k : Nat) (t : List Nat) : List Nat := t.filter (· ≠ k)

/-- Bits lo to lo + n − 1 of a number. -/
def bitsAt (x lo n : Nat) : Nat := x / 2 ^ lo % 2 ^ n

/-- A field of a bit vector as a number. -/
def fld {w : Nat} (x : BitVec w) (lo n : Nat) : Nat := x.toNat / 2 ^ lo % 2 ^ n

/-- Replace a field of a bit vector. -/
def setFld {w : Nat} (x : BitVec w) (lo n v : Nat) : BitVec w :=
  BitVec.ofNat w (x.toNat - fld x lo n * 2 ^ lo + v % 2 ^ n * 2 ^ lo)

/-- Replace an element of a list, if it is there. -/
def lset (l : List α) (i : Nat) (v : α) : List α := l.set i v

def lmod (l : List α) (i : Nat) (f : α → α) : List α :=
  match l[i]? with
  | some v => l.set i (f v)
  | none => l

/-- Update an element of a vector by number. -/
def vmod {n : Nat} (v : Vector α n) (i : Nat) (f : α → α) : Vector α n :=
  if h : i < n then v.set i (f v[i]) else v

/-- An element of a vector by number; d outside. -/
def vat {n : Nat} (d : α) (v : Vector α n) (i : Nat) : α := if h : i < n then v[i] else d

/-- Lists of numbers in dictionary order. -/
def lexLt : List Nat → List Nat → Bool
  | _, [] => false
  | [], _ :: _ => true
  | a :: as, b :: bs => decide (a < b) || (a == b && lexLt as bs)

/-- Insert by a key, behind equal keys. -/
def insertBy {α : Type} (key : α → List Nat) (x : α) : List α → List α
  | [] => [x]
  | y :: t => if lexLt (key x) (key y) then x :: y :: t else y :: insertBy key x t

def sortBy {α : Type} (key : α → List Nat) (l : List α) : List α := l.foldl (fun t x => insertBy key x t) []

/-- The numbers below n. -/
def upTo (n : Nat) : List Nat := List.range n

end Sys2Proof.Machine
end

