-- ==== Sys2Proof/Machine/Object.lean ====
section
/-! DEFINITION. Capabilities (spec/02 R66, R67), object-table entries and their checks (spec/15 R364 to R370), the
translation of an object's bytes to memory (R366, R371, R372), and what residency, poison and the domain say of them. -/

namespace Sys2Proof.Machine

/-! ### Capabilities (Table 02-8) -/

def capOffset (c : Cap) : Nat := fld c 0 64
def capObject (c : Cap) : Nat := fld c 64 24
/-- The six rights in the order of Table 02-8: ld, st, at, ex, fab, der. -/
def capRights (c : Cap) : BitVec 6 := c.extractLsb' 88 6
def capMant (c : Cap) : Nat := fld c 96 28
def capExp (c : Cap) : Nat := fld c 124 4
/-- The length in bytes (R66). -/
def capLength (c : Cap) : Nat := capMant c * 2 ^ capExp c

def rLd : BitVec 6 := 1
def rSt : BitVec 6 := 2
def rAt : BitVec 6 := 4
def rEx : BitVec 6 := 8
def rFab : BitVec 6 := 16
def rDer : BitVec 6 := 32

/-- Every right of `need` is among `has`. -/
def hasRights (has need : BitVec 6) : Bool := has &&& need == need

/-- CheckCap (spec/05 R155): the sub-code of the capability trap, or none when the check passes. -/
def checkCap (a : Cap) (d : Int) (n : Nat) (need : BitVec 6) : Option Nat :=
  if fld a 94 2 ≠ 0 then some 1
  else if !hasRights (capRights a) need then some 2
  else
    let e := (capOffset a : Int) + d
    if e < 0 ∨ (capLength a : Int) < e + n then some 3 else none

/-! ### Entries (Table 15-1) -/

def entType (e : Entry) : Nat := fld e 0 2
def entRights (e : Entry) : BitVec 6 := e.extractLsb' 2 6
def entUsr (e : Entry) : Bool := e.getLsbD 8
def entSv (e : Entry) : Bool := e.getLsbD 9
def entDp (e : Entry) : Bool := e.getLsbD 10
def entNpr (e : Entry) : Bool := e.getLsbD 11
def entPmask (e : Entry) : Nat := fld e 12 8
def entLen (e : Entry) : Nat := fld e 32 43
def entDie (e : Entry) : Nat := fld e 80 4
def entPaged (e : Entry) : Bool := e.getLsbD 84
def entBase (e : Entry) : Nat := fld e 128 64
def entPasid (e : Entry) : BitVec 20 := e.extractLsb' 80 20
def entPv (e : Entry) : Bool := e.getLsbD 100
def entHp (e : Entry) : Nat := fld e 101 1
def entModule (e : Entry) : BitVec 13 := e.extractLsb' 80 13
def entRid (e : Entry) : BitVec 24 := e.extractLsb' 128 24

/-- Bytes of one die's memory that an object may lie in (spec/00 R7, R367). -/
def stackBytes : Nat := 48 * 2 ^ 30

/-- Where the bytes of a die begin in `Mod.mem`. -/
def dieBase (die : Nat) : Nat := die * 2 ^ 48
/-- Where host physical memory begins in `Mod.mem`. -/
def hostBase : Nat := 2 ^ 60

/-- R367. -/
def entValid (e : Entry) : Bool :=
  let t := entType e
  t ≠ 0 && fld e 20 12 == 0 && fld e 75 5 == 0 && fld e 192 64 == 0 &&
  (if t = 1 then
    fld e 85 43 == 0 && decide (entDie e < 10) &&
      (entPaged e || decide (entBase e + entLen e ≤ stackBytes))
   else if t = 2 then fld e 102 26 == 0 && decide (entBase e + entLen e ≤ 2 ^ 64)
   else fld e 93 35 == 0 && fld e 152 40 == 0)

/-- Where a byte of an object is. -/
inductive Place where
  | phys (addr : Nat)
  | absent
  /-- No translation of the page is cached: the module asks the host for one (R371). -/
  | miss (r : AtsReq)
  | remote (module : BitVec 13) (rid : BitVec 24) (off : Nat)
deriving DecidableEq, Repr

/-- A key of unpublished stores: object and offset. -/
def cellKey (obj off : Nat) : Nat := obj * 2 ^ 64 + off

/-- A key of fetched bytes of another module's object. -/
def remoteKey (module : BitVec 13) (rid : BitVec 24) (off : Nat) : Nat := (module.toNat * 2 ^ 24 + rid.toNat) * 2 ^ 64 + off

/-- An HDM decoder's mapping (spec/16 R390). -/
def Decoder.map (d : Decoder) (h : Nat) : Option Nat :=
  if d.base ≤ h ∧ h < d.base + d.len then
    let o := h - d.base
    let n := d.targets.length
    if n = 0 then none
    else some (dieBase (d.targets.getD (o / 4096 % n) 0) + d.dbase + 4096 * (o / (4096 * n)) + o % 4096)
  else none

/-- The device address of a host address, through the first decoder that covers it. -/
def HostPort.hdm (p : HostPort) (h : Nat) : Option Nat := p.decoders.findSome? fun d => d.map h

def Mod.port (m : Mod) (p : Nat) : HostPort := vat HostPort.reset m.ports p
def Mod.die (m : Mod) (d : Nat) : Die := vat Die.reset m.dies d
def Mod.setDie (m : Mod) (d : Nat) (f : Die → Die) : Mod := { m with dies := vmod m.dies d f }
def Mod.setPort (m : Mod) (p : Nat) (f : HostPort → HostPort) : Mod := { m with ports := vmod m.ports p f }

/-- A byte of memory that a device-side physical address names. -/
def Mod.byte (m : Mod) (a : Nat) : Byte := Memory.read m.mem a

/-- The HBM4 stack that holds a byte of a die (Table 17-2): each Crievo die has a second stack above its first. -/
def stackOf (a : Nat) : Nat :=
  let die := a / 2 ^ 48
  if 8 ≤ die ∧ stackBytes ≤ a % 2 ^ 48 then die + 2 else die

/-- The stack is ready (R422, R423). -/
def Mod.stackReady (m : Mod) (a : Nat) : Bool := decide (hostBase ≤ a) || m.rdy.getLsbD (11 + stackOf a)

/-- n little-endian bytes of physical memory as a number. -/
def Mod.word (m : Mod) (a n : Nat) : Nat := leNat (Memory.bytes m.mem a n)

/-- Bytes of the table object of a partition; its pinned entry is contiguous (R364). Poisoned bytes are no data (R388). -/
def Mod.tableWord (m : Mod) (part off n : Nat) : Option Nat :=
  match tfind part m.tables with
  | none => none
  | some e =>
    let a := dieBase (entDie e) + entBase e + off
    if entValid e && entType e == 1 && !entPaged e && decide (off + n ≤ entLen e) && !(upTo n).any fun i => m.poison.contains ((a + i) / 128)
    then some (m.word a n) else none

/-- Lookup (R365): the walk of the object tables; none is a protection fault with sub 1. -/
def Mod.walk (m : Mod) (id : Nat) : Option Entry :=
  let part := id / 2 ^ 21
  if id % 2 ^ 21 = 0 then none
  else if id % 2 ^ 21 = 1 then tfind part m.tables
  else
    match m.tableWord part (8 * (id / 2 ^ 12 % 2 ^ 9)) 8 with
    | none => none
    | some d =>
      if d % 2 = 0 then none
      else
        match m.tableWord part (d / 2 ^ 17 * 2 ^ 17 + 32 * (id % 2 ^ 12)) 32 with
        | none => none
        | some e => if entValid (BitVec.ofNat 256 e) then some (BitVec.ofNat 256 e) else none

/-- The entry a port uses: the cached one, otherwise the walk (R369). One cache stands for those of all ports and cores (log 77). -/
def Mod.entry (m : Mod) (id : Nat) : Option Entry :=
  match tfind id m.entries with
  | some e => some e
  | none => m.walk id

/-- R368 over n bytes at object offset off: the sub-code of the protection fault. `cap`: the rights the capability shows. -/
def Mod.protect (m : Mod) (id : Nat) (off : Int) (n : Nat) (need cap : BitVec 6) (part : Nat) (sv : Bool) : Option Nat :=
  match m.entry id with
  | none => some 1
  | some e =>
    if !entValid e then some 1
    else if !(entPmask e).testBit part then some 4
    else if !(entUsr e || (sv && entSv e)) then some 4
    else if !hasRights (entRights e) need then some 2
    else if entType e = 3 ∧ ¬(hasRights (entRights e) rFab ∧ hasRights cap rFab) then some 2
    else if (entLen e : Int) < off + n then some 3
    else none

/-- The translation that serves a host virtual address with the permission needed (R371). -/
def Mod.xlate (m : Mod) (port : Nat) (pasid : Option (BitVec 20)) (va : Nat) (write : Bool) : Option Nat :=
  m.xlates.findSome? fun t =>
    if t.port = port ∧ t.pasid = pasid ∧ t.va ≤ va ∧ va < t.va + t.size ∧ (if write then t.wr else t.rd) then some (t.pa + (va - t.va))
    else none

/-- The host has answered for the page, with or without permissions (R371). -/
def Mod.answered (m : Mod) (port : Nat) (pasid : Option (BitVec 20)) (va : Nat) : Bool :=
  m.xlates.any fun t => t.port = port && t.pasid = pasid && decide (t.va ≤ va) && decide (va < t.va + t.size)

/-- The PASID that a host-shared object's requests carry. -/
def entPid (e : Entry) : Option (BitVec 20) := if entPv e then some (entPasid e) else none

/-- A port carries more than configuration accesses and the register and management windows (spec/16 R392). -/
def Mod.portOpen (m : Mod) (p : Nat) : Bool := !m.idereq || (m.port p).ide

/-- A port carries CXL.cache and CXL.mem: its link is in flit mode (spec/16 R389, spec/17 R422). -/
def Mod.portCxl (m : Mod) (p : Nat) : Bool := m.portOpen p && m.rdy.getLsbD (23 + p)

/-- A port takes no page request: stopped (spec/15 R372), or it carries no device request (log 71). -/
def Mod.noRequests (m : Mod) (p : Nat) : Bool := (m.port p).stopped || !m.portCxl p

/-- Where a byte of an object lies (R366, R370 to R372, R423). -/
def Mod.place (m : Mod) (id : Nat) (e : Entry) (off : Nat) (write : Bool) : Place :=
  if entType e = 1 then
    let p :=
      if entPaged e then
        match m.tableWord (id / 2 ^ 21) (entBase e + 8 * (off / 2 ^ 21)) 8 with
        | none => none
        | some w =>
          if w % 2 = 1 ∧ w / 2 % 8 = 0 ∧ w / 2 ^ 4 % 16 < 10 ∧ w / 2 ^ 8 % 2 ^ 13 = 0 ∧ w / 2 ^ 48 = 0 ∧
              (w / 2 ^ 21 % 2 ^ 27 + 1) * 2 ^ 21 ≤ stackBytes
          then some (dieBase (w / 2 ^ 4 % 16) + w / 2 ^ 21 % 2 ^ 27 * 2 ^ 21 + off % 2 ^ 21) else none
      else some (dieBase (entDie e) + entBase e + off)
    match p with
    | some a => if m.stackReady a then .phys a else .absent
    | none => .absent
  else if entType e = 2 then
    let va := entBase e + off
    match m.xlate (entHp e) (entPid e) va write with
    | some pa =>
      match (m.port (entHp e)).hdm pa with
      | some a => if m.stackReady a then .phys a else .absent
      | none => if m.portCxl (entHp e) then .phys (hostBase + pa) else .absent
    | none => if m.answered (entHp e) (entPid e) va ∨ !m.portOpen (entHp e) then .absent else .miss ⟨entHp e, (entPid e), va / 4096, none⟩
  else .remote (entModule e) (entRid e) off

/-- Send translation requests that are not yet outstanding (R371). -/
def Mod.askAts (m : Mod) (rs : List AtsReq) : Mod :=
  { m with atsReqs := rs.foldl (fun t r => if t.any fun x => x.port = r.port ∧ x.pasid = r.pasid ∧ x.page = r.page then t else t ++ [r]) m.atsReqs }

/-- A page number that names a page of an object in page requests (4 KiB). -/
def pageOf (off : Nat) : Nat := off / 4096

/-! ### Domain-protected lines (spec/16 R403 to R405) -/

/-- The object as which an access writes domain-protected lines: type-2 objects lie in host memory as plaintext. -/
def dpOf (obj : Nat) (e : Entry) : Option Nat := if entDp e ∧ entType e = 1 then some obj else none

/-- The tweak value of a line (R403). -/
def tweakOf (mo : BitVec 13) (obj line : Nat) (epoch : BitVec 2) : BitVec 128 :=
  BitVec.ofNat 128 (line % 2 ^ 34 + obj % 2 ^ 24 * 2 ^ 34 + mo.toNat * 2 ^ 58 + epoch.toNat * 2 ^ 71)

/-- The ciphertext blocks of a line at physical line l, under its epoch's keys. -/
def Mod.cipherBlocks (m : Mod) (l : Nat) (d : DomLine) : List (BitVec 128) :=
  match tfind d.epoch.toNat m.dom.keys with
  | none => []
  | some k => (upTo 32).map fun j => Config.xts k.k1 k.k2 (tweakOf m.addr d.obj d.line d.epoch) j (BitVec.ofNat 128 (m.word (512 * l + 16 * j) 16))

/-- The bytes of a protected line as they lie in HBM4. -/
def Mod.cipherLine (m : Mod) (l : Nat) (d : DomLine) : List Byte := d.bare.getD ((m.cipherBlocks l d).flatMap fun b => leBytes 16 b.toNat)

/-- The tag of a line (R405). -/
def Mod.lineTag (m : Mod) (l : Nat) (d : DomLine) : BitVec 64 :=
  match tfind d.epoch.toNat m.dom.keys with
  | none => 0
  | some k => Config.gmac k.k3 (m.cipherBlocks l d ++ [tweakOf m.addr d.obj d.line d.epoch])

/-- The object offset of a physical byte of a type-1 object. -/
def Mod.offsetAt (m : Mod) (obj a : Nat) : Nat :=
  match m.entry obj with
  | none => 0
  | some e =>
    if entPaged e then
      ((upTo ((entLen e + 2 ^ 21 - 1) / 2 ^ 21)).find? fun i => m.place obj e (i * 2 ^ 21) false = .phys (a / 2 ^ 21 * 2 ^ 21)).getD 0 * 2 ^ 21 + a % 2 ^ 21
    else a - (dieBase (entDie e) + entBase e)

/-- A line of an object as encrypted and tagged under the current epoch. -/
def Mod.seal (m : Mod) (l obj line : Nat) : DomLine :=
  let d : DomLine := ⟨m.dom.epoch, obj, line, 0, none⟩
  { d with tag := m.lineTag l d }

/-- The key of a protected line is held and its check passes (R404, R405); a line that no member has written yet is readable until a
fence (R414). -/
def Mod.lineReadable (m : Mod) (a : Nat) : Bool :=
  match tfind (a / 512) m.dom.lines with
  | some d => d.bare.isNone && (tfind d.epoch.toNat m.dom.keys).isSome
  | none => m.dom.state ≠ .fenced

/-- A byte that an access beside the domain reads where the domain's key shows b. -/
def Mod.outer (m : Mod) (dp : Bool) (a : Nat) (b : Byte) : Byte :=
  if dp then b
  else match tfind (a / 512) m.dom.lines with
    | some d => (m.cipherLine (a / 512) d).getD (a % 512) 0
    | none => b

/-- The protected lines after a write of cells by an access to an object (none: beside the domain), before it; `m1` has the cells. A
line written beside the domain keeps its tag, which no longer fits it. -/
def Mod.linesAfter (m m1 : Mod) (dp : Option Nat) (cells : List Host.Cell) : Tab DomLine :=
  let touched := cells.foldl (fun t c => if c.1 < hostBase then sins (c.1 / 512) t else t) []
  match dp with
  | none => touched.foldl (fun t l => match tfind l t with
    | none => t
    | some d => tset l { d with bare := some ((m.cipherLine l d).mapIdx fun i b => ((cells.reverse.find? (·.1 = 512 * l + i)).map (·.2)).getD b) } t) m.dom.lines
  | some obj =>
    if (tfind m.dom.epoch.toNat m.dom.keys).isNone then m.dom.lines
    else touched.foldl (fun t l => tset l (m1.seal l obj (m.offsetAt obj (512 * l) / 512)) t) m.dom.lines

/-- Sectors that the check of a protected line finds bad when cells of it are written: its four (R405). -/
def Mod.brokenSectors (m : Mod) (dp : Option Nat) (cells : List Host.Cell) : List Nat :=
  if dp.isNone ∨ m.dom.lines = [] then []
  else (cells.filter fun c => (tfind (c.1 / 512) m.dom.lines).any (·.bare.isSome)).flatMap fun c => (upTo 4).map (4 * (c.1 / 512) + ·)

/-- A physical byte is poisoned, or its protected line cannot be read (R384, R404). -/
def Mod.poisoned (m : Mod) (dp : Bool) (a : Nat) : Bool :=
  m.poison.contains (a / 128) || (dp && decide (a < hostBase) && !m.lineReadable a)

/-- Poison after a write of the listed addresses, of which `bad` are poisoned (R384): a granule wholly written by clean
bytes is clean, a granule that receives a poisoned byte is poisoned. -/
def poisonAfter (size : Nat) (old : List Nat) (addrs bad : List Nat) : List Nat :=
  let grans := addrs.foldl (fun t a => sins (a / size) t) []
  grans.foldl (fun acc g =>
    let mine := (addrs.filter (· / size = g)).foldl (fun t a => sins a t) []
    if bad.any (· / size = g) then sins g acc
    else if mine.length = size then sdel g acc else acc) old

/-- Write physical bytes, which every party sees from then on: memory, poison, and the protected lines (R384, R405, R413); dp: the
domain-protected object written. -/
def Mod.writeBytes (m : Mod) (dp : Option Nat) (cells : List Host.Cell) (bad : List Nat) : Mod :=
  { m with
    mem := Memory.store m.mem cells
    pubs := m.pubs.filter fun e => !cells.any (·.1 = e.1)
    poison := poisonAfter 128 ((m.brokenSectors dp cells).foldl (fun t x => sins x t) m.poison) (cells.map (·.1)) bad
    dom := if dp.isNone ∧ m.dom.lines = [] then m.dom
      else { m.dom with lines := m.linesAfter { m with mem := Memory.store m.mem cells } dp cells } }

/-! ### Published stores (spec/04 R103 to R108, R116, R131) -/

/-- Two places lie in one instance of a scope (spec/00 Table 00-2, Table 04-1); the cores of a logical cluster stay together when
a launch moves (spec/01 R14). -/
def PubSource.within (a b : PubSource) : Scope → Bool
  | .ctx => a.launch == b.launch && a.lcore == b.lcore && a.ctx == b.ctx
  | .core => a.launch == b.launch && a.lcore == b.lcore
  | .cl => (a.launch == b.launch && a.lcl == b.lcl) || a.core / 8 == b.core / 8
  | .die => (a.launch == b.launch && a.lcl == b.lcl) || a.core / 64 == b.core / 64
  | .mod | .dom => true

/-- A refresh at scope t by the context b must include the store (R103): it was published at a scope whose instance contains b,
by a party in b's instance of t. -/
def Pub.due (p : Pub) (b : PubSource) (t : Scope) : Bool :=
  match p.src, p.scope with
  | .every, _ => true
  | .host, _ => t == .mod || t == .dom
  | .ctx a, some sc => a.within b sc && a.within b t
  | .ctx _, none => false

/-- Whether the context b may see the store at all: it is published, or its own (R116). -/
def Pub.shown (p : Pub) (b : Option PubSource) : Bool :=
  match p.src, p.scope with
  | .ctx a, none => b.any fun c => a.within c .ctx
  | _, _ => true

/-- Stores of one party to bytes reach their home, published at a scope or only there (none); earlier stores stay known to the
parties that need not see these. -/
def Mod.publishCells (m : Mod) (dp : Option Nat) (src : PubBy) (sc : Option Scope) (cells : List Host.Cell) (bad : List Nat) : Mod :=
  let old := fun (a : Nat) => (tfind a m.pubs).getD [⟨m.byte a, .every, none, m.pubSeq + 1⟩]
  if cells = [] then m else { m.writeBytes dp cells bad with
    pubs := cells.foldl (fun t c => tset c.1 (⟨c.2, src, sc, m.pubSeq + 2⟩ :: old c.1) t) m.pubs
    pubSeq := m.pubSeq + 2 }

/-- What a context sent home for a strong access is published with its other stores (R116). -/
def Mod.widen (m : Mod) (b : PubSource) (sc : Scope) : Mod :=
  { m with pubs := m.pubs.map fun (e : Nat × List Pub) => (e.1, e.2.map fun p =>
      match p.src, p.scope with
      | .ctx a, none => if a.within b .ctx then { p with scope := some sc } else p
      | _, _ => p) }

/-- The latest store to a byte that a party may see: what engines, hosts and other modules read (R131; log 5). -/
def Mod.shown (m : Mod) (b : Option PubSource) (a : Nat) : Byte :=
  match tfind a m.pubs with
  | none => m.byte a
  | some l => ((l.find? (·.shown b)).map (·.val)).getD (m.byte a)

/-- The latest store to a byte that the context b may see and its snapshot, at publication n, does not hold yet (R105): its
number (0: every party sees the byte) and value. A host's store is none of them (spec/16 R390). -/
def Mod.later (m : Mod) (b : PubSource) (n a : Nat) : Option (Nat × Byte) :=
  match tfind a m.pubs with
  | none => some (0, m.byte a)
  | some l => (l.find? fun p => p.shown (some b) && p.src ≠ .host && decide (n < p.seq)).map fun p => (p.seq, p.val)

/-- The store to a byte that a refresh takes (R103, R108): the latest that it must include, or that the context's view holds, or
a later one where the choice is open. -/
def Mod.taken (m : Mod) (b : PubSource) (t : Scope) (n a : Nat) (l : List Pub) : Option Pub :=
  l.find? fun p => decide (p.seq ≤ n) || (p.shown (some b) && (p.due b t || (p.src ≠ .host && Config.refreshTakes m.tick a p.seq)))

/-- A context's view of memory after a refresh at scope t (R103): the published memory, but for bytes of which the refresh takes
an earlier store; fetched bytes are dropped. -/
def Ctx.refreshed (c : Ctx) (m : Mod) (b : PubSource) (t : Scope) : Ctx :=
  let got := m.pubs.filterMap fun (e : Nat × List Pub) => (m.taken b t (tget 0 e.1 c.seen) e.1 e.2).map fun p => (e.1, p)
  { c with
    snap := Memory.store m.mem (got.map fun g => (g.1, g.2.val))
    seen := got.map fun g => (g.1, g.2.seq)
    l1 := [], rcache := [] }

/-- The clean bytes of a context at some physical addresses leave its L1 data cache: its loads find there what has reached their
homes (spec/15 R369, R374). -/
def Ctx.reread (c : Ctx) (m : Mod) (b : PubSource) (which : Nat → Bool) : Ctx :=
  let at' := (c.snap.map (·.1) ++ m.mem.map (·.1) ++ m.pubs.map (·.1)).filter which
  { c with
    snap := Memory.store c.snap (at'.map fun a => (a, m.shown (some b) a))
    seen := (m.pubs.filter fun (e : Nat × List Pub) => which e.1).foldl (fun t (e : Nat × List Pub) =>
      match e.2.find? (·.shown (some b)) with | some p => tset e.1 p.seq t | none => t) c.seen }

end Sys2Proof.Machine
end

