-- ==== Sys2Proof/Machine/Records.lean ====
section
/-! DEFINITION. Completion records and event rings (spec/13 R337 to R339), the error log (spec/15 R387), and the
scheduler page (spec/14 R340, R341). -/

namespace Sys2Proof.Machine

/-! ### Event rings -/

def Mod.ring (m : Mod) (r : Nat) : Ring := tget Ring.reset r m.rings
def Mod.setRing (m : Mod) (r : Nat) (f : Ring → Ring) : Mod := { m with rings := tmod Ring.reset r f m.rings }

/-- Entries of a ring (Table 13-8). -/
def Ring.entries (r : Ring) : Nat := 2 ^ (r.size.toNat + 4)

/-- A ring word as a device-side physical address: the ring lies in the process that its PASID names. -/
def Mod.ringAddr (m : Mod) (r : Ring) (off : Nat) : Option Nat :=
  let p := if r.port then 1 else 0
  match m.xlate p (if r.pv then some r.pasid else none) (r.base.toNat + off) true with
  | none => none
  | some pa => some (((m.port p).hdm pa).getD (hostBase + pa))

/-- A record for the ring waits on a translation of its next entry, which the module asks for (spec/15 R371). -/
def Mod.ringAsk (m : Mod) (r : Nat) : Mod :=
  let x := m.ring r
  let p := if x.port then 1 else 0
  let pid := if x.pv then some x.pasid else none
  let va := x.base.toNat + 32 * (x.tail.toNat % x.entries)
  if x.en ∧ m.portOpen p ∧ !m.answered p pid va then m.askAts [⟨p, pid, va / 4096, none⟩] else m

/-- The ring has room, is enabled and its port writes records. -/
def Mod.ringOpen (m : Mod) (r : Nat) : Bool :=
  let x := m.ring r
  x.en && m.portOpen (if x.port then 1 else 0) && decide ((x.tail - x.head).toNat < x.entries) &&
    (m.ringAddr x (32 * (x.tail.toNat % x.entries))).isSome

/-- Raise the ring's interrupt when a condition of R339 holds and the port carries it (R392). -/
def Mod.interrupt (m : Mod) (r : Nat) : Mod :=
  let x := m.ring r
  if x.ien ∧ m.portOpen (if x.port then 1 else 0) ∧ x.pend ≠ 0 ∧ (max 1 x.ccount.toNat ≤ x.pend ∨ (x.ctime ≠ 0 ∧ x.oldest + x.ctime.toNat ≤ m.tick)) then
    let p := if x.port then 1 else 0
    (m.setRing r fun x => { x with pend := 0 }).setPort p fun q => { q with vectors := q.vectors ++ [(r, x.vec.toNat)] }
  else m

/-- Write a record into the ring: its bytes, then its phase (R337). -/
def Mod.ringWrite (m : Mod) (r : Nat) (rec : BitVec 256) : Mod :=
  let x := m.ring r
  match m.ringAddr x (32 * (x.tail.toNat % x.entries)) with
  | none => m
  | some a =>
    let ph := if x.tail.toNat / x.entries % 2 = 0 then 1 else 0
    let rec' := setFld rec 41 1 ph
    let m1 := m.writeBytes none ((leBytes 32 rec'.toNat).mapIdx fun i b => (a + i, b)) []
    (m1.setRing r fun y => { y with tail := y.tail + 1, pend := y.pend + 1, oldest := if y.pend = 0 then m.tick else y.oldest }).interrupt r

/-- Post a record: written in posting order, or kept in the pending list (R337). The tick is that of posting. -/
def Mod.post (m : Mod) (r : Nat) (rec : BitVec 256) : Mod :=
  let rec' := setFld rec 64 64 m.tick
  if m.ringOpen r && !m.pendRecs.any (·.1 = r) then m.ringWrite r rec'
  else ({ m with pendRecs := m.pendRecs ++ [(r, rec')] } : Mod).ringAsk r

/-- Whether the pending list of 4,096 records is full. -/
def Mod.pendFull (m : Mod) : Bool := decide (4096 ≤ m.pendRecs.length)

/-- A completion record of a launch (Table 13-10). -/
def completion (tag status left reason launch fcode fhandle : Nat) : BitVec 256 :=
  BitVec.ofNat 256 (tag % 2 ^ 32 + status * 2 ^ 32 + left * 2 ^ 40 + reason % 2 ^ 16 * 2 ^ 48 + launch % 2 ^ 32 * 2 ^ 128 +
    fcode % 2 ^ 32 * 2 ^ 160 + fhandle % 2 ^ 32 * 2 ^ 192)

/-! ### The error log -/

/-- An error record of Table 15-9 without its tick and sequence number. -/
def errorRecord (ekind die unit where' count location launch : Nat) : BitVec 256 :=
  BitVec.ofNat 256 (ekind + die * 2 ^ 8 + unit * 2 ^ 12 + where' % 2 ^ 16 * 2 ^ 16 + count % 2 ^ 32 * 2 ^ 32 +
    location % 2 ^ 64 * 2 ^ 128 + launch % 2 ^ 32 * 2 ^ 192)

/-- Write an error record; the oldest of 1,024 is overwritten. -/
def Mod.logError (m : Mod) (rec : BitVec 256) : Mod :=
  let rec' := setFld (setFld rec 64 64 m.tick) 224 32 m.logSeq
  let l := m.log ++ [rec']
  { m with log := if 1024 < l.length then l.drop 1 else l, logSeq := m.logSeq + 1 }

/-- Word w of the record with sequence number b, or all ones (R387). -/
def Mod.logWord (m : Mod) (w seq : Nat) : W64 :=
  match m.log.find? fun r => fld r 224 32 = seq % 2 ^ 32 with
  | some r => r.extractLsb' (64 * w) 64
  | none => BitVec.allOnes 64

/-! ### The scheduler page -/

/-- Physical address of a byte of the die's pool save area, with whether it is poisoned. -/
def Mod.areaAddr (m : Mod) (die off : Nat) (write : Bool) : Option (Nat × Bool) :=
  let c := (m.die die).psave
  if (checkCap c off 1 (if write then rSt else rLd)).isSome then none
  else match m.entry (capObject c) with
    | none => none
    | some e =>
      if !entValid e then none
      else match m.place (capObject c) e (capOffset c + off) write with
        | .phys a => some (a, m.poisoned (entDp e) a)
        | _ => none

/-- The same of a byte that can be read. -/
def Mod.saveAddr (m : Mod) (die off : Nat) (write : Bool) : Option Nat :=
  match m.areaAddr die off write with
  | some (a, false) => some a
  | _ => none

/-- A word of the scheduler page; none while psave is null or the page cannot be read (R340). -/
def Mod.pageWord (m : Mod) (die off n : Nat) : Option Nat :=
  match m.saveAddr die off false with
  | some a => some (m.word a n)
  | none => none

/-- The die's own write to the page, published at once (R340). -/
def Mod.pageWrite (m : Mod) (die off n v : Nat) : Mod :=
  match m.saveAddr die off true with
  | some a => m.writeBytes none ((leBytes n v).mapIdx fun i b => (a + i, b)) []
  | none => m

/-- A field of Table 14-1: its reset value when the page cannot be read or the field breaks its range. -/
def Mod.sched (m : Mod) (die off n lo hi reset : Nat) : Nat :=
  match m.pageWord die off n with
  | some v => if lo ≤ v ∧ v ≤ hi then v else reset
  | none => reset

def Mod.wlimit (m : Mod) (die : Nat) : Nat := m.sched die 0x000 4 0 (2 ^ 32) 6000000
def Mod.urgency (m : Mod) (die : Nat) : Nat := m.sched die 0x004 4 0 (2 ^ 32) 60000
def Mod.aging (m : Mod) (die c : Nat) : Nat :=
  if c = 0 then 0 else m.sched die (0x004 + 4 * c) 4 0 (2 ^ 32) 60000000
def Mod.preMask (m : Mod) (die : Nat) : Nat := ((m.pageWord die 0x014 1).getD 0) % 16
def Mod.ptime (m : Mod) (die : Nat) : Nat := m.sched die 0x018 4 0 (2 ^ 32) 600000
def Mod.drainLimit (m : Mod) (die : Nat) : Nat := m.sched die 0x01C 4 1 (2 ^ 32) 60000
/-- The duty cap of a class: bits [6:0] of its byte. -/
def Mod.dcap (m : Mod) (die c : Nat) : Nat :=
  match m.pageWord die (0x020 + c) 1 with
  | some v => if 1 ≤ v % 128 ∧ v % 128 ≤ 64 then v % 128 else 64
  | none => 64
def Mod.gmask (m : Mod) (die : Nat) : Nat := m.sched die 0x028 4 0 (2 ^ 32) 0
def Mod.overrunLimit (m : Mod) (die : Nat) : Nat := m.sched die 0x02C 4 0 (2 ^ 32) 6000000

/-- A save slot that is present starts at a multiple of 4 KiB from 0x1000 on (Table 14-1). -/
def slotRange (soff slen : Nat) : Bool := slen = 0 || (soff % 4096 = 0 && decide (0x1000 ≤ soff))

/-- A field of the page breaks its range (R340). -/
def Mod.pageBad (m : Mod) (die : Nat) : Bool :=
  (match m.pageWord die 0x01C 4 with | some v => decide (v = 0) | none => false) ||
  ([0, 1, 2, 3].any fun c => match m.pageWord die (0x020 + c) 1 with | some v => decide (v % 128 = 0 ∨ 64 < v % 128) | none => false) ||
  (upTo 16).any fun k => match m.pageWord die (0x100 + 16 * k) 8, m.pageWord die (0x108 + 16 * k) 4 with
    | some soff, some slen => !slotRange soff slen
    | _, _ => false

/-- Write the report words of the page (Table 14-1). -/
def Mod.report (m : Mod) (die : Nat) : Mod :=
  let m := m.setDie die fun d => { d with bad := d.bad || m.pageBad die }
  let d := m.die die
  (m.pageWrite die 0x200 8 (d.ceil + (if d.bad then 128 else 0) + d.parks.toNat * 2 ^ 32)).pageWrite die 0x208 8
    (d.overruns.toNat + d.wrefused.toNat * 2 ^ 32)

/-- A decision of the die's scheduler reads the page: a field out of range sets bad (R340). -/
def Mod.judgePage (m : Mod) (die : Nat) : Mod := if m.pageBad die ∧ !(m.die die).bad then m.report die else m

end Sys2Proof.Machine
end

