-- ==== Sys2Proof/Machine/Launches.lean ====
section
/-! DEFINITION. Launches as the machine holds them: the fields of the partition word (spec/02 R42), the cores and contexts
reached by number whether or not they are in the issue stage, publishing and refreshing, answers that land late, and the
end of a launch (spec/13 R325, spec/15 R379). -/

namespace Sys2Proof.Machine

/-! ### Fields of a launch -/

def LaunchRec.gReg (r : LaunchRec) : Nat := fld r.pword 0 8
def LaunchRec.gAcc (r : LaunchRec) : Nat := fld r.pword 8 8
def LaunchRec.gSp (r : LaunchRec) : Nat := fld r.pword 16 8

/-- A launch with nothing in it: what a core that holds no launch shows. -/
def Launch.none : Launch :=
  { record := ⟨0, 0, false, 0, Option.none, false, 0, 0, 0, 0, 0, 0, 0⟩
    img := ⟨0, 0, 0, 0, [], Vector.replicate 32 0, []⟩, die := 0, state := .running, asked := false, source := .lctl, parkTick := 0
    parkOrder := 0, tier := 0, accepted := 0, cores := [], clusters := [], faults := 0, noted := false, fcode := 0, fhandle := 0
    left := false, slot := Option.none, images := [], waiters := [] }

def Mod.launch (m : Mod) (id : W32) : Launch := (tfind id.toNat m.launches).getD Launch.none
def Mod.setLaunch (m : Mod) (id : W32) (f : Launch → Launch) : Mod := { m with launches := tadj id.toNat f m.launches }

/-- Launch cores in the issuing core's logical cluster (spec/02 R52). -/
def LaunchRec.clusterCores (r : LaunchRec) : Nat := if r.n < 8 then r.n else 8

/-! ### Cores and contexts by number -/

/-- The issue stage holds core c. -/
def Mach.holds (m : Mach) (c : Nat) : Bool := m.core.launch.isSome && m.cid == c

/-- The core in the issue stage with its issuing context put back. -/
def Mach.whole (m : Mach) : Core := { m.core with ctxs := lset m.core.ctxs m.xid m.ctx }

/-- A core by number. -/
def Mach.coreAt (m : Mach) (c : Nat) : Core := if m.holds c then m.whole else tget Core.idle c m.mod.cores

/-- Put a core back by number. -/
def Mach.putCore (m : Mach) (c : Nat) (x : Core) : Mach :=
  if m.holds c then { m with core := x, ctx := x.ctxs.getD m.xid m.ctx }
  else { m with mod := { m.mod with cores := tput Core.idle c x m.mod.cores } }

def Mach.onCore (m : Mach) (c : Nat) (f : Core → Core) : Mach := m.putCore c (f (m.coreAt c))

def Mach.ctxAt (m : Mach) (c x : Nat) : Ctx := (m.coreAt c).ctxs.getD x Ctx.idle

def Mach.onCtx (m : Mach) (c x : Nat) (f : Ctx → Ctx) : Mach :=
  m.onCore c fun k => { k with ctxs := lmod k.ctxs x f }

/-- Physical cores of a launch with their contents. -/
def Mach.launchCores (m : Mach) (id : W32) : List (Nat × Core) :=
  ((m.mod.launch id).cores.map fun c => (c, m.coreAt c)).filter fun e => e.2.launch = some id

/-- Load core c and context x into the issue stage. -/
def Mach.load (m : Mach) (c x : Nat) : Mach :=
  let k := tget Core.idle c m.mod.cores
  { m with core := k, ctx := k.ctxs.getD x Ctx.idle, cid := c, xid := x }

/-- Put the issue stage back and leave it empty. -/
def Mach.unload (m : Mach) : Mach :=
  if m.core.launch.isSome then
    { m with mod := { m.mod with cores := tput Core.idle m.cid m.whole m.mod.cores }, core := Core.idle, ctx := Ctx.idle, cid := 0, xid := 0 }
  else { m with core := Core.idle, ctx := Ctx.idle, cid := 0, xid := 0 }

/-- Where context x of a core issues from, the core being physical core c. -/
def Mod.source (m : Mod) (c : Nat) (k : Core) (x : Nat) : PubSource :=
  let id := k.launch.getD 0
  ⟨id.toNat, k.lcore, if (m.launch id).record.n < 8 then 0 else k.lcore / 8, x, c⟩

/-- Where a context of a core on the module, and the context in the issue stage, issue from. -/
def Mach.sourceAt (m : Mach) (c x : Nat) : PubSource := m.mod.source c (m.coreAt c) x
def Mach.self (m : Mach) : PubSource := m.mod.source m.cid m.core m.xid

/-- The party's place in the order of R129: host ports 0 and 1, engine operations, then contexts by logical core and number. -/
def hostRank (port : Nat) : Nat := port
def engineRank : Nat := 2
def Mach.selfRank (m : Mach) : Nat := 3 + 8 * m.core.lcore + m.xid

/-- Update every context of the module, given where it issues from: those in the issue stage, on cores and in saved launches,
which are on no core. -/
def Mach.everyCtxAt (m : Mach) (f : PubSource → Ctx → Ctx) : Mach :=
  let u := m.unload
  let every := fun (c : Nat) (k : Core) => { k with ctxs := k.ctxs.mapIdx fun x y => f (u.mod.source c k x) y }
  let u' : Mach := { u with mod := { u.mod with
    cores := u.mod.cores.map fun (e : Nat × Core) => (e.1, every e.1 e.2)
    launches := u.mod.launches.map fun (e : Nat × Launch) => (e.1, { e.2 with images := e.2.images.map (every (2 ^ 20 * (e.1 + 1))) }) } }
  if m.core.launch.isSome then u'.load m.cid m.xid else u'

def Mach.everyCtx (m : Mach) (f : Ctx → Ctx) : Mach := m.everyCtxAt fun _ => f

/-- A core of a launch by a number that outlives moves to other physical cores (spec/01 R14): launch id × 512 + logical index. -/
def Mach.memberOf (m : Mach) (c : Nat) : Nat := ((m.coreAt c).launch.getD 0).toNat * 512 + (m.coreAt c).lcore

/-- Update a context of such a core, wherever its launch is. -/
def Mach.onMember (m : Mach) (k x : Nat) (f : Ctx → Ctx) : Mach :=
  match tfind (k / 512) m.mod.launches with
  | none => m
  | some l =>
    if l.images ≠ [] then
      { m with mod := m.mod.setLaunch (BitVec.ofNat 32 (k / 512)) fun l =>
          { l with images := lmod l.images (k % 512) fun y => { y with ctxs := lmod y.ctxs x f } } }
    else match l.cores[k % 512]? with
      | some c => m.onCtx c x f
      | none => m

/-- The context has no scratchpad write on its way to another core (R109). -/
def Mach.remoteQuiet (m : Mach) : Bool :=
  (m.mod.launch (m.core.launch.getD 0)).cores.all fun c =>
    (m.coreAt c).reqs.all fun r => !(r.core = m.cid && r.ctx = m.xid && (match r.act with | .read .. => false | _ => true))

/-- Everything that the context has written is at its home (spec/04 R109). -/
def Mach.settled (m : Mach) : Bool :=
  m.ctx.unpub = [] && m.remoteQuiet && !m.ctx.pending.any fun p => match p with | .acks _ => true | _ => false

/-! ### Registers and windows of a context -/

/-- The latch of a slot, as 2048 bits. -/
def Bank.lat (b : Bank) (slot : Nat) : VecReg :=
  match slot with
  | 0 => b.latS0.setWidth 2048
  | 1 => b.latS1.setWidth 2048
  | 2 => b.latV0
  | 3 => b.latV1
  | 4 => b.latM
  | 5 => b.latX
  | _ => b.latC.setWidth 2048

def Bank.setLat (b : Bank) (slot : Nat) (v : VecReg) : Bank :=
  match slot with
  | 0 => { b with latS0 := v.setWidth 64 }
  | 1 => { b with latS1 := v.setWidth 64 }
  | 2 => { b with latV0 := v }
  | 3 => { b with latV1 := v }
  | 4 => { b with latM := v }
  | 5 => { b with latX := v }
  | _ => { b with latC := v.setWidth 64 }

/-- The width of a slot's latch (spec/02 R45). -/
def latWidth (slot : Nat) : Nat := if slot = 0 ∨ slot = 1 ∨ slot = 6 then 64 else 2048

/-- Write a register or latch; p0 keeps all ones (spec/01 Table 01-2). -/
def Bank.write (b : Bank) (r : WReg) (v : VecReg) : Bank :=
  match r with
  | .s n => { b with s := b.s.set n (v.setWidth 64) }
  | .a n => { b with a := b.a.set n (v.setWidth 128) }
  | .v n => { b with v := b.v.set n v }
  | .p n => if n.val = 0 then b else { b with p := b.p.set n (v.setWidth 128) }
  | .sh n => { b with sh := b.sh.set n (v.setWidth 512) }
  | .lat k => b.setLat k v
  | .link => { b with link := v.setWidth 64 }
  | .lrc => { b with lrc := v.setWidth 16 }

/-- Reads of r give Undefined() at this tick (spec/05 R146). -/
def Ctx.open (c : Ctx) (tick : Nat) (r : WReg) : Bool :=
  c.windows.any fun w => w.reg = r && (match w.until' with | none => true | some u => decide (tick < u))

/-- p0, which reads all ones at all times and ignores writes (spec/01 Table 01-2, spec/02 R69). -/
def WReg.fixed (r : WReg) : Bool := match r with | .p n => n.val == 0 | _ => false

/-- Open a window of r for a write issued now with bound l: a request still to land (req) is superseded by a later write. A
write that is ignored opens none. -/
def Ctx.opened (c : Ctx) (tick l : Nat) (r : WReg) (req : Option Nat) : Ctx :=
  if r.fixed then c else
  let kept := (c.windows.filter fun w => !(w.reg = r && w.until'.isNone)).map fun w =>
    if w.reg = r then { w with req := none } else w
  let live := kept.filter fun w => w.req.isSome || (match w.until' with | none => true | some u => decide (tick < u))
  { c with
    windows := if 1 < l ∨ req.isSome then live ++ [⟨r, some (tick + l), req⟩] else live
    poison := c.poison.filter (· ≠ r) }

/-- WriteDest of one register (spec/05 R146): the value stands when the window closes. -/
def Ctx.put (c : Ctx) (tick l : Nat) (r : WReg) (v : VecReg) : Ctx :=
  { (c.opened tick l r none) with bank := c.bank.write r v }

/-- A late answer lands in every register that still waits for it. -/
def Ctx.land (c : Ctx) (req : Nat) (f : WReg → VecReg) : Ctx :=
  let mine := c.windows.filter fun w => w.req = some req
  { c with
    bank := mine.foldl (fun b w => b.write w.reg (f w.reg)) c.bank
    windows := c.windows.map fun w => if w.req = some req then { w with req := none } else w }

/-- Every operation of the context has landed (spec/05 R148). -/
def Core.landed (k : Core) (x : Nat) (c : Ctx) : Bool :=
  c.windows.all (fun w => w.req.isNone) && k.meq.all fun o => !(o.ctx = x && o.lands)

/-- Close every window but those of registers never written. -/
def Ctx.settle (c : Ctx) : Ctx := { c with windows := c.windows.filter fun w => w.until'.isNone }

/-! ### Status (spec/02 Table 02-3) -/

def statusHeld : Nat := 32
def statusEffect : Nat := 33
def statusKilled : Nat := 34
def statusFault : Nat := 35
def statusOvtrap : Nat := 36

def Bank.flag (b : Bank) (i : Nat) : Bool := b.status.getLsbD i
def Bank.setFlag (b : Bank) (i : Nat) (v : Bool) : Bank := { b with status := setFld b.status i 1 (if v then 1 else 0) }
def Bank.handle (b : Bank) : W32 := b.status.extractLsb' 0 32

/-- Drop the current task: handle, held and effect (spec/01 R33). -/
def Bank.dropTask (b : Bank) : Bank := { b with status := setFld b.status 0 34 0, task := 0 }

/-- The bank whose status holds the task: the user bank. -/
def Ctx.user (c : Ctx) : Bank := c.saved.getD c.bank
def Ctx.onUser (c : Ctx) (f : Bank → Bank) : Ctx :=
  match c.saved with
  | some b => { c with saved := some (f b) }
  | none => { c with bank := f c.bank }

/-- Set the effect bit of a held task (spec/01 R32). -/
def Bank.setEffect (b : Bank) : Bank := if b.flag statusHeld then b.setFlag statusEffect true else b
/-- An effect of the context on the task it holds, which stands in its user bank (log 18). -/
def Ctx.setEffect (c : Ctx) : Ctx := c.onUser Bank.setEffect

/-- Restart at a code offset: lrc 0, loop state empty, no pending branch (spec/01 R34, R35). -/
def Bank.restart (b : Bank) (pc : Nat) : Bank :=
  { b with pc := BitVec.ofNat 64 pc, lrc := 0, depth := 0, loops := Vector.replicate 4 ⟨0, 0, false, 0⟩, delay := 0, target := 0 }

/-! ### The end of a launch -/

/-- The object that an engine operation writes. -/
def EngOp.target (o : EngOp) : Nat :=
  match o.body with
  | .move _ dst .. => capObject dst.cap
  | _ => 0

/-- The global bytes that an engine operation has written are published (spec/04 R125, spec/09 R257). -/
def Mod.flushOp (m : Mod) (o : EngOp) : Mod :=
  if o.gw = [] then m else m.writeBytes ((m.entry o.target).bind (dpOf o.target)) o.gw []

/-- Global bytes that the contexts' engine operations have written stand (spec/09 R257). -/
def Mod.flushEngines (m : Mod) (ctxs : List Ctx) : Mod := ctxs.foldl (fun m c => c.engine.foldl Mod.flushOp m) m

/-- A context leaves the poppers of every queue (spec/01 R29); what was held for it passes on. -/
def Die.dropPopper (d : Die) (core : Nat) (x : Option Nat) : Die :=
  { d with wq := d.wq.map fun (e : Nat × WorkQueue) =>
      let ps := e.2.poppers.filter fun p => !(p.core = core && (x.isNone || x = some p.ctx))
      (e.1, { e.2 with poppers := ps, reserved := min e.2.reserved ps.length }) }

def Mod.dropPoppers (m : Mod) (core : Nat) (x : Option Nat) : Mod :=
  { m with dies := m.dies.map fun d => d.dropPopper core x }

/-- Whether a wait ends with the answer of a request. -/
def Pending.asks (req : Nat) : Pending → Bool
  | .monitor r => r = req
  | .park _ r _ => r = req
  | .joinReply r _ _ => r = req
  | .remote r _ _ => r = req
  | _ => false

/-- An answer to a context that may be in the issue stage or not: it lands and the wait ends; an acquire refreshes at its scope. -/
def Mach.answer (m : Mach) (c x req : Nat) (v : VecReg) : Mach :=
  m.onCtx c x fun k =>
    let acq := k.pending.findSome? fun p => match p with | .remote r _ y => if r = req ∧ y.acq then some y.scope else none | _ => none
    let k1 := k.land req fun _ => v
    let k2 := { k1 with pending := k1.pending.filter (fun p => !p.asks req), savedPend := k1.savedPend.filter fun p => !p.asks req }
    match acq with
    | some t => k2.refreshed m.mod (m.sourceAt c x) t
    | none => k2

/-- A core's supervisor bank stays with the physical core: what the context that holds it has in it (spec/13 R317). -/
def Core.keptBank (k : Core) (c : Nat) (t : Tab Bank) : Tab Bank :=
  match k.svHolder with
  | some x => match k.ctxs[x]? with
    | some y => if y.saved.isSome then tput Bank.zero c y.bank t else t
    | none => t
  | none => t

/-- A launch ends on every core at once with a completion status (spec/13 R325, spec/15 R379 act 3): its contexts issue
nothing more, parked engine operations are dropped, the record is posted, its cores and save slot are free. -/
def Mach.endLaunch (m : Mach) (id : W32) (status : Nat) : Mach :=
  match tfind id.toNat m.mod.launches with
  | none => m
  | some l =>
    let ks := m.launchCores id
    let left := l.left || (ks.map (·.2) ++ l.images).any fun k => k.left || k.queues.toList.any (· ≠ [])
    let m0 := ks.foldl (fun mo e => (mo.flushEngines e.2.ctxs).dropPoppers e.1 none) m.mod
    let rcd := completion l.record.tag.toNat status (if left then 1 else 0) (if status = 2 then min l.faults 65535 else 0)
      id.toNat l.fcode.toNat l.fhandle.toNat
    let m1 := { m0 with
      launches := (tdel id.toNat m0.launches).map fun (e : Nat × Launch) =>
        (e.1, { e.2 with waiters := e.2.waiters.filter fun (w : Nat × Nat × Nat) => !ks.any fun k => k.1 = w.1 })
      cores := ks.foldl (fun t (e : Nat × Core) => tdel e.1 t) m0.cores
      svBanks := ks.foldl (fun t (e : Nat × Core) => e.2.keptBank e.1 t) m0.svBanks
      mail := m0.mail.filter fun r => !ks.any (·.1 = r.core)
      takes := m0.takes.filter fun r => !ks.any (·.1 = r.core)
      dies := vmod m0.dies l.die fun d => { d with cands := d.cands.filter (·.parked ≠ some id) } }
    let m2 := match l.slot with
      | some sl => m1.pageWrite (sl / 16) (0x100 + 16 * (sl % 16) + 12) 4 0
      | none => m1
    let m3 := m2.post l.record.ring rcd
    let mine := ks.any fun e => m.holds e.1
    let m4 : Mach := if mine then { m with mod := m3, core := Core.idle, ctx := Ctx.idle } else { m with mod := m3 }
    l.waiters.foldl (fun (mm : Mach) w => mm.answer w.1 w.2.1 w.2.2 2) m4

/-- Count a fault of a launch: the first one's code and task handle stand (Table 13-10). -/
def Mod.noteFault (m : Mod) (id : W32) (code handle : W32) : Mod :=
  m.setLaunch id fun l => if l.noted then l else { l with noted := true, fcode := code, fhandle := handle }

/-- The fault whose own code and handle the completion record carries: one that could not be entered or handed over (R378,
spec/01 R35). -/
def Mod.endCode (m : Mod) (id : W32) (code handle : W32) : Mod :=
  m.setLaunch id fun l => { l with noted := true, fcode := code, fhandle := handle }

end Sys2Proof.Machine
end

