-- ==== Sys2Proof/Machine/Packets.lean ====
section
/-! DEFINITION. Packets of the Ialas fabric as a module makes and sends them (spec/16 R394 to R411), and what a pair of
modules can carry (R408, R414, spec/17 R423). -/

namespace Sys2Proof.Machine

/-- Operations of Table 16-4. -/
def opStore : BitVec 5 := 0
def opStoreFlag : BitVec 5 := 1
def opAtomic : BitVec 5 := 2
def opLoad : BitVec 5 := 3
def opData : BitVec 5 := 4
def opAck : BitVec 5 := 5
def opTagged : BitVec 5 := 6
def opJoin : BitVec 5 := 7
def opManage : BitVec 5 := 8

/-- The sub-code of the domain fault that an access to a module meets (Table 16-7). -/
def Mod.domainFault (m : Mod) (peer : BitVec 13) : Option Nat :=
  if !m.rdy.getLsbD 29 || m.dom.state ≠ .member then some 3
  else if m.dom.fence.contains peer || !m.dom.members.contains peer then some 2
  else if m.dom.quar.contains peer then some 1
  else none

/-- The next sequence number of a destination, channel and epoch (R406), and the domain after taking it. -/
def Domain.number (d : Domain) (dst : BitVec 13) (vc : BitVec 2) : Nat × Domain :=
  match d.sends.find? fun x => x.dst = dst ∧ x.vc = vc ∧ x.epoch = d.epoch with
  | some x => (x.next, { d with sends := d.sends.map fun y => if y = x then { y with next := y.next + 1 } else y })
  | none => (0, { d with sends := d.sends ++ [⟨dst, vc, d.epoch, 1⟩] })

/-- The header of Table 16-4 with hac taken as 0, as a word of 256 bits. -/
def packetHeader (p : Packet) : BitVec 256 :=
  BitVec.ofNat 256 (p.src.toNat + p.dst.toNat * 2 ^ 13 + p.vc.toNat * 2 ^ 26 + p.path.toNat * 2 ^ 28 + p.seq.toNat * 2 ^ 32 +
    p.epoch.toNat * 2 ^ 80 + (if p.enc then 2 ^ 82 else 0) + (if p.res then 2 ^ 83 else 0) + p.op.toNat * 2 ^ 84 +
    p.len.toNat * 2 ^ 89 + p.bmask.toNat * 2 ^ 98 + (if p.ofl then 2 ^ 114 else 0) + p.obj.toNat * 2 ^ 128 +
    p.off.toNat * 2 ^ 152 + (if p.fd then 2 ^ 191 else 0))

/-- Where the data of a packet begins: behind its descriptors (log 19). -/
def dataAt (p : Packet) : Nat := if p.op = opTagged then 3 else if p.op = opStoreFlag then p.payload.length else if !p.fd then 0 else if p.op = opAtomic then 2 else 1

/-- A packet's payload as sent under an epoch's keys: the data blocks of a domain-protected object cross as ciphertext (R403, Table
16-4). -/
def sentPayload (k : EpochKeys) (p : Packet) : List (BitVec 128) :=
  if !p.enc then p.payload
  else p.payload.mapIdx fun i b =>
    let at' := p.off.toNat + (i - dataAt p)
    if i < dataAt p ∨ (p.op = opAtomic ∧ i ≠ dataAt p) then b
    else Config.xts k.k1 k.k2 (tweakOf (if p.vc = 1 then p.src else p.dst) p.obj.toNat (at' / 32) p.epoch) (at' % 32) b

/-- The authentication code under an epoch's header key (R406); the cipher is open (log 13). -/
def Domain.hac (d : Domain) (p : Packet) : BitVec 64 :=
  match tfind p.epoch.toNat d.keys with
  | some k => Config.gmac k.kh ((packetHeader p).extractLsb' 0 128 :: (packetHeader p).extractLsb' 128 128 :: sentPayload k p)
  | none => 0

/-- A packet of this module before it is numbered. Responses, the sprint lane, join control and management take path 0; the path
of a line's packets is open (R397, log 39). -/
def Mod.packet (m : Mod) (dst : BitVec 13) (vc : BitVec 2) (op : BitVec 5) (obj : BitVec 24) (off : Nat) (bmask : BitVec 16)
    (enc : Bool) (payload : List (BitVec 128)) : Packet :=
  { src := m.addr, dst := dst, vc := vc, path := if vc = 0 ∧ op ≠ opJoin then Config.path m.lstat m.gstat dst obj (off / 512) else 0, seq := 0, epoch := m.dom.epoch, enc := enc, res := false, op := op
    len := BitVec.ofNat 9 payload.length, bmask := bmask, ofl := false, obj := obj, off := BitVec.ofNat 39 (off / 16), fd := false
    hac := 0, payload := payload }

/-- A packet takes its number and code and leaves; VC3 travels in its session and does not use the domain's keys (R402). Requests of
VC0 and VC2 stay open until they are answered. -/
def Mod.give (m : Mod) (p : Packet) : Mod :=
  let nd := m.dom.number p.dst p.vc
  let p1 := { p with seq := BitVec.ofNat 48 nd.1, epoch := m.dom.epoch }
  let p2 := if p.vc = 3 then p1 else { p1 with hac := nd.2.hac p1 }
  { m with dom := { nd.2 with
      sent := nd.2.sent ++ [p2]
      opens := if p.vc = 0 ∨ p.vc = 2 then tput 0 p.dst.toNat (tget 0 p.dst.toNat nd.2.opens + 1) nd.2.opens else nd.2.opens } }

/-- What a management packet carries inside its session: the model's layout (log 19). -/
def mgBeat : Nat := 1
def mgPrepare : Nat := 2
def mgArrival : Nat := 3
def mgCommit : Nat := 4
def mgAbort : Nat := 5
def mgFence : Nat := 6
def mgLead : Nat := 7
def mgRekey : Nat := 8
def mgMeasured : Nat := 9
def mgAdmit : Nat := 10
def mgRoster : Nat := 11
def mgLeave : Nat := 12
def mgKeys : Nat := 13
def mgMembers : Nat := 14
def mgQuarantine : Nat := 15
def mgPair : Nat := 16
def mgOlder : Nat := 17
def mgSpdm : Nat := 18
def mgSpdmAnswer : Nat := 19

/-- Send a management message. -/
def Mod.manage (m : Mod) (dst : BitVec 13) (code arg : Nat) (more : List (BitVec 128)) : Mod :=
  m.give (m.packet dst 3 opManage 0 0 0 false (BitVec.ofNat 128 (code + arg * 2 ^ 8) :: more))

/-- The number at which a sender asks for a rekey, and the one that it does not reach (R406). -/
def askNumber : Nat := 2 ^ 46
def lastNumber : Nat := 2 ^ 47

/-- Send a packet. Only VC3 carries packets to a module that is cut off or outside the domain (R395, R408). Requests wait while the
module drains (R411), and any packet while its channel has no number left; before that the sender asks for a rekey (R406). -/
def Mod.send (m : Mod) (p : Packet) : Mod :=
  let n := (m.dom.number p.dst p.vc).1
  if p.vc = 3 then m.give p
  else if (m.domainFault p.dst).isSome then m
  else if ((p.vc = 0 ∨ p.vc = 2) ∧ m.dom.rekey ≠ .idle) ∨ lastNumber ≤ n then { m with dom := { m.dom with queued := m.dom.queued ++ [p] } }
  else
    let m1 := m.give p
    if n ≠ askNumber then m1
    else if m1.dom.leads then { m1 with dom := { m1.dom with rekeyWanted := true } }
    else m1.manage m1.dom.leader mgRekey 0 []

/-- The 16-byte block of bytes at an offset: its lanes and their mask. -/
def blockOf (off : Nat) (data : List Byte) : BitVec 128 × BitVec 16 :=
  (BitVec.ofNat 128 (leNat data * 2 ^ (8 * (off % 16))), BitVec.ofNat 16 ((2 ^ data.length - 1) * 2 ^ (off % 16)))

end Sys2Proof.Machine
end

