-- ==== Sys2Proof/Machine/Num.lean ====
section
/-! DEFINITION. Number formats and exact arithmetic (spec/03 R75 to R99): exact values, Decode, Encode, the rounding
modes, the counter-based random bits, F4X and scaled blocks, the order of sums, and the approximations of spec/07 R196. -/

namespace Sys2Proof.Machine

/-! ### Signed readings and bit counts -/

/-- The number of bits of n (0 for 0). -/
def bitLen (n : Nat) : Nat := if n = 0 then 0 else n.log2 + 1

/-- Two's-complement reading of the low w bits. -/
def sgn (w n : Nat) : Int :=
  let m := n % 2 ^ w
  if 2 * m < 2 ^ w then (m : Int) else (m : Int) - 2 ^ w

/-- The low w bits of an integer. -/
def lowBits (w : Nat) (x : Int) : Nat := (x % 2 ^ w).toNat

/-- Clamp (spec/03 R82). -/
def clampInt (x lo hi : Int) : Int := max lo (min x hi)

/-- The integer square root, rounded down, one bit of the result at a time. -/
def isqrtFrom : Nat → Nat → Nat → Nat
  | 0, _, r => r
  | k + 1, n, r =>
    let c := r + 2 ^ k
    isqrtFrom k n (if c * c ≤ n then c else r)

def isqrt (n : Nat) : Nat := isqrtFrom (bitLen n / 2 + 1) n 0

/-! ### Exact values (R85) -/

/-- The exact value of a code: NaN, an infinity, or (−1)^neg × m × 2^e, where m = 0 is a signed zero. -/
inductive Num where
  | nan
  | inf (neg : Bool)
  | fin (neg : Bool) (m : Nat) (e : Int)
deriving DecidableEq, Repr

/-- Rounding modes (R86). The draw of .rst comes with the mode. -/
inductive Rnd where
  | rne | rtz | rup | rdn
  | rst (u : Nat)
deriving DecidableEq, Repr

/-- Element types: Table 05-7, with E2M1 of an F4X block (R79). -/
inductive Ty where
  | f32 | bf16 | f16 | e4m3 | e5m2 | i8 | i16 | i32 | z8 | z16 | z32 | i64 | z64 | e2m1
deriving DecidableEq, Repr

/-- Type codes of Table 05-7. -/
def Ty.ofCode : Nat → Option Ty
  | 0 => some .f32 | 1 => some .bf16 | 2 => some .f16 | 3 => some .e4m3 | 4 => some .e5m2 | 5 => some .i8
  | 6 => some .i16 | 7 => some .i32 | 8 => some .z8 | 9 => some .z16 | 10 => some .z32 | 11 => some .i64
  | 12 => some .z64 | _ => none

/-- Width in bits. -/
def Ty.width : Ty → Nat
  | .e2m1 => 4 | .e4m3 | .e5m2 | .i8 | .z8 => 8 | .bf16 | .f16 | .i16 | .z16 => 16
  | .f32 | .i32 | .z32 => 32 | .i64 | .z64 => 64

/-- Signed or unsigned integer formats (R84). -/
def Ty.isInt : Ty → Bool
  | .i8 | .i16 | .i32 | .i64 | .z8 | .z16 | .z32 | .z64 => true
  | _ => false

def Ty.isSigned : Ty → Bool
  | .i8 | .i16 | .i32 | .i64 => true
  | _ => false

/-- Mantissa bits w, exponent of the last place of subnormals, infinity, and the largest finite value as a multiple of
its last place (Table 03-1). -/
structure FloatFmt where
  mant : Nat
  emin : Int
  hasInf : Bool
  maxM : Nat
  maxE : Int
  ebits : Nat
  nan : Nat
deriving DecidableEq, Repr

def Ty.float : Ty → FloatFmt
  | .bf16 => ⟨7, -133, true, 2 ^ 8 - 1, 120, 8, 0x7FC0⟩
  | .f16 => ⟨10, -24, true, 2 ^ 11 - 1, 5, 5, 0x7E00⟩
  | .e4m3 => ⟨3, -9, false, 14, 5, 4, 0x7F⟩
  | .e5m2 => ⟨2, -16, true, 7, 13, 5, 0x7E⟩
  | .e2m1 => ⟨1, -1, false, 3, 1, 2, 0⟩
  | _ => ⟨23, -149, true, 2 ^ 24 - 1, 104, 8, 0x7FC00000⟩

/-- Integer limits (R84). -/
def Ty.minInt (t : Ty) : Int := if t.isSigned then -(2 ^ (t.width - 1)) else 0
def Ty.maxInt (t : Ty) : Int := if t.isSigned then 2 ^ (t.width - 1) - 1 else 2 ^ t.width - 1

/-- An integer as an exact value: +0 for zero (R84). -/
def Num.ofInt (x : Int) : Num := .fin (decide (x < 0)) x.natAbs 0

/-- Decode (R75 to R79, R85). -/
def decodeNum (t : Ty) (code : Nat) : Num :=
  let c := code % 2 ^ t.width
  if t.isInt then Num.ofInt (if t.isSigned then sgn t.width c else c)
  else
    let f := t.float
    let neg := c.testBit (t.width - 1)
    let e := c / 2 ^ f.mant % 2 ^ f.ebits
    let m := c % 2 ^ f.mant
    if t = .e4m3 && c % 128 = 127 then .nan
    else if f.hasInf && e = 2 ^ f.ebits - 1 then (if m = 0 then .inf neg else .nan)
    else if e = 0 then .fin neg m f.emin
    else .fin neg (2 ^ f.mant + m) (f.emin + (e - 1))

/-- RoundToGrid on the magnitude m / 2^k against the integers (R86). -/
def roundShift (rm : Rnd) (neg : Bool) (m k : Nat) : Nat :=
  let q := m / 2 ^ k
  let r := m % 2 ^ k
  if r = 0 then q
  else match rm with
    | .rne => if 2 * r < 2 ^ k then q else if 2 ^ k < 2 * r then q + 1 else if q % 2 = 0 then q else q + 1
    | .rtz => q
    | .rup => if neg then q else q + 1
    | .rdn => if neg then q + 1 else q
    | .rst u =>
      if neg then (if u * 2 ^ k < (2 ^ k - r) * 2 ^ 32 then q else q + 1)
      else (if u * 2 ^ k < r * 2 ^ 32 then q + 1 else q)

/-- The integer nearest to m × 2^e under the mode, as a magnitude. -/
def roundToInt (rm : Rnd) (neg : Bool) (m : Nat) (e : Int) : Nat :=
  if 0 ≤ e then m * 2 ^ e.toNat else roundShift rm neg m (-e).toNat

/-- Compare m1 × 2^e1 with m2 × 2^e2: less. -/
def magLt (m1 : Nat) (e1 : Int) (m2 : Nat) (e2 : Int) : Bool :=
  let e := min e1 e2
  decide (m1 * 2 ^ (e1 - e).toNat < m2 * 2 ^ (e2 - e).toNat)

/-- ±MaxFinite of a floating format, as a code. -/
def maxFiniteCode (t : Ty) (neg : Bool) : Nat :=
  let f := t.float
  (if neg then 2 ^ (t.width - 1) else 0) + ((f.maxE - f.emin).toNat * 2 ^ f.mant + f.maxM)

def infCode (t : Ty) (neg : Bool) : Nat :=
  let f := t.float
  (if neg then 2 ^ (t.width - 1) else 0) + (2 ^ f.ebits - 1) * 2 ^ f.mant

/-- Encode (R85): srcInt says that the value's kind is integer. -/
def encodeNum (t : Ty) (x : Num) (rm : Rnd) (sat : Bool) (srcInt : Bool := false) : Nat :=
  if t.isInt then
    match x with
    | .nan => 0
    | .inf neg => lowBits t.width (if neg then t.minInt else t.maxInt)
    | .fin neg m e =>
      let y : Int := (if neg then -1 else 1) * (roundToInt rm neg m e : Int)
      if (t.minInt ≤ y ∧ y ≤ t.maxInt) ∨ ¬(sat || !srcInt) then lowBits t.width y
      else lowBits t.width (clampInt y t.minInt t.maxInt)
  else
    let f := t.float
    match x with
    | .nan => f.nan
    | .inf neg => if f.hasInf && !sat then infCode t neg else maxFiniteCode t neg
    | .fin neg m e =>
      let s := if neg then 2 ^ (t.width - 1) else 0
      let g := max f.emin (e + bitLen m - (f.mant + 1))
      let q := if g ≤ e then m * 2 ^ (e - g).toNat else roundShift rm neg m (g - e).toNat
      if magLt f.maxM f.maxE q g then
        if f.hasInf && !sat then
          match rm, neg with
          | .rtz, _ => maxFiniteCode t neg
          | .rup, true => maxFiniteCode t neg
          | .rdn, false => maxFiniteCode t neg
          | _, _ => infCode t neg
        else maxFiniteCode t neg
      else if q = 0 then s
      else s + ((g - f.emin).toNat * 2 ^ f.mant + q)

/-! ### Exact operations (R76, R97) -/

def Num.neg : Num → Num
  | .nan => .nan
  | .inf n => .inf !n
  | .fin n m e => .fin (!n) m e

def Num.isNan : Num → Bool
  | .nan => true
  | _ => false

/-- Signed magnitude as an integer multiple of 2^e0, for e0 at or below the exponent. -/
def signedAt (n : Bool) (m : Nat) (e e0 : Int) : Int :=
  (if n then -1 else 1) * ((m * 2 ^ (e - e0).toNat : Nat) : Int)

/-- Exact sum; −0 only from two negative zeros, ∞ − ∞ is NaN (R76, R97). -/
def Num.add : Num → Num → Num
  | .nan, _ | _, .nan => .nan
  | .inf a, .inf b => if a = b then .inf a else .nan
  | .inf a, .fin .. => .inf a
  | .fin .., .inf b => .inf b
  | .fin n1 m1 e1, .fin n2 m2 e2 =>
    if m1 = 0 ∧ m2 = 0 then .fin (n1 && n2) 0 0
    else
      let e := min e1 e2
      let z := signedAt n1 m1 e1 e + signedAt n2 m2 e2 e
      .fin (decide (z < 0)) z.natAbs e

def Num.sub (a b : Num) : Num := a.add b.neg

/-- Exact product; 0 × ∞ is NaN (R76). -/
def Num.mul : Num → Num → Num
  | .nan, _ | _, .nan => .nan
  | .inf a, .inf b => .inf (a != b)
  | .inf a, .fin n m _ => if m = 0 then .nan else .inf (a != n)
  | .fin n m _, .inf b => if m = 0 then .nan else .inf (n != b)
  | .fin n1 m1 e1, .fin n2 m2 e2 => .fin (n1 != n2) (m1 * m2) (e1 + e2)

/-- Less, for values other than NaN; zeros of either sign are equal. -/
def Num.lt : Num → Num → Bool
  | .nan, _ | _, .nan => false
  | .inf a, .inf b => a && !b
  | .inf a, .fin .. => a
  | .fin .., .inf b => !b
  | .fin n1 m1 e1, .fin n2 m2 e2 =>
    let e := min e1 e2
    decide (signedAt n1 m1 e1 e < signedAt n2 m2 e2 e)

/-- Equality of values (−0 = +0, R200); false for NaN. -/
def Num.eqv (a b : Num) : Bool := !a.isNan && !b.isNan && !a.lt b && !b.lt a

def Num.isZero : Num → Bool
  | .fin _ 0 _ => true
  | _ => false

/-- max and min of R76: a NaN gives NaN; max of unlike zeros is +0 and min is −0. -/
def Num.max (a b : Num) : Num :=
  if a.isNan || b.isNan then .nan
  else if a.isZero && b.isZero then
    match a, b with
    | .fin n1 _ _, .fin n2 _ _ => .fin (n1 && n2) 0 0
    | _, _ => a
  else if a.lt b then b else a

def Num.min (a b : Num) : Num :=
  if a.isNan || b.isNan then .nan
  else if a.isZero && b.isZero then
    match a, b with
    | .fin n1 _ _, .fin n2 _ _ => .fin (n1 || n2) 0 0
    | _, _ => a
  else if b.lt a then b else a

/-- Times 2^k, exact. -/
def Num.scale (x : Num) (k : Int) : Num :=
  match x with
  | .fin n m e => .fin n m (e + k)
  | y => y

/-- Encode and decode again: the value as a format holds it. -/
def Num.inFmt (t : Ty) (x : Num) : Num := decodeNum t (encodeNum t x .rne false)

/-- FP32, round to nearest even, without saturation: the Enc(FP32, ·) of spec/09. -/
abbrev Num.enc32 (x : Num) : Num := x.inFmt .f32

/-- A quotient of natural numbers, with enough bits and a sticky bit for rounding to nearest in any format. -/
def quotNum (neg : Bool) (a b : Nat) (e : Int) : Num :=
  if b = 0 then .nan
  else
    let s := 100 + bitLen b
    let q := a * 2 ^ s / b
    let st := if a * 2 ^ s % b = 0 then 0 else 1
    .fin neg (2 * q + st) (e - s - 1)

/-- Division under IEEE 754, as a value for rounding to nearest. -/
def Num.div : Num → Num → Num
  | .nan, _ | _, .nan => .nan
  | .inf _, .inf _ => .nan
  | .inf a, .fin n _ _ => .inf (a != n)
  | .fin n _ _, .inf b => .fin (n != b) 0 0
  | .fin n1 m1 e1, .fin n2 m2 e2 =>
    if m2 = 0 then (if m1 = 0 then .nan else .inf (n1 != n2)) else quotNum (n1 != n2) m1 m2 (e1 - e2)

/-! ### Sums in order (R97) -/

def sumPairs (t : Ty) (rm : Rnd) : List Num → List Num
  | a :: b :: rest => decodeNum t (encodeNum t (a.add b) rm false) :: sumPairs t rm rest
  | l => l

def sumLevels (t : Ty) (rm : Rnd) : Nat → List Num → List Num
  | 0, l => l
  | k + 1, l => match l with
    | _ :: _ :: _ => sumLevels t rm k (sumPairs t rm l)
    | _ => l

/-- SumInOrder (R97). -/
def sumInOrder (t : Ty) (rm : Rnd) (l : List Num) : Num :=
  match sumLevels t rm l.length l with
  | [] => .fin false 0 0
  | x :: _ => decodeNum t (encodeNum t x rm false)

/-! ### Random bits (R87, R88) -/

def philoxRound (k0 k1 c0 c1 c2 c3 : Nat) : Nat × Nat × Nat × Nat :=
  let p := 0xD2511F53 * c0
  let q := 0xCD9E8D57 * c2
  (((q / 2 ^ 32) ^^^ c1) ^^^ k0, q % 2 ^ 32, ((p / 2 ^ 32) ^^^ c3) ^^^ k1, p % 2 ^ 32)

def philox : Nat → Nat → Nat → Nat → Nat → Nat → Nat → Nat
  | 0, _, _, c0, c1, c2, c3 => c0 + 2 ^ 32 * c1 + 2 ^ 64 * c2 + 2 ^ 96 * c3
  | n + 1, k0, k1, c0, c1, c2, c3 =>
    match philoxRound k0 k1 c0 c1 c2 c3 with
    | (d0, d1, d2, d3) => philox n ((k0 + 0x9E3779B9) % 2 ^ 32) ((k1 + 0xBB67AE85) % 2 ^ 32) d0 d1 d2 d3

/-- StochBits (R88). -/
def stochBits (key ctr : Nat) : Nat :=
  philox 10 (key % 2 ^ 32) (key / 2 ^ 32 % 2 ^ 32)
    (ctr % 2 ^ 32) (ctr / 2 ^ 32 % 2 ^ 32) (ctr / 2 ^ 64 % 2 ^ 32) (ctr / 2 ^ 96 % 2 ^ 32)

/-- What a rounding suffix draws with (R87): the key s62, the stream s63, the slot, the context and the core. -/
structure RndCtx where
  key : Nat
  stream : Nat
  slot : Nat
  ctx : Nat
  lcore : Nat
deriving DecidableEq, Repr

/-- Rounding code (Table 05-4) of element i of an operation. -/
def rndOf (rc : RndCtx) (code : Nat) (i : Nat) : Rnd :=
  match code with
  | 0 => .rne | 1 => .rtz | 2 => .rup | 3 => .rdn
  | _ => .rst (stochBits rc.key (rc.stream + 2 ^ 64 * (i % 4096) + 2 ^ 76 * rc.slot + 2 ^ 79 * rc.ctx + 2 ^ 82 * rc.lcore) % 2 ^ 32)

/-! ### Approximations (spec/07 R196) -/

/-- Rounding to q significant bits, to nearest even: the grid Gq. -/
def roundSig (q : Nat) : Num → Num
  | .fin n m e =>
    let d := bitLen m - q
    .fin n (roundShift .rne n m d) (e + d)
  | x => x

/-- 2 to the power of 2^(−i), in units of 2^−128, for i = 1 to n. -/
def exp2Roots : Nat → Nat → List Nat
  | 0, _ => []
  | n + 1, r =>
    let s := isqrt (r * 2 ^ 128)
    s :: exp2Roots n s

/-- The product of the roots that the bits of f select, the first root at bit 63 of f. -/
def exp2Frac : List Nat → Nat → Nat → Nat → Nat
  | [], _, _, acc => acc
  | r :: rest, k, f, acc => exp2Frac rest (k - 1) f (if f.testBit k then acc * r / 2 ^ 128 else acc)

/-- 2^x for a finite x: exact for an integer x, otherwise to 2^−90 with a sticky bit (assumption log 12). -/
def exp2Fin (neg : Bool) (m : Nat) (e : Int) : Num :=
  if m = 0 then .fin false 1 0
  else if magLt 1024 0 m e then (if neg then .fin false 1 (-2000) else .fin false 1 2000)
  else
    -- x in units of 2^−64, rounded down
    let mag := if 0 ≤ e + 64 then m * 2 ^ (e + 64).toNat else
      (let q := m / 2 ^ (-(e + 64)).toNat
       if neg && m % 2 ^ (-(e + 64)).toNat ≠ 0 then q + 1 else q)
    let x : Int := if neg then -(mag : Int) else mag
    let i := x / 2 ^ 64
    let f := (x % 2 ^ 64).toNat
    if f = 0 ∧ (0 ≤ e ∨ m % 2 ^ (-e).toNat = 0) then .fin false 1 i
    else .fin false (2 * exp2Frac (exp2Roots 64 (2 * 2 ^ 128)) 63 f (2 ^ 128) + 1) (i - 129)

/-- exp2, rcp and rsqrt of an exact value, before Encode (R196). -/
def exp2Num : Num → Num
  | .nan => .nan
  | .inf true => .fin false 0 0
  | .inf false => .inf false
  | .fin n m e => roundSig 16 (exp2Fin n m e)

def rcpNum : Num → Num
  | .nan => .nan
  | .inf n => .fin n 0 0
  | .fin n m e => if m = 0 then .inf n else roundSig 12 (quotNum n 1 m (-e))

def rsqrtNum : Num → Num
  | .nan => .nan
  | .inf true => .nan
  | .inf false => .fin false 0 0
  | .fin n m e =>
    if m = 0 then .inf n
    else if n then .nan
    else
      let m' := if e % 2 = 0 then m else 2 * m
      let e' := if e % 2 = 0 then e else e - 1
      let r := isqrt (2 ^ 400 / m')
      let st := if r * r * m' = 2 ^ 400 then 0 else 1
      roundSig 12 (.fin false (2 * r + st) (-(e' / 2) - 201))

/-- exp2.f32 as a value (R99, R196). -/
def exp2F32 (x : Num) : Num := (exp2Num x).inFmt .f32

/-! ### Blocks (R79 to R83) -/

/-- DecodeF4X (R81): the block's scale and spare codes and an element code. -/
def decodeF4X (scale spare elem : Nat) : Num :=
  if scale % 256 = 255 then .nan
  else
    let s : Int := (scale % 256 : Nat) - 127
    if elem % 16 = 8 then (decodeNum .e4m3 spare).scale s else (decodeNum .e2m1 elem).scale s

/-- An element of a scaled E4M3 or E5M2 block (R83). -/
def decodeScaled (t : Ty) (scale elem : Nat) : Num :=
  if scale % 256 = 255 then .nan else (decodeNum t elem).scale ((scale % 256 : Nat) - 127)

/-- The smallest integer E with |m × 2^e| ≤ c × 2^E, for m > 0. -/
def fitExp (m : Nat) (e : Int) (c : Nat) : Int :=
  let e0 := e + bitLen m - bitLen c
  -- m × 2^e lies within a factor of two of c × 2^e0 on either side
  if !magLt c (e0 - 1) m e then e0 - 1 else if !magLt c e0 m e then e0 else e0 + 1

def clampE (e : Int) : Int := clampInt e (-127) 127

/-- Magnitude of a finite value (0 for the others). -/
def Num.mag : Num → Nat × Int
  | .fin _ m e => (m, e)
  | _ => (0, 0)

def Num.isInf : Num → Bool
  | .inf _ => true
  | _ => false

/-- The index and magnitude of the largest |x|, ties to the lowest index. -/
def largest : List Num → Nat → Option (Nat × Nat × Int) → Option (Nat × Nat × Int)
  | [], _, acc => acc
  | x :: rest, i, acc =>
    let (m, e) := x.mag
    largest rest (i + 1) (match acc with
      | none => some (i, m, e)
      | some (j, m1, e1) => if magLt m1 e1 m e then some (i, m, e) else some (j, m1, e1))

/-- A block as stored: scale code, spare code, element codes. -/
structure Block where
  scale : Nat
  spare : Nat
  elems : List Nat
deriving DecidableEq, Repr

/-- An element of an F4X block: −0 is written as 0 (R82 step 8). -/
def f4xElem (x : Num) (e : Int) (rm : Rnd) : Nat :=
  let c := encodeNum .e2m1 (x.scale (-e)) rm true
  if c = 8 then 0 else c

/-- R82: encode 32 values into an F4X block. rnd gives the rounding of an element index. -/
def encodeF4X (xs : List Num) (rnd : Nat → Rnd) (sat : Bool) : Block :=
  if xs.any Num.isNan then ⟨255, 0, xs.map fun _ => 0⟩
  else
    let ys := xs.map fun x => match x with
      | .inf n => if sat then Num.fin n 448 127 else Num.fin n 6 127
      | y => y
    match largest ys 0 none with
    | none => ⟨127, 0, []⟩
    | some (i1, m1, e1) =>
      if m1 = 0 then ⟨127, 0, xs.map fun _ => 0⟩
      else
        let others := ys.mapIdx fun i x => if i = i1 then Num.fin false 0 0 else x
        let eb := match largest others 0 none with
          | some (_, m2, e2) => if m2 = 0 then -127 else clampE (fitExp m2 e2 6)
          | none => -127
        let x1 := ys.getD i1 (.fin false 0 0)
        if sat && magLt 6 eb m1 e1 then
          let e := clampE (max eb (fitExp m1 e1 448))
          ⟨(e + 127).toNat, encodeNum .e4m3 (x1.scale (-e)) (rnd i1) true,
            ys.mapIdx fun i x => if x.eqv x1 then 8 else f4xElem x e (rnd i)⟩
        else
          let e := clampE (fitExp m1 e1 6)
          ⟨(e + 127).toNat, 0, ys.mapIdx fun i x => f4xElem x e (rnd i)⟩

/-- R83: encode a block of a scaled E4M3 or E5M2 bank. -/
def encodeScaled (t : Ty) (xs : List Num) (rnd : Nat → Rnd) (sat : Bool) : Block :=
  let fins := xs.map fun x => match x with
    | .fin n m e => Num.fin n m e
    | _ => .fin false 0 0
  let e := match largest fins 0 none with
    | some (_, m, e1) => if m = 0 then 0 else clampE (fitExp m e1 (if t = .e4m3 then 448 else 57344))
    | none => 0
  ⟨(e + 127).toNat, 0, xs.mapIdx fun i x => encodeNum t (x.scale (-e)) (rnd i) sat⟩

/-! ### ACX (R91 to R96) -/

/-- The NaN marker. -/
def acxNan : Int := -(2 ^ 39)
def acxMax : Int := 2 ^ 39 - 1

/-- AlignAcx (R92) of an exact finite value. -/
def alignAcx (neg : Bool) (m : Nat) (e : Int) (row : Int) : Int :=
  (if neg then -1 else 1) * (roundToInt .rne neg m (e - row) : Int)

/-- What a set of products adds up to (R92). -/
structure AcxSum where
  nan : Bool
  pos : Bool
  neg : Bool
  sum : Int
deriving DecidableEq, Repr

def AcxSum.addProduct (row : Int) (a : AcxSum) (p : Num) : AcxSum :=
  match p with
  | .nan => { a with nan := true }
  | .inf n => if n then { a with neg := true } else { a with pos := true }
  | .fin n m e => { a with sum := a.sum + alignAcx n m e row }

/-- One element's step (R92): the new integer, and whether sticky is set. -/
def acxStep (n : Int) (row : Int) (prods : List Num) : Int × Bool :=
  let a := prods.foldl (AcxSum.addProduct row) ⟨false, false, false, 0⟩
  if a.nan || (a.pos && a.neg) || n = acxNan then (acxNan, false)
  else if a.pos then (acxMax, true)
  else if a.neg then (-acxMax, true)
  else
    let t := n + a.sum
    let c := clampInt t (-acxMax) acxMax
    (c, t ≠ c)

/-- R95: an element under a changed row exponent. -/
def acxRescale (n e e' : Int) : Int × Bool :=
  if n = acxNan then (n, false)
  else
    let t := alignAcx (decide (n < 0)) n.natAbs e e'
    let c := clampInt t (-acxMax) acxMax
    (c, t ≠ c)

/-- The value of an element (R91); the marker is NaN (R93). -/
def acxNum (n e : Int) : Num := if n = acxNan then .nan else .fin (decide (n < 0)) n.natAbs e

end Sys2Proof.Machine
end

