-- ==== Sys2Proof/Machine/Walks.lean ====
section
/-! DEFINITION. Walks: shape registers (spec/06 R167, R168), the fields of bank formats (spec/02 R53 to R56), and what an engine
operation has still to read and to write of its footprints (spec/04 R123, spec/09 R254). -/

namespace Sys2Proof.Machine

/-! ### Shapes (Table 06-5) -/

def shBase (h : Shape) : Nat := fld h 0 64
def shExt (h : Shape) (k : Nat) : Nat := fld h (64 + 16 * k) 16
def shStr (h : Shape) (k : Nat) : Int := sgn 32 (fld h (128 + 32 * k) 32)
def shIdx (h : Shape) (k : Nat) : Nat := fld h (256 + 16 * k) 16
def shFmt (h : Shape) : Nat := fld h 320 4
def shSpace (h : Shape) : Nat := fld h 324 2
def shAux0 (h : Shape) : W64 := h.extractLsb' 384 64
def shAux1 (h : Shape) : W64 := h.extractLsb' 448 64

/-- ShapeAddr (R168). -/
def shapeAddr (h : Shape) : Nat :=
  lowBits 64 ((upTo 4).foldl (fun a k => a + (shIdx h k : Int) * shStr h k) (shBase h : Int))

/-- One dimension of ShapeStep. -/
def shapeStepAt : Nat → Nat → Shape → Shape
  | 0, _, h => h
  | n + 1, k, h =>
    if shIdx h k + 1 < shExt h k then setFld h (256 + 16 * k) 16 (shIdx h k + 1)
    else shapeStepAt n (k + 1) (setFld h (256 + 16 * k) 16 0)

/-- ShapeStep (R168). -/
def shapeStep (h : Shape) : Shape := shapeStepAt 4 0 h

/-- n steps of a walk. -/
def shapeSteps : Nat → Shape → Shape
  | 0, h => h
  | n + 1, h => shapeSteps n (shapeStep h)

/-! ### Bank formats (Table 02-7) -/

def bfFmt (f : W32) : Nat := fld f 0 4
def bfSmode (f : W32) : Nat := fld f 4 2
def bfCbase (f : W32) : Nat := fld f 6 10
def bfSat (f : W32) : Bool := f.getLsbD 16

/-- Element bits (Table 02-7). -/
def fmtBits (code : Nat) : Nat :=
  match code with
  | 1 | 9 | 13 => 32
  | 2 | 3 | 8 | 12 => 16
  | 6 => 4
  | 10 | 14 => 64
  | _ => 8

def bfBits (f : W32) : Nat := fmtBits (bfFmt f)

/-- Elements per scale block, 0 without scales. -/
def bfBlock (f : W32) : Nat :=
  match bfSmode f with
  | 1 => 32
  | 2 => 16
  | _ => 0

/-- Companion bytes per data line (Table 02-7). -/
def bfComp (f : W32) : Nat :=
  match bfSmode f with
  | 1 => if bfFmt f = 6 then 16 else 4
  | 2 => 8
  | _ => 0

/-- Scratchpad offset of the first companion byte of data line n of the bank at `base` (R56). -/
def compBase (f : W32) (base n : Nat) : Nat := base + 128 * bfCbase f + bfComp f * n

/-- Companion bytes that a run of n bytes at offset `off` uses, as scratchpad offsets: block k of a line has byte k, or bytes
2k and 2k + 1 of an F4X bank (R56). -/
def compOffsets (f : W32) (size off n : Nat) : List Nat :=
  if bfComp f = 0 then []
  else
    let base := off / size * size
    let bytes := bfBlock f * bfBits f / 8
    (upTo (n / bytes)).flatMap fun i =>
      let rel := off - base + i * bytes
      let line := rel / 128
      let k := rel % 128 / bytes
      if bfFmt f = 6 then [compBase f base line + 2 * k, compBase f base line + 2 * k + 1] else [compBase f base line + k]

/-! ### Scratchpad bytes of a cluster -/

/-- The lines of n bytes at an offset. -/
def linesOf (off n : Nat) : List Nat := if n = 0 then [] else (upTo ((off + n - 1) / 128 - off / 128 + 1)).map (off / 128 + ·)

/-- The key of a scratchpad byte within a cluster: place of the core × 2^22 + offset. -/
def spKeyOf (place a : Nat) : Nat := (if a.testBit 25 then place else a / 2 ^ 22 % 8) * 2 ^ 22 + a % 2 ^ 22

/-- The place of core c in its logical cluster, and the core at a place (spec/02 R51). -/
def Mach.lplace (m : Mach) (c : Nat) : Nat :=
  let k := m.coreAt c
  if (m.mod.launch (k.launch.getD 0)).record.n < 8 then k.lcore else k.lcore % 8

def Mach.lclusterOf (m : Mach) (c : Nat) : Nat :=
  let k := m.coreAt c
  if (m.mod.launch (k.launch.getD 0)).record.n < 8 then 0 else k.lcore / 8

def Mach.peerOf (m : Mach) (c k : Nat) : Nat :=
  let l := m.mod.launch ((m.coreAt c).launch.getD 0)
  l.cores.getD (if l.record.n < 8 then k else 8 * m.lclusterOf c + k) c

/-- Bank size of the launch of core c. -/
def Mach.spBankOf (m : Mach) (c : Nat) : Nat := (m.mod.launch ((m.coreAt c).launch.getD 0)).record.gSp * 512

/-- Lines of the cluster under ranges, as place × 2^15 + line. -/
def Range.lines (r : Range) : List Nat :=
  if r.space = 1 then (linesOf r.off r.len).map fun l => r.obj * 2 ^ 15 + l else []

/-- Lines without repeats, rising. -/
def lineSet (rs : List Range) : List Nat := rs.foldl (fun t r => r.lines.foldl (fun t l => sins l t) t) []

/-! ### Ranges -/

/-- A range touches a byte range of an object. -/
def Range.touches (r : Range) (obj off n : Nat) : Bool :=
  r.space = 0 && r.obj = obj && decide (r.off < off + n) && decide (off < r.off + r.len)

/-- Two ranges share a byte. -/
def Range.meets (a b : Range) : Bool :=
  a.space = b.space && a.obj = b.obj && decide (a.off < b.off + b.len) && decide (b.off < a.off + a.len)

/-! ### Walks (spec/09 R258, R259) -/

/-- Positions of a side (R258, R259). -/
def Side.positions (sd : Side) : Nat :=
  match sd.rows with
  | some r => r.length * shExt sd.shape 0
  | none => shExt sd.shape 0 * shExt sd.shape 1 * shExt sd.shape 2 * shExt sd.shape 3

/-- The address of position t. -/
def Side.addr (sd : Side) (t : Nat) : Nat :=
  match sd.rows with
  | some r =>
    let e := shExt sd.shape 0
    lowBits 64 ((shBase sd.shape : Int) + (r.getD (t / e) 0).toInt + (t % e : Nat) * shStr sd.shape 0)
  | none => shapeAddr (shapeSteps t sd.shape)

/-- Walk coordinates of position t (Table 09-3). -/
def Side.coords (sd : Side) (t : Nat) : List Nat :=
  match sd.rows with
  | some _ => [t % shExt sd.shape 0, t / shExt sd.shape 0, 0, 0]
  | none => (upTo 4).map (shIdx (shapeSteps t sd.shape))

/-- Bytes of one position: w in byte mode, a run of elements in conversion mode. -/
def Side.bytes (sd : Side) (w run t : Nat) : Nat := if run = 0 then w else run * bfBits (sd.fmts.getD t 0) / 8

/-- The object offset of a position in space 0. -/
def Side.offset (sd : Side) (t : Nat) : Int := (capOffset sd.cap : Int) + sgn 64 (sd.addr t)

/-- Companion keys that a position of a scratchpad side uses. -/
def Side.comps (sd : Side) (place bank w run t : Nat) : List Nat :=
  if run = 0 then []
  else
    let k := spKeyOf place (sd.addr t)
    (compOffsets (sd.fmts.getD t 0) bank (k % 2 ^ 22) (sd.bytes w run t)).map fun o => k / 2 ^ 22 * 2 ^ 22 + o

/-- The ranges that a position touches. -/
def Side.ranges (sd : Side) (place bank w run t : Nat) : List Range :=
  match shSpace sd.shape with
  | 0 => [⟨0, capObject sd.cap, (sd.offset t).toNat, sd.bytes w run t⟩]
  | 1 =>
    let k := spKeyOf place (sd.addr t)
    ⟨1, k / 2 ^ 22, k % 2 ^ 22, sd.bytes w run t⟩ :: (sd.comps place bank w run t).map fun o => ⟨1, o / 2 ^ 22, o % 2 ^ 22, 1⟩
  | _ => [⟨2, shBase sd.shape % 8, 0, 256⟩]

/-- The ranges of the positions from t on. -/
def Side.from (sd : Side) (place bank w run t : Nat) : List Range :=
  ((upTo sd.positions).drop t).flatMap (sd.ranges place bank w run)

/-! ### What is left of an operation (Table 04-6) -/

/-- A range has been read in full ahead of its use. -/
def EngOp.buffered (o : EngOp) (r : Range) : Bool :=
  r.space = 1 && (upTo r.len).all fun i => (tfind (r.obj * 2 ^ 22 + r.off + i) o.buf).isSome

/-- What an operation has still to read and to write: global writes count until they are published (spec/04 R125). -/
def EngOp.rest (o : EngOp) (place bank : Nat) : List Range × List Range :=
  match o.body with
  | .move src dst w run _ _ _ =>
    ((src.from place bank w run o.at').filter fun r => !o.buffered r,
      if shSpace dst.shape = 0 then o.wr else dst.from place bank w run o.at')
  | .lines _ ms =>
    let rest := ms.drop o.at'
    ((rest.filterMap fun e => e.2.map fun l => (⟨1, l / 2 ^ 15, l % 2 ^ 15 * 128, 128⟩ : Range)).filter fun r => !o.buffered r,
      rest.map fun e => ⟨1, e.1 / 2 ^ 15, e.1 % 2 ^ 15 * 128, 128⟩)
  | _ => (o.rd, o.wr)

end Sys2Proof.Machine
end

