-- ==== Sys2Proof/Machine/Ops.lean ====
section
/-! DEFINITION. The named operations over the issue stage: what a slot of a bundle may answer, the view it reads, free
values, taking an exception (spec/13 R317 to R319, spec/15 R375 to R379) as one operation, and the return from one. -/

namespace Sys2Proof.Machine

/-! ### Views -/

/-- The tick of the issue cycle. -/
def State.tick (s : State) : Nat := s.now.mod.tick
/-- The issuing core's launch. -/
def State.launchId (s : State) : W32 := s.start.core.launch.getD 0
def State.launch (s : State) : Launch := s.now.mod.launch s.launchId
def State.rcd (s : State) : LaunchRec := s.launch.record
/-- The die of the issuing core (physical core number / 64). -/
def State.die (s : State) : Nat := s.now.cid / 64
/-- An attention core (spec/00 Table 00-1). -/
def State.att (s : State) : Bool := decide (8 ≤ s.die)
/-- The partition of the issuing launch. -/
def State.part (s : State) : Nat := s.rcd.part
/-- The issuing context runs at supervisor privilege (spec/13 R317). -/
def State.sv (s : State) : Bool := s.start.ctx.saved.isSome
/-- The bank that sources are read from. -/
def State.src (s : State) : Bank := s.start.ctx.bank
/-- Scratchpad bytes of a core of the launch (spec/02 R50). -/
def State.spBytes (s : State) : Nat := s.rcd.gSp * 16384
/-- Whether acc j exists (spec/02 R48). -/
def State.accOk (s : State) (j : Nat) : Bool := decide (j < s.rcd.gAcc / 2)
/-- The logical cluster and the core's place in it (spec/02 R51). -/
def State.lcluster (s : State) : Nat := if s.rcd.n < 8 then 0 else s.start.core.lcore / 8
def State.place (s : State) : Nat := if s.rcd.n < 8 then s.start.core.lcore else s.start.core.lcore % 8
/-- Physical number of core k of the issuing core's logical cluster. -/
def State.peer (s : State) (k : Nat) : Nat := s.launch.cores.getD (if s.rcd.n < 8 then k else 8 * s.lcluster + k) s.now.cid
/-- Physical numbers of the launch cores of the cluster. -/
def State.peers (s : State) : List Nat := (upTo s.rcd.clusterCores).map s.peer

/-- A free value: w bits, by slot and read (log 3). -/
def State.free? (s : State) (w slot pos : Nat) : BitVec w := Config.undef w s.free slot pos

/-- Update the context, the core or the module in the issue stage. -/
def State.onCtx (s : State) (f : Ctx → Ctx) : State := { s with now := { s.now with ctx := f s.now.ctx } }
def State.onCore (s : State) (f : Core → Core) : State := { s with now := { s.now with core := f s.now.core } }
def State.onMod (s : State) (f : Mod → Mod) : State := { s with now := { s.now with mod := f s.now.mod } }
def State.onBank (s : State) (f : Bank → Bank) : State := s.onCtx fun c => { c with bank := f c.bank }
def State.onLaunch (s : State) (f : Launch → Launch) : State := s.onMod fun m => m.setLaunch s.launchId f
def State.onIss (s : State) (f : Iss → Iss) : State := { s with iss := f s.iss }

/-! ### What stops a slot -/

/-- A trap found at issue: kind and sub-code (Table 15-3), the slot, and the record's detail and object (Table 15-4). -/
structure Trap where
  kind : Nat
  sub : Nat
  slot : Nat
  detail : Nat
  obj : Nat
deriving DecidableEq, Repr

/-- What a slot that cannot issue waits for: the work queue waited on, the page, load and translation requests sent, the
engine operations that miss their promise by it (spec/02 R73), the join generation or the tick waited for, and the lines of another
core that it reads. -/
structure Hold where
  waitq : Option Nat := none
  pages : List PageReq := []
  packets : List Packet := []
  ats : List AtsReq := []
  missed : List Nat := []
  join : Option (W64 × Nat) := none
  joinAsk : Bool := false
  lines : Option (Nat × Nat × Nat × Nat) := none
  tick : Option Nat := none
deriving DecidableEq, Repr

/-- Why a slot does not act: the bundle cannot issue, or a trap. -/
inductive Stop where
  | hold (h : Hold)
  | trap (t : Trap)
deriving DecidableEq, Repr

def Stop.wait : Stop := .hold {}

/-- Kinds of Table 15-3. -/
def kUser : Nat := 0
def kIllegal : Nat := 1
def kReserved : Nat := 2
def kPrivilege : Nat := 3
def kPlacement : Nat := 4
def kCapability : Nat := 5
def kAlignment : Nat := 6
def kScratch : Nat := 7
def kAbsentAcc : Nat := 8
def kBankFormat : Nat := 9
def kTaskState : Nat := 10
def kLoopDepth : Nat := 11
def kShape : Nat := 12
def kFragment : Nat := 13
def kBarrier : Nat := 14
def kWorkQueue : Nat := 15
def kRowTable : Nat := 16
def kMatrix : Nat := 17
def kKvHandle : Nat := 18
def kKvRange : Nat := 19
def kEngine : Nat := 20
def kFillList : Nat := 21
def kContextState : Nat := 22
def kPage : Nat := 23
def kProtection : Nat := 24
def kEngineFault : Nat := 25
def kMatrixFault : Nat := 26
def kOverflow : Nat := 27
def kPromise : Nat := 28
def kPoison : Nat := 29
def kDomain : Nat := 30
def kSupervisor : Nat := 31

/-- The strict-promise setting of the die the context runs on (spec/02 R46, spec/14 R354). -/
def State.strict (s : State) : Bool := (s.start.mod.die s.die).strictOn

/-- The bundle waits on engine operations of its context: those past their promised tick miss it (spec/02 R73). -/
def State.engineWait (s : State) (slot : Nat) (ops : List EngOp) : Stop :=
  let late := ops.filter fun o => !o.missed && (match o.ptick with | some p => decide (p ≤ s.start.mod.tick) | none => false)
  match late with
  | [] => .wait
  | o :: _ =>
    if s.strict then .trap ⟨kPromise, 0, slot, o.ptick.getD 0, o.cmd⟩
    else .hold { missed := late.map (·.cmd) }

/-- What a slot answers: the machine after it has acted, or why it does not act. -/
abbrev Act := Except Stop State

/-- A trap of a kind with no sub-code or detail. -/
def trapOf {α : Type} (slot kind : Nat) : Except Stop α := .error (.trap ⟨kind, 0, slot, 0, 0⟩)
def trapAt {α : Type} (slot kind sub detail obj : Nat) : Except Stop α := .error (.trap ⟨kind, sub, slot, detail, obj⟩)
/-- Raise a trap unless a condition holds. -/
def need (ok : Bool) (slot kind : Nat) : Except Stop Unit := if ok then .ok () else trapOf slot kind
/-- The bundle cannot issue unless a condition holds. -/
def waitFor (ok : Bool) : Except Stop Unit := if ok then .ok () else .error .wait

/-! ### Records (Table 15-4) -/

/-- A fault code (spec/15 R375). -/
def faultCode (kind sub : Nat) : W32 := BitVec.ofNat 32 (kind + sub % 256 * 256)

/-- A record of Table 15-4; for a promise-missed trap that of Table 15-5, with the command index in `obj` and the promised
tick in `detail`. -/
def trapRecord (t : Trap) (pc : Nat) : BitVec 256 :=
  if t.kind = kPromise then BitVec.ofNat 256 (t.obj % 2 ^ 32 + t.detail % 2 ^ 64 * 2 ^ 64 + pc % 2 ^ 64 * 2 ^ 128)
  else BitVec.ofNat 256 (t.kind + t.sub % 256 * 2 ^ 8 + t.slot % 8 * 2 ^ 16 + pc % 2 ^ 64 * 2 ^ 64 + t.detail % 2 ^ 64 * 2 ^ 128 +
    t.obj % 2 ^ 24 * 2 ^ 192)

/-! ### Code (spec/05 R135, spec/13 R333, R439) -/

/-- A capability with its offset advanced. -/
def capAdvance (c : Cap) (d : Int) : Cap := BitVec.ofNat 128 (c.toNat / 2 ^ 64 * 2 ^ 64 + lowBits 64 ((capOffset c : Int) + d))

/-- n bytes at displacement d of a capability that hardware reads for itself (an image header); none if unreadable. -/
def Mod.capBytes (m : Mod) (c : Cap) (d n : Nat) (write : Bool) : Option (List Nat) :=
  match m.entry (capObject c) with
  | none => none
  | some e =>
    if !entValid e ∨ entLen e < capOffset c + d + n then none
    else (upTo n).mapM fun i =>
      match m.place (capObject c) e (capOffset c + d + i) write with
      | .phys a => if m.poisoned (entDp e) a then none else some a
      | _ => none

/-- A little-endian word that hardware reads through a capability. -/
def Mod.capWord (m : Mod) (c : Cap) (d n : Nat) : Option Nat :=
  (m.capBytes c d n false).map fun as => leNat (as.map fun a => m.outer (((m.entry (capObject c)).map entDp).getD false) a (m.byte a))

/-- Code section's offset of the supervisor image that svcode names (R439). -/
def Mod.svCode (m : Mod) (die : Nat) : Cap :=
  let c := (m.die die).svcode
  capAdvance c ((m.capWord c 8 4).getD 0)

/-! ### Bytes that an access finds -/

/-- The first failing byte of an access that breaks bounds [0, len), as an offset. -/
def firstBad (e : Int) (len : Nat) : Nat := lowBits 64 (if e < 0 then e else max e len)

/-- What an access finds at one byte. -/
inductive Found where
  | byte (b : Byte)
  /-- A racing byte: its physical address, the number of the store and its value (spec/04 R105). -/
  | newer (a seq : Nat) (b : Byte)
  | zero
  | poison
  | wait
  | page (pg : Nat)
  | ats (r : AtsReq)
  | fault (sub : Nat)
  | fetch (mo : BitVec 13) (rid : BitVec 24) (off : Nat)
  | domain (sub : Nat)
  | refused (sub : Nat)
deriving DecidableEq, Repr

/-- The byte that a finding delivers. -/
def Found.value : Found → Byte
  | .byte b | .newer _ _ b => b
  | _ => 0

/-- What a missing page of an object does to a bundle (R372). -/
def Ctx.missing (c : Ctx) (m : Mod) (obj : Nat) (e : Entry) (off : Nat) : Found :=
  if entType e = 2 ∧ !entNpr e then
    match c.pageFail with
    | some (o, p, sub) => if o = obj ∧ p = pageOf off then .fault sub
        else if m.noRequests (entHp e) then .fault 3 else .page (pageOf off)
    | none => if m.noRequests (entHp e) then .fault 3 else .page (pageOf off)
  else .fault 1

/-- A byte of another module: as fetched, refused (R370), or still to be asked for. -/
def Ctx.away (c : Ctx) (m : Mod) (mo : BitVec 13) (rid : BitVec 24) (o : Nat) : Found :=
  match tfind (remoteKey mo rid o) c.rcache with
  | some b => .byte b
  | none =>
    match c.remoteFail with
    | some (k, sub) =>
      if k = remoteKey mo rid (o / 16 * 16) then .refused sub
      else (m.domainFault mo).elim (.fetch mo rid o) .domain
    | none => (m.domainFault mo).elim (.fetch mo rid o) .domain

/-- One load request for each 16-byte block of the wanted bytes, with the wanted lanes in bmask (R403; log 19). -/
def Mod.loadRequests (m : Mod) (e : Entry) (want : List (BitVec 13 × BitVec 24 × Nat)) : List Packet :=
  let blocks := want.foldl (fun acc w => if acc.contains (w.1, w.2.1, w.2.2 / 16) then acc else acc ++ [(w.1, w.2.1, w.2.2 / 16)]) []
  blocks.map fun b =>
    let mask := (want.filter fun w => w.1 = b.1 ∧ w.2.1 = b.2.1 ∧ w.2.2 / 16 = b.2.2).foldl (fun x w => x ||| 1 <<< (w.2.2 % 16)) (0 : Nat)
    m.packet b.1 0 opLoad b.2.1 (16 * b.2.2) (BitVec.ofNat 16 mask) (entDp e) []

/-- Sub-codes that a refusal carries besides those of a protection fault (log 19): poisoned data, and a page that is not
resident. -/
def refPoison : Nat := 0x10
def refAbsent : Nat := 0x11

/-- The trap of an access that another module has refused (R370, R385): kind and sub-code. -/
def refusedTrap (sub psub : Nat) : Nat × Nat :=
  if sub = refPoison then (kPoison, psub) else if sub = refAbsent then (kPage, 1) else (kProtection, sub)

/-- The stop that the findings of an access lead to, the first that applies: a fault, requests for pages, translations and data,
what it waits for, then poison, with its sub-code. -/
def stopOf (m : Mod) (slot obj : Nat) (e : Entry) (psub : Nat) (wait : Stop) (fs : List (Nat × Found)) : Option Stop :=
  match fs.find? (fun f => match f.2 with | .fault _ => true | .domain _ => true | .refused _ => true | _ => false) with
  | some (o, .fault sub) => some (.trap ⟨kPage, sub, slot, o, obj⟩)
  | some (o, .refused sub) => some (.trap ⟨(refusedTrap sub psub).1, (refusedTrap sub psub).2, slot, o, obj⟩)
  | some (o, .domain sub) => some (.trap ⟨kDomain, sub, slot, o, obj⟩)
  | _ =>
    let pages := fs.foldl (fun acc f => match f.2 with | .page p => sins p acc | _ => acc) []
    let ats := (fs.filterMap fun f => match f.2 with | .ats r => some r | _ => none).eraseDups
    let pks := m.loadRequests e (fs.filterMap fun f => match f.2 with | .fetch mo rid o => some (mo, rid, o) | _ => none)
    if pages ≠ [] ∨ ats ≠ [] ∨ pks ≠ [] then
      some (.hold { pages := pages.map fun p => ⟨entHp e, BitVec.ofNat 24 obj, p, false, 0⟩, packets := pks, ats := ats })
    else if fs.any (fun f => f.2 = .wait) then some wait
    else match fs.find? (fun f => f.2 = .poison) with
      | some (o, _) => some (.trap ⟨kPoison, psub, slot, o, obj⟩)
      | none => none

/-- The fetch check of R135 at a code offset for a context, with the checks of R368, R370, R372 and R385: the 32 bytes, or the trap
or what the fetch waits for. -/
def Mod.fetch (m : Mod) (c : Ctx) (code : Cap) (part : Nat) (sv : Bool) (pc : Nat) : Except Stop (List Byte) :=
  let off := capOffset code + pc
  let obj := capObject code
  match checkCap code pc 32 rEx with
  | some sub => trapAt 7 kCapability sub (if sub = 3 then firstBad off (capLength code) else off) obj
  | none =>
    match m.protect obj off 32 rEx (capRights code) part sv with
    | some sub => trapAt 7 kProtection sub (if sub = 3 then firstBad off (((m.entry obj).map entLen).getD 0) else off) obj
    | none =>
      match m.entry obj with
      | none => trapAt 7 kProtection 1 off obj
      | some e =>
        let fs := (upTo 32).map fun i => (off + i, match m.place obj e (off + i) false with
          | .phys a => if m.poisoned (entDp e) a then Found.poison else .byte (m.outer (entDp e) a (m.byte a))
          | .absent => c.missing m obj e (off + i)
          | .miss r => .ats r
          | .remote mo rid o => c.away m mo rid o)
        match stopOf m 7 obj e 1 .wait fs with
        | some st => .error st
        | none => .ok (fs.map (·.2.value))

/-- The code capability of the issuing context: the image's, or the supervisor image's (R135, R439). -/
def Mach.code (m : Mach) : Cap :=
  if m.ctx.saved.isSome then m.mod.svCode (m.cid / 64)
  else
    let l := m.mod.launch (m.core.launch.getD 0)
    capAdvance l.record.image l.img.codeOff

/-! ### Taking an exception -/

/-- The supervisor can be entered for a kind: svcode is not null and the entry bundle passes its fetch check (R378); a page of it
that the module has still to ask for is waited for by the entry bundle itself. -/
def Mach.enterable (m : Mach) (kind : Nat) : Bool :=
  let die := m.cid / 64
  let d := m.mod.die die
  capLength d.svcode ≠ 0 &&
    match m.mod.fetch m.ctx (m.mod.svCode die) (m.mod.launch (m.core.launch.getD 0)).record.part true (d.tvec.toNat + 256 * kind) with
    | .error (.trap _) => false
    | _ => true

/-- Another context holds the supervisor bank, or one of lower index waits for it (R318). -/
def Mach.bankTaken (m : Mach) : Bool :=
  m.core.svHolder.isSome || (m.core.ctxs.take m.xid).any (·.waitBank)

/-- R317: switch the context in the issue stage to the supervisor bank. -/
def Mach.switchIn (m : Mach) (kind : Nat) (record : BitVec 256) (op : Option EngOp) : Mach :=
  let b := tget Bank.zero m.cid m.mod.svBanks
  let s := (((((b.s.set 0 (BitVec.ofNat 64 kind)).set 1 (BitVec.ofNat 64 m.xid)).set 2 (record.extractLsb' 0 64)).set 3
    (record.extractLsb' 64 64)).set 4 (record.extractLsb' 128 64)).set 5 (record.extractLsb' 192 64)
  let b' := { b with s := s, pc := (m.mod.die (m.cid / 64)).tvec + BitVec.ofNat 64 (256 * kind), depth := 0, delay := 0 }
  { m with
    core := { m.core with svHolder := some m.xid }
    ctx := { m.ctx with
      bank := b', saved := some m.ctx.bank, windows := [], savedWin := m.ctx.settle.windows
      poison := [], savedPoison := m.ctx.poison, pending := [], savedPend := m.ctx.pending, svKind := kind
      svRecord := record, svOp := op, waitBank := false } }

/-- Taking an exception, the one operation for every kind (R317, R318, R319, R378): a trap in the supervisor bank is a
supervisor fault; without a usable supervisor image the launch ends with the fault's code; while another context holds the
bank the context waits, Blocked; otherwise it switches to the supervisor bank. -/
def Mach.exception (m : Mach) (kind sub : Nat) (record : BitVec 256) (op : Option EngOp := none) : Mach :=
  let id := m.core.launch.getD 0
  if m.ctx.saved.isSome then { m with mod := m.mod.noteFault id (faultCode kind sub) m.ctx.user.handle }.endLaunch id 4
  else if !m.enterable kind then
    { m with mod := m.mod.endCode id (faultCode kind sub) m.ctx.bank.handle }.endLaunch id 2
  else if m.bankTaken then { m with ctx := { m.ctx with st := if m.ctx.st = .ending then .ending else .blocked, waitBank := true } }
  else m.switchIn kind record op

/-- Engine operations that a promise-missed report marks (spec/02 R73). -/
def Ctx.markMissed (c : Ctx) (cmds : List Nat) : Ctx :=
  { c with engine := c.engine.map fun o => if cmds.contains o.cmd then { o with missed := true } else o }

/-- A record for a consumption of poisoned data by the issuing core (spec/15 R387). -/
def Mach.logConsumed (m : Mach) (unit location : Nat) : Mach :=
  { m with mod := m.mod.logError (errorRecord 4 (m.cid / 64) unit m.core.lcore 1 location (m.core.launch.getD 0).toNat) }

/-- The unit whose data a poisoned-data trap consumes: registers and queue heads, the scratchpad, or memory (log 28). -/
def consumedUnit (t : Trap) : Nat := if t.sub = 2 ∨ t.sub = 4 then 2 else if t.sub = 3 ∧ t.obj = 0 then 1 else 5

/-- A trap of the bundle being issued: no slot has acted (R144), every earlier operation lands first (R148), and the
exception is taken with the record of Table 15-4. While the context waits for the supervisor bank the trap has not been taken: it
is raised again (spec/13 R318). -/
def State.raise (s : State) (t : Trap) : State :=
  if s.start.core.landed s.start.xid s.start.ctx then
    let waits := s.start.ctx.saved.isNone && s.start.enterable t.kind && s.start.bankTaken
    let c := if t.kind = kPromise ∧ !waits then s.start.ctx.markMissed [t.obj] else s.start.ctx
    let m0 := { s.start with ctx := { c with pageFail := none, remoteFail := none } }
    let m := if t.kind = kPoison ∧ !waits then m0.logConsumed (consumedUnit t) t.detail else m0
    { s with
      now := m.exception t.kind t.sub (trapRecord t m.ctx.bank.pc.toNat)
      iss := { s.iss with trapped := true, urgent := t.kind = kPage || t.kind = kPromise } }
  else { s with iss := { s.iss with held := true, heldElse := true } }

/-! ### Returning from an exception -/

/-- Free the supervisor bank and resume the user bank as it stands (R319). -/
def Mach.switchOut (m : Mach) : Mach :=
  match m.ctx.saved with
  | none => m
  | some b =>
    { m with
      mod := { m.mod with svBanks := tput Bank.zero m.cid m.ctx.bank m.mod.svBanks }
      core := { m.core with svHolder := none }
      ctx := { m.ctx with
        bank := b, saved := none, windows := m.ctx.savedWin, savedWin := []
        poison := m.ctx.savedPoison, savedPoison := [], pending := m.ctx.savedPend, savedPend := [], stuck := [], svOp := none } }

/-- The legs' addresses of a context (spec/01 R22). -/
def Launch.leg (l : Launch) (x : Nat) : Leg := l.img.legs.getD x ⟨0, 0, 0, 0⟩

/-! ### Engine operations at the end of a task -/

/-- The context's outstanding engine operations complete or park with a fault record; parked ones are dropped with what they
have written standing (spec/01 R35 step 2, spec/15 R381 step 1). -/
def Mach.dropEngines (m : Mach) : Mach :=
  { m with
    mod := m.ctx.engine.foldl Mod.flushOp m.mod
    ctx := { m.ctx with
      engine := [], acks := m.ctx.acks.filter fun a => !m.ctx.engine.any fun o => o.status = 0 && o.serial = some a } }

/-! ### Handler tasks (spec/01 R35, Table 01-6) -/

/-- A handler record. -/
def handlerRecord (task : Rec) (effect : Bool) (handle : W32) (code : W32) (record : BitVec 256) : Rec :=
  BitVec.ofNat 512 (task.toNat % 2 ^ 49 + 2 ^ 49 + (if effect then 2 ^ 50 else 0) + handle.toNat * 2 ^ 64 +
    code.toNat * 2 ^ 96 + record.toNat * 2 ^ 128 + task.toNat / 2 ^ 64 % 2 ^ 128 * 2 ^ 384)

/-- A work queue by die and index. -/
def Mod.queue (m : Mod) (die q : Nat) : WorkQueue := tget WorkQueue.reset q (m.die die).wq
def Mod.setQueue (m : Mod) (die q : Nat) (f : WorkQueue → WorkQueue) : Mod :=
  m.setDie die fun d => { d with wq := tmod WorkQueue.reset q f d.wq }

/-- A queue takes pushes: enabled and not closed. -/
def WorkQueue.open (w : WorkQueue) : Bool := w.cap ≠ 0 && !w.closed
def WorkQueue.full (w : WorkQueue) : Bool := decide (w.cap ≤ w.recs.length)

/-- Append a record, after those that the queue holds but for pushes of this very cycle by parties that come later (spec/04 R129). -/
def WorkQueue.insert (w : WorkQueue) (tick rank : Nat) (r : Rec) : WorkQueue :=
  let fresh := if w.freshTick = tick then w.freshRanks.drop (w.freshRanks.length - w.recs.length) else []
  let before := (fresh.takeWhile (decide <| · ≤ rank)).length
  let at' := w.recs.length - fresh.length + before
  { w with
    recs := w.recs.take at' ++ r :: w.recs.drop at'
    freshTick := tick, freshRanks := fresh.take before ++ rank :: fresh.drop before }

/-- Append a record to a queue, where it is held for the earliest popper that has none (R29); an event
feed posts it to its ring (spec/13 R338). -/
def Mod.push (m : Mod) (die q rank : Nat) (r : Rec) : Mod :=
  let w := m.queue die q
  if w.mode = 2 then m.post w.ring (setFld (setFld (r.setWidth 256) 32 8 0x10) 41 1 0)
  else m.setQueue die q fun w =>
    { w.insert m.tick rank r with reserved := if w.reserved < w.poppers.length then w.reserved + 1 else w.reserved }

/-- What still waits after a context has restarted at an entry: not its barrier, nor the requests of its held bundle. -/
def Pending.outlives : Pending → Bool
  | .barrier _ => false
  | .fetch _ => false
  | .joinAsk .. => false
  | .lines .. => false
  | _ => true

/-- Drop the task, set the fault flag and restart the context at its leg's entry (spec/01 R35 steps 4 to 6). -/
def Mach.restartFaulted (m : Mach) (entry : Nat) : Mach :=
  { m with ctx := { m.ctx with
      bank := ((m.ctx.bank.dropTask).setFlag statusFault true).restart entry, st := .ready, age := 0
      windows := m.ctx.windows.filter (·.reg ≠ .lrc)
      pending := m.ctx.pending.filter Pending.outlives, joinWait := none } }

/-- The launch of the issue stage ends under act 3 with a fault's code (spec/15 R379). -/
def Mach.endFaulted (m : Mach) (code : W32) : Mach :=
  let id := m.core.launch.getD 0
  { m with mod := m.mod.noteFault id code m.ctx.bank.handle }.endLaunch id 2

/-- The launch of the issue stage ends because a handler record cannot be pushed: the record carries that fault (spec/01 R35). -/
def Mach.endLost (m : Mach) (code handle : W32) : Mach :=
  let id := m.core.launch.getD 0
  { m with mod := m.mod.endCode id code handle }.endLaunch id 2

/-- A push on behalf of a fault waits: a release at .mod comes before it (spec/01 R28, R35), then room in its queue. -/
def Mach.pushLater (m : Mach) (p : Pending) : Mach :=
  { m with ctx := { m.ctx with
      pending := m.ctx.pending.filter Pending.outlives ++ (if m.settled then [p] else [Pending.publish .mod .nothing, p]), st := .blocked } }

/-- Nothing of the context comes before a push on behalf of a fault: its stores are at their homes and no such push waits. -/
def Mach.pushNow (m : Mach) : Bool :=
  m.settled && !m.ctx.pending.any fun p => match p with | .publish .. => true | .handler _ => true | .replay .. => true | _ => false

/-- Push a handler record, and count the fault as handed over. -/
def Mach.pushHand (m : Mach) (die q : Nat) (r : Rec) : Mach :=
  { m with mod := (m.mod.push die q m.selfRank r).setLaunch (m.core.launch.getD 0) fun l => { l with faults := l.faults + 1 } }

/-- Hand a fault over (spec/01 R35): the handler record goes to the handler queue as a release, waits for that, or the launch
ends. -/
def Mach.handOver (m : Mach) (code : W32) (record : BitVec 256) : Mach :=
  let id := m.core.launch.getD 0
  let l := m.mod.launch id
  let b := m.ctx.bank
  match l.record.hq with
  | none => m.endFaulted code
  | some (die, q) =>
    if !b.flag statusHeld then m.endFaulted code
    else
      let r := handlerRecord b.task (b.flag statusEffect) b.handle code record
      let m1 := m.dropEngines
      let m2 : Mach := { m1 with mod := m1.mod.noteFault id code b.handle }
      if !m2.pushNow then m2.pushLater (.handler r)
      else
        let w := m2.mod.queue die q
        if !w.open then m2.endLost code b.handle
        else if w.full then m2.pushLater (.handler r)
        else (m2.pushHand die q r).restartFaulted (l.leg m.xid).entry

/-- Task replay (spec/15 R381): the record returns to the tail of its queue as a release, or the fault is handed over. -/
def Mach.replayTask (m : Mach) (code : W32) (record : BitVec 256) : Mach :=
  let b := m.ctx.bank
  let die := fld b.handle 28 4
  let q := fld b.handle 22 6
  let w := m.mod.queue die q
  if !b.flag statusHeld ∨ (b.flag statusEffect ∧ !b.task.getLsbD 48) ∨ !w.open then m.handOver code record
  else
    let m1 := m.dropEngines
    if w.full ∨ !m1.pushNow then
      m1.pushLater (.replay b.task (handlerRecord b.task (b.flag statusEffect) b.handle code record))
    else ({ m1 with mod := m1.mod.push die q m1.selfRank b.task }).restartFaulted ((m.mod.launch (m.core.launch.getD 0)).leg m.xid).entry

/-- The other pending faults after a hand-over or replay: separate handler records, in order (spec/15 R379). b is the user
bank as it held the task. -/
def Mach.handRest (m : Mach) (b : Bank) : List PendFault → Mach
  | [] => { m with ctx := { m.ctx with faults := [] } }
  | f :: fs =>
    if m.core.launch.isNone then m
    else
      let code := faultCode f.kind f.sub
      let r := handlerRecord b.task (b.flag statusEffect) b.handle code f.record
      match (m.mod.launch (m.core.launch.getD 0)).record.hq with
      | none => m.endFaulted code
      | some (die, q) =>
        if !m.pushNow then (m.pushLater (.handler r)).handRest b fs
        else if !(m.mod.queue die q).open then m.endLost code b.handle
        else if (m.mod.queue die q).full then (m.pushLater (.handler r)).handRest b fs
        else (m.pushHand die q r).handRest b fs

/-- A disposition word of Table 15-6 is legal for the delivered kind (R379). -/
def dispositionOk (w : W64) (kind : Nat) : Bool :=
  let act := fld w 0 2
  let eng := w.getLsbD 2
  let defer := w.getLsbD 3
  fld w 4 60 == 0 && (eng || !defer) && (!eng || kind == 25) && (!eng || act == 0)

/-- The end of a handling (R379 to R382): the disposition word decides how the context goes on. `word` is s6 at bundle
start; the context is in its supervisor bank. -/
def Mach.exceptionReturn (m : Mach) (word : W64) : Mach :=
  let kind := m.ctx.svKind
  let record := m.ctx.svRecord
  let op := m.ctx.svOp
  let id := m.core.launch.getD 0
  let sub := if kind = 25 ∨ kind = 26 then record.toNat % 256 else if kind = 27 ∨ kind = 28 then 0 else fld record 8 8
  let code := faultCode kind sub
  let mapreqs := (m.ctx.engine.filter fun o => o.sv && (match o.body with | .mapreq .. => true | _ => false)).map (·.cmd)
  let m1 := m.switchOut
  let ending := m.ctx.st = .ending
  match fld word 0 2 with
  | 0 =>
    let m2 := if word.getLsbD 2 then
        match op with
        | some o => { m1 with ctx := { m1.ctx with engine := { o with defer := if word.getLsbD 3 then mapreqs else [] } :: m1.ctx.engine } }
        | none => m1
      else m1
    m2
  | 1 => if ending then m1.endFaulted code else
      (m1.handOver code record).handRest m1.ctx.bank m1.ctx.faults
  | 2 => if ending then m1.endFaulted code else
      (m1.replayTask code record).handRest m1.ctx.bank m1.ctx.faults
  | _ => { m1 with mod := m1.mod.noteFault id code m1.ctx.bank.handle }.endLaunch id 2

/-! ### Issuing a slot operation -/

/-- How a slot's answer moves the machine: its effect, a hold, or a trap. -/
def State.settle (s : State) : Act → State
  | .ok t => t
  | .error (.hold h) =>
    { s with iss := { s.iss with
        held := true, waitq := h.waitq.or s.iss.waitq, pageReqs := s.iss.pageReqs ++ h.pages
        packets := s.iss.packets ++ h.packets, ats := s.iss.ats ++ h.ats, missed := s.iss.missed ++ h.missed
        joinWait := h.join.or s.iss.joinWait, joinAsk := h.joinAsk || s.iss.joinAsk, lines := h.lines.or s.iss.lines, waitTick := h.tick.or s.iss.waitTick
        heldElse := s.iss.heldElse || h.tick.isNone } }
  | .error (.trap t) => s.raise t

/-- Issue a slot operation: an ill-formed one raises an illegal-encoding trap (spec/05 R142). -/
def State.issue (s : State) (slot : Nat) (wf : Bool) (a : Act) : Host.Outcome State Fault Refusal :=
  .next (if wf then s.settle a else s.raise ⟨kIllegal, slot, slot, 0, 0⟩)

/-- An event: when its condition does not hold nothing happens. -/
def State.event (s : State) (wf : Bool) (t : State) : Host.Outcome State Fault Refusal := .next (if wf then t else s)

/-- The slot number of a scalar unit. -/
def slotS : SU → Nat
  | .s0 => 0
  | .s1 => 1

/-- The slot number of a vector unit. -/
def slotV : VU → Nat
  | .v0 => 2
  | .v1 => 3

end Sys2Proof.Machine
end

