-- ==== Sys2Proof/Machine/Operands.lean ====
section
/-! DEFINITION. Operand forms (spec/05 R141, R142, Tables 05-5 and 05-6): every source is read from the view at the start of
the bundle (R143), with Undefined() inside open windows (R146), waiting queue heads (spec/01 R24) and poison
(spec/15 R385); results go to their register and the slot's latch (R45, R146). -/

namespace Sys2Proof.Machine

/-! ### Lanes -/

/-- Lane i of width w. -/
def lane (w : Nat) (v : VecReg) (i : Nat) : Nat := v.toNat / 2 ^ (w * i) % 2 ^ w

/-- n lanes of width w from lane 0 upwards, as a number. -/
def joinLanes (w : Nat) : List Nat → Nat
  | [] => 0
  | x :: xs => x % 2 ^ w + 2 ^ w * joinLanes w xs

/-- A vector from its lanes. -/
def ofLanes (w : Nat) (xs : List Nat) : VecReg := BitVec.ofNat 2048 (joinLanes w xs)

/-- The lanes of a vector. -/
def lanes (w : Nat) (v : VecReg) : List Nat := (upTo (2048 / w)).map (lane w v)

/-- Every lane holds the same code. -/
def splat (w code : Nat) : VecReg := BitVec.ofNat 2048 (code % 2 ^ w * ((2 ^ 2048 - 1) / (2 ^ w - 1)))

/-! ### Sources -/

/-- The value of a register or latch as a slot reads it. -/
def State.view {w : Nat} (s : State) (slot pos spec : Nat) (r : WReg) (v : BitVec w) : Except Stop (BitVec w) :=
  if s.start.ctx.poison.contains r then trapAt slot kPoison 2 spec 0
  else if s.start.ctx.open s.start.mod.tick r then .ok (s.free? w slot pos)
  else .ok v

/-- The head of a handoff queue at bundle start; an empty queue holds the bundle (spec/01 R18, R24). -/
def State.head (s : State) (slot spec : Nat) (q : Fin 8) : Except Stop VecReg :=
  match s.start.core.queues[q] with
  | [] => .error .wait
  | e :: _ => if e.poison then trapAt slot kPoison 4 spec 0 else .ok e.data

/-- The latch that a source names, as slot number. -/
def srcLatch : Src → Option Nat
  | .latS0 => some 0
  | .latS1 => some 1
  | .latV0 => some 2
  | .latV1 => some 3
  | .latM => some 4
  | .latX => some 5
  | .latC => some 6
  | _ => none

/-- ReadSource of kind scalar. -/
def State.scalar (s : State) (slot pos : Nat) (x : Src) : Except Stop W64 :=
  let sp := (encSrc x).toNat
  match x with
  | .s n => s.view slot pos sp (.s n) s.src.s[n]
  | .q n => do return (← s.head slot sp n).setWidth 64
  | .imm i => .ok (i.signExtend 64)
  | x =>
    match srcLatch x with
    | some k => s.view slot pos sp (.lat k) ((s.src.lat k).setWidth 64)
    | none => .ok 0

/-- ReadSource of kind vector with lane type t. -/
def State.vector (s : State) (slot pos : Nat) (t : Ty) (x : Src) : Except Stop VecReg :=
  let sp := (encSrc x).toNat
  match x with
  | .s n => do return splat t.width (← s.view slot pos sp (.s n) s.src.s[n]).toNat
  | .v n => s.view slot pos sp (.v n) s.src.v[n]
  | .q n => s.head slot sp n
  | .imm i => .ok (splat t.width (encodeNum t (Num.ofInt i.toInt) .rne false true))
  | x =>
    match srcLatch x with
    | some k =>
      if latWidth k = 64 then do return splat t.width (← s.view slot pos sp (.lat k) ((s.src.lat k).setWidth 64)).toNat
      else s.view slot pos sp (.lat k) (s.src.lat k)
    | none => .ok 0

/-- ReadSource of kind capability. -/
def State.cap (s : State) (slot pos : Nat) (x : Src) : Except Stop Cap :=
  let sp := (encSrc x).toNat
  match x with
  | .a n => s.view slot pos sp (.a n) s.src.a[n]
  | .q n => do return (← s.head slot sp n).setWidth 128
  | _ => .ok 0

/-- A capability register by number: the cap fields of shapes. -/
def State.capReg (s : State) (slot pos n : Nat) : Except Stop Cap :=
  let k : Fin 16 := Fin.ofNat 16 n
  s.view slot pos (0x40 + k.val) (.a k) s.src.a[k]

/-- ReadSource of kind predicate. -/
def State.pred (s : State) (slot pos : Nat) (x : Src) : Except Stop Pred :=
  match x with
  | .p n => s.view slot pos (encSrc x).toNat (.p n) s.src.p[n]
  | _ => .ok 0

/-- The guard of a G-format operation: p0 to p7 (Table 05-4). -/
def State.guard (s : State) (slot pos : Nat) (g : Fin 8) : Except Stop Pred :=
  s.pred slot pos (.p ⟨g.val, by omega⟩)

/-- ReadSource of kind shape. -/
def State.shape (s : State) (slot pos : Nat) (x : Src) : Except Stop Shape :=
  match x with
  | .sh n => s.view slot pos (encSrc x).toNat (.sh n) s.src.sh[n]
  | _ => .ok 0

/-- The data register of a store or push form: scalar, and vector. -/
def State.dataS (s : State) (slot pos : Nat) (d : Fin 64) : Except Stop W64 := s.scalar slot pos (.s d)
def State.dataV (s : State) (slot pos : Nat) (d : Fin 32) : Except Stop VecReg := s.view slot pos (0x50 + d.val) (.v d) s.src.v[d]

/-! ### Results -/

/-- What a latch of a slot holds after an n-bit result: the low bits are the result, bits above it are open (R45); a result
wider than the latch leaves it open (log 16). -/
def State.latched (s : State) (slot n : Nat) (v : VecReg) : VecReg :=
  if latWidth slot < n then s.free? 2048 slot 15
  else if n = latWidth slot then v
  else ((s.free? 2048 slot 15) >>> n <<< n) ||| (v &&& BitVec.ofNat 2048 (2 ^ n - 1))

/-- WriteDest: an n-bit result of a slot with bound l goes to its latch and, if named, its register (R146). -/
def State.result (s : State) (slot l n : Nat) (reg : Option WReg) (v : VecReg) : State :=
  s.onCtx fun c =>
    let c1 := match reg with
      | some r => c.put s.tick l r v
      | none => c
    c1.put s.tick l (.lat slot) (s.latched slot n v)

/-- Results by class of the destination. -/
def State.retS (s : State) (slot l : Nat) (d : Option (Fin 64)) (v : W64) : State :=
  s.result slot l 64 (d.map .s) (v.setWidth 2048)
def State.retA (s : State) (slot l : Nat) (d : Option (Fin 16)) (v : Cap) : State :=
  s.result slot l 128 (d.map .a) (v.setWidth 2048)
def State.retV (s : State) (slot l : Nat) (d : Option (Fin 32)) (v : VecReg) : State := s.result slot l 2048 (d.map .v) v
def State.retP (s : State) (slot l : Nat) (d : Option (Fin 24)) (v : Pred) : State :=
  s.result slot l 128 (d.map .p) (v.setWidth 2048)
def State.retSh (s : State) (slot l : Nat) (d : Option (Fin 16)) (v : Shape) : State :=
  s.result slot l 512 (d.map .sh) (v.setWidth 2048)

/-- A result still to land: the register and latch wait for the answer of a request (spec/05 R147). -/
def State.expect (s : State) (slot l : Nat) (reg : Option WReg) (req : Nat) : State :=
  s.onCtx fun c =>
    let c1 := match reg with
      | some r => c.opened s.tick l r (some req)
      | none => c
    c1.opened s.tick l (.lat slot) (some req)

/-- A fresh request number of the context. -/
def State.newReq (s : State) : Nat × State := (s.now.ctx.reqNext, s.onCtx fun c => { c with reqNext := c.reqNext + 1 })

/-- The random bits' context of a rounding in a slot (spec/03 R87): key s62, stream s63. -/
def State.rndCtx (s : State) (slot : Nat) : Except Stop RndCtx := do
  let k ← s.scalar slot 13 (.s 62)
  let t ← s.scalar slot 14 (.s 63)
  return ⟨k.toNat, t.toNat, slot, s.now.xid, s.start.core.lcore⟩

end Sys2Proof.Machine
end

