-- ==== Sys2Proof/Machine/Flags.lean ====
section
/-! DEFINITION. The flag computations of the manual: compares into scalars and predicates (spec/06 R164, spec/07 R200), the
saturation of adds and subs (spec/06 R164, spec/07 R197), and predicate bits of wide lanes. -/

namespace Sys2Proof.Machine

/-- The four compares and the unordered compare. -/
inductive Cmp where
  | eq | ne | lt | le | un
deriving DecidableEq, Repr

/-- A compare of exact values: NaN is unordered, −0 equals +0 (spec/07 R200). -/
def Cmp.num (c : Cmp) (a b : Num) : Bool :=
  match c with
  | .eq => a.eqv b
  | .ne => !a.eqv b
  | .lt => a.lt b
  | .le => a.lt b || a.eqv b
  | .un => a.isNan || b.isNan

/-- A compare of integers. -/
def Cmp.int (c : Cmp) (a b : Int) : Bool :=
  match c with
  | .eq => decide (a = b)
  | .ne => decide (a ≠ b)
  | .lt => decide (a < b)
  | .le => decide (a ≤ b)
  | .un => false

/-- 1 for true, 0 for false. -/
def flagBit (b : Bool) : W64 := if b then 1 else 0

/-- The exact value clamped to the type and narrowed (adds, subs). -/
def saturate (t : Ty) (x : Int) : Nat := lowBits t.width (clampInt x t.minInt t.maxInt)

/-- The reading of a code as an integer of the type. -/
def intOf (t : Ty) (code : Nat) : Int := if t.isSigned then sgn t.width code else ((code % 2 ^ t.width : Nat) : Int)

/-- A predicate from one bit per lane of width w: a wide lane sets the bit of every 16-bit lane it covers. -/
def predOfLanes (w : Nat) (bits : List Bool) : Pred :=
  let k := w / 16
  BitVec.ofNat 128 (joinLanes k (bits.map fun b => if b then 2 ^ k - 1 else 0))

/-- The predicate bit that governs lane i of width w: that of its lowest 16-bit lane. -/
def predLane (w : Nat) (p : Pred) (i : Nat) : Bool := p.getLsbD (w / 16 * i)

end Sys2Proof.Machine
end

