-- ==== Sys2Proof/Machine/Access.lean ====
section
/-! DEFINITION. Ordinary loads and stores of global memory (spec/02 R67, R69, spec/04 R103 to R106, spec/15 R368, R372,
R385), scratchpad accesses (spec/02 R50 to R60), publishing and refreshing (spec/04 R103, R109). -/

namespace Sys2Proof.Machine

/-! ### Checks of a capability access -/

/-- CheckCap, then the object-table check, then alignment (R67, R368, R377): the object offset of the access. -/
def State.capAccess (s : State) (slot : Nat) (c : Cap) (d : Int) (n align : Nat) (rights : BitVec 6) : Except Stop Nat :=
  let e := (capOffset c : Int) + d
  let obj := capObject c
  match checkCap c d n rights with
  | some sub => trapAt slot kCapability sub (if sub = 3 then firstBad e (capLength c) else lowBits 64 e) obj
  | none =>
    match s.start.mod.protect obj e n rights (capRights c) s.part s.sv with
    | some sub =>
      trapAt slot kProtection sub (if sub = 3 then firstBad e (((s.start.mod.entry obj).map entLen).getD 0) else lowBits 64 e) obj
    | none =>
      if e.toNat % align ≠ 0 then trapAt slot kAlignment 0 (lowBits 64 e) obj
      else .ok e.toNat

/-- The sector of a byte is pending for an engine operation (spec/04 R124). -/
def EngOp.pends (o : EngOp) (obj off : Nat) : Bool := o.wr.any fun r => r.touches obj (off / 128 * 128) 128

/-- A dirty byte is poisoned: some byte of its sector is (spec/15 R384). -/
def Ctx.dirtyBad (c : Ctx) (key : Nat) : Bool := c.unpubPoison.any (· / 128 = key / 128)

/-- A clean byte that a .nr load finds in the L1 data cache, resident or not (spec/02 R70), else +0. -/
def State.cached (s : State) (key : Nat) : Found :=
  match tfind key s.start.ctx.l1 with
  | some b => if Config.stillCached s.free key then .byte b else .zero
  | none => .zero

/-- One byte of an ordinary load (R105): a sector pending for an engine operation is waited for (R124); otherwise the latest
unpublished store, else the snapshot, else either side of a race. -/
def State.find (s : State) (obj : Nat) (e : Entry) (off : Nat) (nr : Bool) : Found :=
  let key := cellKey obj off
  if s.start.ctx.engine.any fun o => o.pends obj off then .wait
  else match tfind key s.start.ctx.unpub with
  | some b => if s.start.ctx.dirtyBad key then .poison else .byte b
  | none =>
    match s.start.mod.place obj e off false with
      | .absent => if nr then s.cached key else s.start.ctx.missing s.start.mod obj e off
      | .miss r => if nr then s.cached key else .ats r
      | .remote mo rid o => s.start.ctx.away s.start.mod mo rid o
      | .phys a =>
        if s.start.mod.poisoned (entDp e) a then .poison
        else
          let m := s.start.mod
          let old := m.outer (entDp e) a (Memory.read s.start.ctx.snap a)
          match s.start.mod.later s.start.self (tget 0 a s.start.ctx.seen) a with
          | some (q, new) =>
            let new := m.outer (entDp e) a new
            if old = new then .byte old else if Config.raceTakesNew s.free a then .newer a q new else .byte old
          | none => .byte old

/-- What a load brings into the context: racing bytes settle in the snapshot (R105, R108), and clean bytes stay in the L1 data
cache. -/
def Ctx.loaded (c : Ctx) (obj : Nat) (fs : List (Nat × Found)) : Ctx :=
  let new := fs.filterMap fun f => match f.2 with | .newer a q b => some (a, q, b) | _ => none
  let clean := fs.filter fun f => f.2 ≠ .zero && (tfind (cellKey obj f.1) c.unpub).isNone
  { c with
    snap := Memory.store c.snap (new.map fun x => (x.1, x.2.2))
    seen := new.foldl (fun t x => tput 0 x.1 x.2.1 t) c.seen
    l1 := clean.foldl (fun t f => tset (cellKey obj f.1) f.2.value t) c.l1 }

/-- An ordinary load of n bytes at a checked object offset (R105): the bytes, which of them lay in non-resident pages (.nr
only), and the machine after it. -/
def State.loadFrom (s : State) (slot obj off n : Nat) (nr : Bool) : Except Stop (List Byte × List Bool × State) :=
  match s.start.mod.entry obj with
  | none => trapAt slot kProtection 1 off obj
  | some e =>
    let fs := (upTo n).map fun i => (off + i, s.find obj e (off + i) nr)
    let wait := s.engineWait slot (s.start.ctx.engine.filter fun o => fs.any fun f => f.2 = .wait && o.pends obj f.1)
    match stopOf s.start.mod slot obj e 3 wait fs with
    | some st => .error st
    | none => .ok (fs.map (·.2.value), fs.map (fun f => f.2 = .zero), s.onCtx fun c => c.loaded obj fs)

/-- The view with every poisoned register and queue head taken as its value: poisoned data is the last thing that an access slot
checks (spec/15 R377). -/
def State.calm (s : State) : State :=
  { s with start := { s.start with
    ctx := { s.start.ctx with poison := [] }
    core := { s.start.core with queues := s.start.core.queues.map fun l => l.map fun e => { e with poison := false } } } }

/-- The capability and displacement of an access slot, and its checks up to alignment: the object offset. -/
def State.globalAt (s : State) (slot : Nat) (a b : Src) (n align : Nat) (rights : BitVec 6) : Except Stop (Cap × Nat) := do
  let c ← s.calm.cap slot 0 a
  let x ← s.calm.scalar slot 1 b
  let off ← s.capAccess slot c x.toInt n align rights
  return (c, off)

/-- The operands a and b of an access slot hold no poisoned data (spec/15 R377, R385). -/
def State.cleanCap (s : State) (slot : Nat) (a b : Src) : Except Stop Unit := do
  let _ ← s.cap slot 0 a
  let _ ← s.scalar slot 1 b
  return ()
def State.cleanScalar (s : State) (slot : Nat) (a b : Src) : Except Stop Unit := do
  let _ ← s.scalar slot 0 a
  let _ ← s.scalar slot 1 b
  return ()

/-- An ordinary load of n bytes at capability a plus b (R173). -/
def State.load (s : State) (slot : Nat) (a b : Src) (n align : Nat) (nr : Bool) : Except Stop (List Byte × List Bool × State) := do
  let (c, off) ← s.globalAt slot a b n align rLd
  s.cleanCap slot a b
  s.loadFrom slot (capObject c) off n nr

/-- Poisoned sectors of unpublished stores after stores to keys: one that is written in full is clean (spec/15 R384). -/
def dirtyPoison (old keys : List Nat) : List Nat :=
  old.filter fun x => !decide (128 ≤ (keys.filter (· / 128 = x / 128)).length)

/-- An ordinary store enters the context's unpublished stores (R103); it never faults for residency (R372). -/
def State.storeAt (s : State) (obj off : Nat) (data : List Byte) : State :=
  s.onCtx fun k =>
    let keys := (upTo data.length).map fun i => cellKey obj (off + i)
    { k with
      unpub := (keys.zip data).foldl (fun t e => tset e.1 e.2 t) k.unpub
      unpubPoison := dirtyPoison k.unpubPoison keys
      out := k.out.filter fun e => !keys.contains e.1 }

/-! ### The scratchpad -/

/-- Bank size S (R50). -/
def State.spBank (s : State) : Nat := s.rcd.gSp * 512

/-- A checked scratchpad address: the place of the core in the cluster, and the offset. -/
structure SpAddr where
  core : Nat
  off : Nat
deriving DecidableEq, Repr

/-- The core and offset that an address word names (Table 02-5). -/
def State.spAddr (s : State) (a : Nat) : SpAddr :=
  ⟨if a.testBit 25 then s.place else a / 2 ^ 22 % 8, a % 2 ^ 22⟩

/-- R52: whether an access of n bytes at an address word is in range for a launch. -/
def LaunchRec.spOk (r : LaunchRec) (a n : Nat) : Bool :=
  decide (a < 2 ^ 26) && decide (a % 2 ^ 22 + n ≤ r.gSp * 16384) &&
    (n = 0 || decide (a % 2 ^ 22 / (r.gSp * 512) = (a % 2 ^ 22 + n - 1) / (r.gSp * 512))) &&
    (a.testBit 25 || decide (a / 2 ^ 22 % 8 < r.clusterCores))
def State.spOk (s : State) (a n : Nat) : Bool := s.rcd.spOk a n

/-- R52: range, then alignment. -/
def State.spCheck (s : State) (slot a n : Nat) : Except Stop SpAddr :=
  if !s.spOk a n then trapAt slot kScratch 0 a 0
  else if a % (if n ≤ 128 then n else 128) ≠ 0 then trapAt slot kAlignment 0 a 0
  else .ok (s.spAddr a)

/-- A byte of a scratchpad; Undefined() until the launch has written it (R43). -/
def Core.spByte (k : Core) (draw off : Nat) : Byte := (tfind off k.sp).getD (Config.undef 8 draw 7 off)

def Core.spBytesAt (k : Core) (draw off n : Nat) : List Byte := (upTo n).map fun i => k.spByte draw (off + i)

/-- Every line is full. -/
def Core.linesFull (k : Core) (ls : List Nat) : Bool := ls.all k.full.contains

/-- Poisoned granules under n bytes. -/
def Core.spBad (k : Core) (off n : Nat) : Bool := n ≠ 0 && k.spPoison.any fun g => decide (off / 8 ≤ g) && decide (g ≤ (off + n - 1) / 8)

/-- Write scratchpad bytes. -/
def Core.spWrite (k : Core) (off : Nat) (data : List Byte) : Core :=
  let cells := data.mapIdx fun i b => (off + i, b)
  { k with sp := cells.foldl (fun t e => tset e.1 e.2 t) k.sp, spPoison := poisonAfter 8 k.spPoison (cells.map (·.1)) [] }

def Core.setFull (k : Core) (ls : List Nat) : Core := { k with full := ls.foldl (fun t l => sins l t) k.full }
def Core.setEmpty (k : Core) (ls : List Nat) : Core := { k with full := k.full.filter fun l => !ls.contains l }

/-- An operation writes into one of the lines of the core at this place of the cluster. -/
def EngOp.fills (o : EngOp) (place : Nat) (ls : List Nat) : Bool :=
  o.wr.any fun r => r.space = 1 && r.obj = place && ls.any fun l => decide (r.off < 128 * l + 128) && decide (128 * l < r.off + r.len)

/-- Local lines are full, or the bundle cannot issue (R18, R73). -/
def State.lineWait (s : State) (slot : Nat) (ls : List Nat) : Except Stop Unit :=
  let empty := ls.filter fun l => !s.start.core.full.contains l
  if empty = [] then .ok ()
  else .error (s.engineWait slot (s.start.ctx.engine.filter fun o => o.fills s.place empty))

/-- A waiting read of local lines at bundle start: holds while a line is empty, traps on poison; consuming reads empty the
lines (R59, R60). -/
def State.spRead (s : State) (slot off n : Nat) (cons : Bool) : Except Stop (List Byte × State) := do
  let ls := linesOf off n
  s.lineWait slot ls
  if s.start.core.spBad off n then trapAt slot kPoison 3 off 0
  else return (s.start.core.spBytesAt s.free off n, if cons then s.onCore fun k => k.setEmpty ls else s)

/-- A request to the bank of another core of the cluster (R61): it arrives in a later cycle. -/
def State.remote (s : State) (slot : Nat) (t : SpAddr) (req : Nat) (dst : Option WReg) (act : RemoteAct) : State :=
  { s with now := s.now.onCore (s.peer t.core) fun k =>
      { k with reqs := k.reqs ++ [⟨s.now.cid, s.now.xid, req, s.tick, t.off, act, dst, slot, s.src.pc, s.sv⟩] } }

/-! ### Publishing and refreshing -/

/-- Refresh at a scope (R103, log 5). -/
def Mach.refresh (m : Mach) (t : Scope) : Mach := { m with ctx := m.ctx.refreshed m.mod m.self t }

/-- Where an unpublished byte goes. -/
inductive Dest where
  | phys (a : Nat) (dp : Option Nat)
  | remote (mo : BitVec 13) (rid : BitVec 24) (off : Nat) (dp : Bool)
  | busy
  | page (r : PageReq)
  | ats (r : AtsReq)
  | fail (sub : Nat) (obj off : Nat)
deriving DecidableEq, Repr

/-- R109, R372: the destination of an unpublished byte under the entry current at its publish; while an outstanding engine
operation has still to read or write the byte it stays, unless that operation waits for it (R124). -/
def Mach.destOf (m : Mach) (key : Nat) : Dest :=
  let obj := key / 2 ^ 64
  let off := key % 2 ^ 64
  let place := m.lplace m.cid
  let bank := m.spBankOf m.cid
  if m.ctx.engine.any fun o => !o.awaits.contains key && ((o.rest place bank).1 ++ (o.rest place bank).2).any fun r => r.touches obj off 1 then .busy
  else match m.mod.entry obj with
    | none => .fail 4 obj off
    | some e =>
      if !entValid e ∨ entLen e ≤ off then .fail 4 obj off
      else match m.mod.place obj e off true with
        | .phys a => .phys a (dpOf obj e)
        | .remote mo rid o => if (m.mod.domainFault mo).isSome then .fail (30 + (m.mod.domainFault mo).getD 0) obj off else .remote mo rid o (entDp e)
        | .miss r => .ats r
        | .absent =>
          if entType e = 2 ∧ !entNpr e ∧ !m.mod.noRequests (entHp e) ∧
              !(match m.ctx.pageFail with | some (o, p, _) => o = obj && p = pageOf off | none => false)
          then .page ⟨entHp e, BitVec.ofNat 24 obj, pageOf off, true, 0⟩
          else .fail 4 obj off

/-- Send page requests that are not yet outstanding, as one group (R372). -/
def Mod.request (m : Mod) (rs : List PageReq) : Mod :=
  let fresh := rs.filter fun r => !m.pageReqs.any fun x => x.port = r.port ∧ x.obj = r.obj ∧ x.page = r.page
  if fresh = [] then m
  else { m with
    pageReqs := fresh.foldl (fun t r => if t.any fun x => x.port = r.port ∧ x.obj = r.obj ∧ x.page = r.page then t else t ++ [{ r with group := m.prGroup }]) m.pageReqs
    prGroup := m.prGroup + 1 }

/-- The number of the latest publication of a byte. -/
def Mod.newest (m : Mod) (a : Nat) : Nat :=
  match tfind a m.pubs with
  | some (p :: _) => p.seq
  | _ => 0

/-- One attempt to publish at a scope (none: to bring home for a strong access, R116) every unpublished byte of the context that
`which` selects (R109): bytes reach their homes, remote bytes leave as stores and are published once acknowledged, missing pages
and translations are requested, failures become pending page faults. -/
def Mach.publishBytes (m : Mach) (sc : Option Scope) (which : Nat → Bool) : Mach :=
  let sv := m.ctx.saved.isSome
  let mine := m.ctx.unpub.filter fun e => which e.1 && !(sv && m.ctx.stuck.contains e.1) && (tfind e.1 m.ctx.out).isNone
  let ds := mine.map fun e => (e, m.destOf e.1)
  let phys := ds.filterMap fun d => match d.2 with | .phys a p => some (p, d.1.1, a, d.1.2) | _ => none
  let out := if m.ctx.faults ≠ [] then [] else
    ds.filterMap fun d => match d.2 with | .remote mo rid o dp => some (d.1.1, mo, rid, o, dp, d.1.2) | _ => none
  let pages := ds.filterMap fun d => match d.2 with | .page r => some r | _ => none
  let ats := ds.filterMap fun d => match d.2 with | .ats r => some r | _ => none
  let bad := fun (l : List (Nat × Nat × Byte)) => (l.filter fun x => m.ctx.dirtyBad x.1).map fun x => x.2.1
  let fails := ds.filterMap fun d => match d.2 with | .fail sub o f => some (sub, o, f) | _ => none
  let stuck := ds.filterMap fun d => match d.2 with | .fail .. => some d.1.1 | _ => none
  let cells := fun (l : List (Nat × Nat × Byte)) => l.map fun x => (x.2.1, x.2.2)
  let all := phys.map (·.2)
  let home := ((phys.map (·.1)).eraseDups).foldl (fun (mo : Mod) dp =>
    let l := (phys.filter (·.1 = dp)).map (·.2)
    mo.publishCells dp (.ctx m.self) sc (cells l) (bad l)) m.mod
  let mod1 := (home.request pages).askAts ats
  let mod2 := out.foldl (fun mo x =>
    let pk := mo.packet x.2.1 0 opStore x.2.2.1 x.2.2.2.1 (blockOf x.2.2.2.1 [x.2.2.2.2.2]).2 x.2.2.2.2.1 [(blockOf x.2.2.2.1 [x.2.2.2.2.2]).1]
    mo.send { pk with ofl := m.ctx.dirtyBad x.1 }) mod1
  let gone := all.map (·.1)
  let serials := out.mapIdx fun i x => (m.ctx.ackNext + i) * 2 ^ 13 + x.2.1.toNat
  let faults := match fails, m.ctx.faults with
    | (sub, o, f) :: _, [] =>
      let kind := if 30 < sub then kDomain else kPage
      let sub' := if 30 < sub then sub - 30 else sub
      [⟨kind, sub', trapRecord ⟨kind, sub', 7, f, o⟩ m.ctx.bank.pc.toNat, m.mod.tick, 0, none, sv⟩]
    | _, _ => []
  { m with
    mod := mod2
    ctx := { m.ctx with
      unpub := m.ctx.unpub.filter fun e => !gone.contains e.1
      unpubPoison := m.ctx.unpubPoison.filter fun k => !gone.contains k
      snap := Memory.store m.ctx.snap (cells all)
      seen := (cells all).foldl (fun t x => tput 0 x.1 (mod1.newest x.1) t) m.ctx.seen
      l1 := m.ctx.l1.filter fun e => !gone.contains e.1
      ackNext := m.ctx.ackNext + serials.length
      out := (out.zip serials).foldl (fun t x => tset x.1.1 x.2 t) m.ctx.out
      pending := if serials = [] then m.ctx.pending else m.ctx.pending ++ [Pending.acks serials]
      stuck := if sv then m.ctx.stuck else stuck
      faults := m.ctx.faults ++ faults } }

/-- No remote scratchpad read of the context is outstanding (R110). -/
def Mach.readsQuiet (m : Mach) : Bool :=
  (m.mod.launch (m.core.launch.getD 0)).cores.all fun c => (m.coreAt c).reqs.all fun r => !(r.core = m.cid && r.ctx = m.xid)

/-- The unpublished bytes that a publish is for: all, or those under an engine operation's reads (R124). -/
def After.picks (a : After) (key : Nat) : Bool :=
  match a with
  | .reads ks => ks.contains key
  | _ => true

/-- A publish is complete before what follows it (R109); a phase also waits for the context's remote scratchpad reads (R110). -/
def Mach.publishDone (m : Mach) (after : After) : Bool :=
  (m.ctx.unpub.all fun e => !after.picks e.1 || (m.ctx.saved.isSome && m.ctx.stuck.contains e.1)) &&
    (match after with | .reads _ => true | .refresh _ => m.remoteQuiet && m.readsQuiet | _ => m.remoteQuiet) &&
    !m.ctx.pending.any fun p => match p with | .acks _ => true | _ => false

/-- Publish at a scope (R103): what the context has sent home before is published too (R116); the machine after the attempt, and
whether it is complete. -/
def Mach.publish (m : Mach) (sc : Scope) (after : After) : Mach × Bool :=
  let m0 : Mach := match after with
    | .reads _ => m
    | _ => { m with mod := m.mod.widen m.self sc }
  let m1 := m0.publishBytes (some sc) after.picks
  (m1, m1.publishDone after)

/-- Publish, then do what follows; an incomplete publish holds the next bundle with what is to follow (R109). -/
def State.publishThen (s : State) (sc : Scope) (after : After) (next : State → State) : State :=
  let r := s.now.publish sc after
  if r.2 then next { s with now := r.1 }
  else { s with now := { r.1 with ctx := { r.1.ctx with pending := r.1.ctx.pending ++ [Pending.publish sc after] } } }

end Sys2Proof.Machine
end

