-- ==== Sys2Proof/Machine/Scalar.lean ====
section
/-! DEFINITION. Scalar arithmetic, logic, shifts, compares, immediates, moves and bit counts (spec/06 R163 to R165, Tables
06-1 to 06-3). -/

namespace Sys2Proof.Machine

/-- A scalar operation of two sources with bound l (R163). -/
def alu2 (u : SU) (d : Option (Fin 64)) (a b : Src) (l : Nat) (f : W64 → W64 → W64) (s : State) :
    Host.Outcome State Fault Refusal :=
  s.issue (slotS u) (a.scalarOk && b.scalarOk) do
    let x ← s.scalar (slotS u) 0 a
    let y ← s.scalar (slotS u) 1 b
    return s.retS (slotS u) l d (f x y)

/-- A scalar operation of one source with bound l. -/
def alu1 (u : SU) (d : Option (Fin 64)) (a : Src) (l : Nat) (f : W64 → W64) (s : State) : Host.Outcome State Fault Refusal :=
  s.issue (slotS u) a.scalarOk do
    let x ← s.scalar (slotS u) 0 a
    return s.retS (slotS u) l d (f x)

/-- An immediate form that reads its own destination (Table 06-3). -/
def aluImm (u : SU) (d : Fin 64) (f : W64 → W64) (s : State) : Host.Outcome State Fault Refusal :=
  s.issue (slotS u) true do
    let x ← s.scalar (slotS u) 0 (.s d)
    return s.retS (slotS u) 1 (some d) (f x)

/-- A 32-bit operation whose result is sign-extended from bit 31. -/
def sx32 (f : W32 → W32 → W32) (a b : W64) : W64 := (f (a.setWidth 32) (b.setWidth 32)).signExtend 64
/-- A 32-bit operation whose result is zero-extended. -/
def zx32 (f : W32 → W32 → W32) (a b : W64) : W64 := (f (a.setWidth 32) (b.setWidth 32)).setWidth 64

/-- Signed quotient, truncated toward zero: all ones by zero; the most negative number by −1 is itself (R165). -/
def divS {w : Nat} (a b : BitVec w) : BitVec w := if b = 0 then BitVec.allOnes w else BitVec.ofInt w (Int.tdiv a.toInt b.toInt)
def remS {w : Nat} (a b : BitVec w) : BitVec w := if b = 0 then a else BitVec.ofInt w (Int.tmod a.toInt b.toInt)
/-- Unsigned quotient and remainder (R165). -/
def divZ {w : Nat} (a b : BitVec w) : BitVec w := if b = 0 then BitVec.allOnes w else BitVec.ofNat w (a.toNat / b.toNat)
def remZ {w : Nat} (a b : BitVec w) : BitVec w := if b = 0 then a else BitVec.ofNat w (a.toNat % b.toNat)

/-- The width that sext and zext take from b: b[5:0], 0 meaning 64. -/
def extWidth (b : W64) : Nat := if b.toNat % 64 = 0 then 64 else b.toNat % 64

/-- Leading and trailing zeros, and set bits. -/
def clz64 (a : W64) : W64 := BitVec.ofNat 64 (64 - bitLen a.toNat)
def ctz64 (a : W64) : W64 := BitVec.ofNat 64 (if a = 0 then 64 else bitLen ((a &&& (0 - a)).toNat) - 1)
def countOnes (w n : Nat) : Nat := ((upTo w).filter n.testBit).length

/-- Table 06-1, major 0x01: a + b. -/
def execAddI64 (u : SU) (d : Option (Fin 64)) (a b : Src) (s : State) : Host.Outcome State Fault Refusal :=
  alu2 u d a b 1 (fun a b => a + b) s

/-- Table 06-1, major 0x01: a − b. -/
def execSubI64 (u : SU) (d : Option (Fin 64)) (a b : Src) (s : State) : Host.Outcome State Fault Refusal :=
  alu2 u d a b 1 (fun a b => a - b) s

/-- Table 06-1, major 0x01: the smaller, signed. -/
def execMinI64 (u : SU) (d : Option (Fin 64)) (a b : Src) (s : State) : Host.Outcome State Fault Refusal :=
  alu2 u d a b 1 (fun a b => if a.slt b then a else b) s

/-- Table 06-1, major 0x01: the larger, signed. -/
def execMaxI64 (u : SU) (d : Option (Fin 64)) (a b : Src) (s : State) : Host.Outcome State Fault Refusal :=
  alu2 u d a b 1 (fun a b => if a.slt b then b else a) s

/-- Table 06-1, major 0x01: the clamped signed sum. -/
def execAddsI64 (u : SU) (d : Option (Fin 64)) (a b : Src) (s : State) : Host.Outcome State Fault Refusal :=
  alu2 u d a b 1 (fun a b => BitVec.ofNat 64 (saturate .i64 (a.toInt + b.toInt))) s

/-- Table 06-1, major 0x01: the smaller, unsigned. -/
def execMinZ64 (u : SU) (d : Option (Fin 64)) (a b : Src) (s : State) : Host.Outcome State Fault Refusal :=
  alu2 u d a b 1 (fun a b => if a.ult b then a else b) s

/-- Table 06-1, major 0x01: the larger, unsigned. -/
def execMaxZ64 (u : SU) (d : Option (Fin 64)) (a b : Src) (s : State) : Host.Outcome State Fault Refusal :=
  alu2 u d a b 1 (fun a b => if a.ult b then b else a) s

/-- Table 06-1, major 0x02, on 32 bits: a + b. -/
def execAddI32 (u : SU) (d : Option (Fin 64)) (a b : Src) (s : State) : Host.Outcome State Fault Refusal :=
  alu2 u d a b 1 (sx32 fun a b => a + b) s

/-- Table 06-1, major 0x02, on 32 bits: a − b. -/
def execSubI32 (u : SU) (d : Option (Fin 64)) (a b : Src) (s : State) : Host.Outcome State Fault Refusal :=
  alu2 u d a b 1 (sx32 fun a b => a - b) s

/-- Table 06-1, major 0x02, on 32 bits: the smaller, signed. -/
def execMinI32 (u : SU) (d : Option (Fin 64)) (a b : Src) (s : State) : Host.Outcome State Fault Refusal :=
  alu2 u d a b 1 (sx32 fun a b => if a.slt b then a else b) s

/-- Table 06-1, major 0x02, on 32 bits: the larger, signed. -/
def execMaxI32 (u : SU) (d : Option (Fin 64)) (a b : Src) (s : State) : Host.Outcome State Fault Refusal :=
  alu2 u d a b 1 (sx32 fun a b => if a.slt b then b else a) s

/-- Table 06-1, major 0x02, on 32 bits: the clamped signed sum. -/
def execAddsI32 (u : SU) (d : Option (Fin 64)) (a b : Src) (s : State) : Host.Outcome State Fault Refusal :=
  alu2 u d a b 1 (sx32 fun a b => BitVec.ofNat 32 (saturate .i32 (a.toInt + b.toInt))) s

/-- Table 06-1, major 0x02, on 32 bits: the smaller, unsigned. -/
def execMinZ32 (u : SU) (d : Option (Fin 64)) (a b : Src) (s : State) : Host.Outcome State Fault Refusal :=
  alu2 u d a b 1 (zx32 fun a b => if a.ult b then a else b) s

/-- Table 06-1, major 0x02, on 32 bits: the larger, unsigned. -/
def execMaxZ32 (u : SU) (d : Option (Fin 64)) (a b : Src) (s : State) : Host.Outcome State Fault Refusal :=
  alu2 u d a b 1 (zx32 fun a b => if a.ult b then b else a) s

/-- Table 06-2, major 0x03. -/
def execAnd (u : SU) (d : Option (Fin 64)) (a b : Src) (s : State) : Host.Outcome State Fault Refusal :=
  alu2 u d a b 1 (fun a b => a &&& b) s

/-- Table 06-2, major 0x03. -/
def execOr (u : SU) (d : Option (Fin 64)) (a b : Src) (s : State) : Host.Outcome State Fault Refusal :=
  alu2 u d a b 1 (fun a b => a ||| b) s

/-- Table 06-2, major 0x03. -/
def execXor (u : SU) (d : Option (Fin 64)) (a b : Src) (s : State) : Host.Outcome State Fault Refusal :=
  alu2 u d a b 1 (fun a b => a ^^^ b) s

/-- Table 06-2, major 0x03. -/
def execAndn (u : SU) (d : Option (Fin 64)) (a b : Src) (s : State) : Host.Outcome State Fault Refusal :=
  alu2 u d a b 1 (fun a b => a &&& ~~~b) s

/-- Table 06-2, major 0x03. -/
def execOrn (u : SU) (d : Option (Fin 64)) (a b : Src) (s : State) : Host.Outcome State Fault Refusal :=
  alu2 u d a b 1 (fun a b => a ||| ~~~b) s

/-- Table 06-2, major 0x03: not a. -/
def execNot (u : SU) (d : Option (Fin 64)) (a : Src) (s : State) : Host.Outcome State Fault Refusal :=
  alu1 u d a 1 (fun a => ~~~a) s

/-- Table 06-2, major 0x04: b is an unsigned 64-bit count. -/
def execShl (u : SU) (d : Option (Fin 64)) (a b : Src) (s : State) : Host.Outcome State Fault Refusal :=
  alu2 u d a b 1 (fun a b => if 64 ≤ b.toNat then 0 else a <<< b.toNat) s

/-- Table 06-2, major 0x04: b is an unsigned 64-bit count. -/
def execShr (u : SU) (d : Option (Fin 64)) (a b : Src) (s : State) : Host.Outcome State Fault Refusal :=
  alu2 u d a b 1 (fun a b => if 64 ≤ b.toNat then 0 else a >>> b.toNat) s

/-- Table 06-2, major 0x04: b is an unsigned 64-bit count. -/
def execSar (u : SU) (d : Option (Fin 64)) (a b : Src) (s : State) : Host.Outcome State Fault Refusal :=
  alu2 u d a b 1 (fun a b => a.sshiftRight (min b.toNat 64)) s

/-- Table 06-2, major 0x05: 1 if the relation holds, otherwise 0. -/
def execCeq (u : SU) (d : Option (Fin 64)) (a b : Src) (s : State) : Host.Outcome State Fault Refusal :=
  alu2 u d a b 1 (fun a b => flagBit (Cmp.eq.int a.toInt b.toInt)) s

/-- Table 06-2, major 0x05: 1 if the relation holds, otherwise 0. -/
def execCne (u : SU) (d : Option (Fin 64)) (a b : Src) (s : State) : Host.Outcome State Fault Refusal :=
  alu2 u d a b 1 (fun a b => flagBit (Cmp.ne.int a.toInt b.toInt)) s

/-- Table 06-2, major 0x05: 1 if the relation holds, otherwise 0. -/
def execCltI64 (u : SU) (d : Option (Fin 64)) (a b : Src) (s : State) : Host.Outcome State Fault Refusal :=
  alu2 u d a b 1 (fun a b => flagBit (Cmp.lt.int a.toInt b.toInt)) s

/-- Table 06-2, major 0x05: 1 if the relation holds, otherwise 0. -/
def execCleI64 (u : SU) (d : Option (Fin 64)) (a b : Src) (s : State) : Host.Outcome State Fault Refusal :=
  alu2 u d a b 1 (fun a b => flagBit (Cmp.le.int a.toInt b.toInt)) s

/-- Table 06-2, major 0x05: 1 if the relation holds, otherwise 0. -/
def execCltZ64 (u : SU) (d : Option (Fin 64)) (a b : Src) (s : State) : Host.Outcome State Fault Refusal :=
  alu2 u d a b 1 (fun a b => flagBit (Cmp.lt.int a.toNat b.toNat)) s

/-- Table 06-2, major 0x05: 1 if the relation holds, otherwise 0. -/
def execCleZ64 (u : SU) (d : Option (Fin 64)) (a b : Src) (s : State) : Host.Outcome State Fault Refusal :=
  alu2 u d a b 1 (fun a b => flagBit (Cmp.le.int a.toNat b.toNat)) s

/-- Table 06-2, major 0x06. -/
def execMul (u : SU) (d : Option (Fin 64)) (a b : Src) (s : State) : Host.Outcome State Fault Refusal :=
  alu2 u d a b 3 (fun a b => a * b) s

/-- Table 06-2, major 0x06. -/
def execMulhI64 (u : SU) (d : Option (Fin 64)) (a b : Src) (s : State) : Host.Outcome State Fault Refusal :=
  alu2 u d a b 3 (fun a b => BitVec.ofInt 64 (a.toInt * b.toInt / 2 ^ 64)) s

/-- Table 06-2, major 0x06. -/
def execMulhZ64 (u : SU) (d : Option (Fin 64)) (a b : Src) (s : State) : Host.Outcome State Fault Refusal :=
  alu2 u d a b 3 (fun a b => BitVec.ofNat 64 (a.toNat * b.toNat / 2 ^ 64)) s

/-- Table 06-2, major 0x07, and R165. -/
def execDivI64 (u : SU) (d : Option (Fin 64)) (a b : Src) (s : State) : Host.Outcome State Fault Refusal :=
  alu2 u d a b 20 (fun a b => divS a b) s

/-- Table 06-2, major 0x07, and R165. -/
def execDivZ64 (u : SU) (d : Option (Fin 64)) (a b : Src) (s : State) : Host.Outcome State Fault Refusal :=
  alu2 u d a b 20 (fun a b => divZ a b) s

/-- Table 06-2, major 0x07, and R165. -/
def execRemI64 (u : SU) (d : Option (Fin 64)) (a b : Src) (s : State) : Host.Outcome State Fault Refusal :=
  alu2 u d a b 20 (fun a b => remS a b) s

/-- Table 06-2, major 0x07, and R165. -/
def execRemZ64 (u : SU) (d : Option (Fin 64)) (a b : Src) (s : State) : Host.Outcome State Fault Refusal :=
  alu2 u d a b 20 (fun a b => remZ a b) s

/-- Table 06-2, major 0x07, and R165. -/
def execDivI32 (u : SU) (d : Option (Fin 64)) (a b : Src) (s : State) : Host.Outcome State Fault Refusal :=
  alu2 u d a b 12 (sx32 fun a b => divS a b) s

/-- Table 06-2, major 0x07, and R165. -/
def execDivZ32 (u : SU) (d : Option (Fin 64)) (a b : Src) (s : State) : Host.Outcome State Fault Refusal :=
  alu2 u d a b 12 (zx32 fun a b => divZ a b) s

/-- Table 06-2, major 0x07, and R165. -/
def execRemI32 (u : SU) (d : Option (Fin 64)) (a b : Src) (s : State) : Host.Outcome State Fault Refusal :=
  alu2 u d a b 12 (sx32 fun a b => remS a b) s

/-- Table 06-2, major 0x07, and R165. -/
def execRemZ32 (u : SU) (d : Option (Fin 64)) (a b : Src) (s : State) : Host.Outcome State Fault Refusal :=
  alu2 u d a b 12 (zx32 fun a b => remZ a b) s

/-- Table 06-3: the immediate, sign-extended. -/
def execLi (u : SU) (d : Fin 64) (imm : BitVec 16) (s : State) : Host.Outcome State Fault Refusal :=
  s.issue (slotS u) true (.ok (s.retS (slotS u) 1 (some d) (imm.signExtend 64)))

/-- Table 06-3: bits [16k+15:16k] replaced; the constructor's k is the form's k less 1. -/
def execLis (u : SU) (d : Fin 64) (k : Fin 3) (imm : BitVec 16) (s : State) : Host.Outcome State Fault Refusal :=
  aluImm u d (fun x => setFld x (16 * (k.val + 1)) 16 imm.toNat) s

/-- Table 06-3: sd + imm, sign-extended. -/
def execAddi (u : SU) (d : Fin 64) (imm : BitVec 16) (s : State) : Host.Outcome State Fault Refusal :=
  aluImm u d (fun x => x + imm.signExtend 64) s

/-- Table 06-3: sd and imm, zero-extended. -/
def execAndi (u : SU) (d : Fin 64) (imm : BitVec 16) (s : State) : Host.Outcome State Fault Refusal :=
  aluImm u d (fun x => x &&& imm.setWidth 64) s

/-- Table 06-3: a. -/
def execMov (u : SU) (d : Option (Fin 64)) (a : Src) (s : State) : Host.Outcome State Fault Refusal := alu1 u d a 1 (fun a => a) s

/-- Table 06-3: leading zeros, 64 for 0. -/
def execClz (u : SU) (d : Option (Fin 64)) (a : Src) (s : State) : Host.Outcome State Fault Refusal := alu1 u d a 1 clz64 s

/-- Table 06-3: trailing zeros, 64 for 0. -/
def execCtz (u : SU) (d : Option (Fin 64)) (a : Src) (s : State) : Host.Outcome State Fault Refusal := alu1 u d a 1 ctz64 s

/-- Table 06-3: set bits. -/
def execPopc (u : SU) (d : Option (Fin 64)) (a : Src) (s : State) : Host.Outcome State Fault Refusal :=
  alu1 u d a 1 (fun a => BitVec.ofNat 64 (countOnes 64 a.toNat)) s

/-- Table 06-3: a[n−1:0] sign-extended. -/
def execSext (u : SU) (d : Option (Fin 64)) (a b : Src) (s : State) : Host.Outcome State Fault Refusal :=
  alu2 u d a b 1 (fun a b => BitVec.ofInt 64 (sgn (extWidth b) a.toNat)) s

/-- Table 06-3: a[n−1:0] zero-extended. -/
def execZext (u : SU) (d : Option (Fin 64)) (a b : Src) (s : State) : Host.Outcome State Fault Refusal :=
  alu2 u d a b 1 (fun a b => BitVec.ofNat 64 (a.toNat % 2 ^ extWidth b)) s

end Sys2Proof.Machine
end

