-- ==== Sys2Proof/Machine/Caps.lean ====
section
/-! DEFINITION. Capabilities (spec/06 R166, Table 06-4), shape registers (R167 to R169), predicates (R170, Table 06-6), the
special registers (R171, Table 06-7) and bank formats (R172, spec/02 R53, R54). -/

namespace Sys2Proof.Machine

/-! ### Capabilities -/

/-- RoundLen (R166): the mantissa and exponent of the greatest representable length up to n, in bits [127:96]. -/
def roundLen (n : Nat) : Nat :=
  let e := bitLen n - 28
  n / 2 ^ e + e * 2 ^ 28

/-- A derived capability with another length word. -/
def capWithLength (c : Cap) (w : Nat) : Cap := setFld c 96 32 w

/-- Table 06-4, fn 0: rights := a.rights and b[5:0]. -/
def execCder (u : SU) (d : Option (Fin 16)) (a b : Src) (s : State) : Host.Outcome State Fault Refusal :=
  s.issue (slotS u) (a.capOk && b.scalarOk) do
    let c ← s.cap (slotS u) 0 a
    let m ← s.scalar (slotS u) 1 b
    if fld c 94 2 ≠ 0 then trapAt (slotS u) kCapability 1 0 (capObject c)
    else if !hasRights (capRights c) rDer then trapAt (slotS u) kCapability 2 0 (capObject c)
    else return s.retA (slotS u) 2 d (setFld c 88 6 (capRights c &&& m.setWidth 6).toNat)

/-- Table 06-4, fn 1: length := RoundLen(b). -/
def execCbnd (u : SU) (d : Option (Fin 16)) (a b : Src) (s : State) : Host.Outcome State Fault Refusal :=
  s.issue (slotS u) (a.capOk && b.scalarOk) do
    let c ← s.cap (slotS u) 0 a
    let n ← s.scalar (slotS u) 1 b
    if fld c 94 2 ≠ 0 then trapAt (slotS u) kCapability 1 0 (capObject c)
    else if !hasRights (capRights c) rDer then trapAt (slotS u) kCapability 2 0 (capObject c)
    else if capLength c < n.toNat then trapAt (slotS u) kCapability 3 0 (capObject c)
    else return s.retA (slotS u) 2 d (capWithLength c (roundLen n.toNat))

/-- Table 06-4, fn 2: offset := b. -/
def execCsetoff (u : SU) (d : Option (Fin 16)) (a b : Src) (s : State) : Host.Outcome State Fault Refusal :=
  s.issue (slotS u) (a.capOk && b.scalarOk) do
    let c ← s.cap (slotS u) 0 a
    let x ← s.scalar (slotS u) 1 b
    return s.retA (slotS u) 2 d (setFld c 0 64 x.toNat)

/-- Table 06-4, fn 3: offset := (a.offset + b) mod 2^64. -/
def execCaddoff (u : SU) (d : Option (Fin 16)) (a b : Src) (s : State) : Host.Outcome State Fault Refusal :=
  s.issue (slotS u) (a.capOk && b.scalarOk) do
    let c ← s.cap (slotS u) 0 a
    let x ← s.scalar (slotS u) 1 b
    return s.retA (slotS u) 2 d (capAdvance c x.toInt)

/-- Table 06-4, fn 4: a, all 128 bits. -/
def execCmov (u : SU) (d : Option (Fin 16)) (a : Src) (s : State) : Host.Outcome State Fault Refusal :=
  s.issue (slotS u) a.capOk do
    let c ← s.cap (slotS u) 0 a
    return s.retA (slotS u) 2 d c

/-- Table 06-4, fn 5: what CheckCap(a, 0, b[47:0], b[53:48]) would do. -/
def execCchk (u : SU) (d : Option (Fin 64)) (a b : Src) (s : State) : Host.Outcome State Fault Refusal :=
  s.issue (slotS u) (a.capOk && b.scalarOk) do
    let c ← s.cap (slotS u) 0 a
    let x ← s.scalar (slotS u) 1 b
    return s.retS (slotS u) 2 d (BitVec.ofNat 64 ((checkCap c 0 (fld x 0 48) (x.extractLsb' 48 6)).getD 0))

/-- Table 06-4, fn 6: the part of a that selector b names. -/
def execCget (u : SU) (d : Option (Fin 64)) (a b : Src) (s : State) : Host.Outcome State Fault Refusal :=
  s.issue (slotS u) (a.capOk && b.scalarOk) do
    let c ← s.cap (slotS u) 0 a
    let x ← s.scalar (slotS u) 1 b
    let v := match x.toNat with
      | 0 => capOffset c
      | 1 => capObject c
      | 2 => (capRights c).toNat
      | 3 => capLength c
      | 4 => c.toNat / 2 ^ 64
      | _ => 0
    return s.retS (slotS u) 2 d (BitVec.ofNat 64 v)

/-! ### Shapes (Table 06-5) -/

/-- A walk is legal at issue (R168). -/
def shapeOk (h : Shape) : Bool :=
  shSpace h ≠ 3 && shFmt h ≠ 15 && (upTo 4).all fun k => shExt h k = 0 || decide (shIdx h k < shExt h k)

/-- Low bit and width of the field of a selector (Table 06-5), and whether it is read as signed. -/
def shapeField : Nat → Nat × Nat × Bool
  | 0 => (0, 64, false)
  | 1 => (64, 16, false)
  | 2 => (80, 16, false)
  | 3 => (96, 16, false)
  | 4 => (112, 16, false)
  | 5 => (128, 32, true)
  | 6 => (160, 32, true)
  | 7 => (192, 32, true)
  | 8 => (224, 32, true)
  | 9 => (256, 16, false)
  | 10 => (272, 16, false)
  | 11 => (288, 16, false)
  | 12 => (304, 16, false)
  | 13 => (320, 6, false)
  | 14 => (384, 64, false)
  | _ => (448, 64, false)

/-- A shape image as loaded: the res0 bits load as 0 (R169). -/
def shapeOfImage (data : List Byte) : Shape := setFld (BitVec.ofNat 512 (leNat data)) 326 58 0

/-- R169: shld. -/
def execShld (u : SU) (d : Option (Fin 16)) (a b : Src) (s : State) : Host.Outcome State Fault Refusal :=
  s.issue (slotS u) (a.capOk && b.scalarOk) do
    let r ← s.load (slotS u) a b 64 64 false
    return r.2.2.retSh (slotS u) 12 d (shapeOfImage r.1)

/-- The image that the context's code belongs to and its data section: offset and length (R333, R439). -/
def Mach.data (m : Mach) : Cap × Nat × Nat :=
  if m.ctx.saved.isSome then
    let c := (m.mod.die (m.cid / 64)).svcode
    (c, (m.mod.capWord c 0x10 4).getD 0, (m.mod.capWord c 0x14 4).getD 0)
  else
    let l := m.mod.launch (m.core.launch.getD 0)
    (l.record.image, l.img.dataOff, l.img.dataLen)

/-- R169: shld.img, which needs no right beyond the execute capability. -/
def execShldImg (u : SU) (d : Option (Fin 16)) (b : Src) (s : State) : Host.Outcome State Fault Refusal :=
  s.issue (slotS u) b.scalarOk do
    let x ← s.scalar (slotS u) 1 b
    let (c, dataOff, dataLen) := s.start.data
    let off := capOffset c + dataOff + x.toNat
    if dataLen < x.toNat + 64 then trapAt (slotS u) kCapability 3 off (capObject c)
    else
      match s.start.mod.protect (capObject c) off 64 rEx (capRights c) s.part s.sv with
      | some sub => trapAt (slotS u) kProtection sub off (capObject c)
      | none =>
        if x.toNat % 64 ≠ 0 then trapAt (slotS u) kAlignment 0 off (capObject c)
        else
          let r ← s.loadFrom (slotS u) (capObject c) off 64 false
          return r.2.2.retSh (slotS u) 12 d (shapeOfImage r.1)

/-- R169: shset. -/
def execShset (u : SU) (d : Fin 16) (a b : Src) (s : State) : Host.Outcome State Fault Refusal :=
  s.issue (slotS u) (a.scalarOk && b.scalarOk) do
    let h ← s.shape (slotS u) 2 (.sh d)
    let v ← s.scalar (slotS u) 0 a
    let k ← s.scalar (slotS u) 1 b
    let f := shapeField (k.toNat % 16)
    return s.retSh (slotS u) 2 (some d) (setFld h f.1 f.2.1 v.toNat)

/-- R169: shget. -/
def execShget (u : SU) (d : Option (Fin 64)) (a b : Src) (s : State) : Host.Outcome State Fault Refusal :=
  s.issue (slotS u) (a.shapeOk && b.scalarOk) do
    let h ← s.shape (slotS u) 0 a
    let k ← s.scalar (slotS u) 1 b
    let f := shapeField (k.toNat % 16)
    let v := fld h f.1 f.2.1
    return s.retS (slotS u) 2 d (if f.2.2 then BitVec.ofInt 64 (sgn f.2.1 v) else BitVec.ofNat 64 v)

/-! ### Predicates -/

/-- A predicate operation of two predicates. -/
def predOp2 (u : SU) (d : Option (Fin 24)) (a b : Src) (f : Pred → Pred → Pred) (s : State) : Host.Outcome State Fault Refusal :=
  s.issue (slotS u) (a.predOk && b.predOk) do
    let x ← s.pred (slotS u) 0 a
    let y ← s.pred (slotS u) 1 b
    return s.retP (slotS u) 1 d (f x y)

/-- Table 06-6: a and b. -/
def execPand (u : SU) (d : Option (Fin 24)) (a b : Src) (s : State) : Host.Outcome State Fault Refusal :=
  predOp2 u d a b (fun a b => a &&& b) s

/-- Table 06-6: a or b. -/
def execPor (u : SU) (d : Option (Fin 24)) (a b : Src) (s : State) : Host.Outcome State Fault Refusal :=
  predOp2 u d a b (fun a b => a ||| b) s

/-- Table 06-6: a xor b. -/
def execPxor (u : SU) (d : Option (Fin 24)) (a b : Src) (s : State) : Host.Outcome State Fault Refusal :=
  predOp2 u d a b (fun a b => a ^^^ b) s

/-- Table 06-6: a and not b. -/
def execPandn (u : SU) (d : Option (Fin 24)) (a b : Src) (s : State) : Host.Outcome State Fault Refusal :=
  predOp2 u d a b (fun a b => a &&& ~~~b) s

/-- Table 06-6: not a. -/
def execPnot (u : SU) (d : Option (Fin 24)) (a : Src) (s : State) : Host.Outcome State Fault Refusal :=
  s.issue (slotS u) a.predOk do
    let x ← s.pred (slotS u) 0 a
    return s.retP (slotS u) 1 d (~~~x)

/-- Table 06-6: a. -/
def execPmov (u : SU) (d : Option (Fin 24)) (a : Src) (s : State) : Host.Outcome State Fault Refusal :=
  s.issue (slotS u) a.predOk do
    let x ← s.pred (slotS u) 0 a
    return s.retP (slotS u) 1 d x

/-- Table 06-6: bit i is 1 exactly when i < min(a, 128). -/
def execPset (u : SU) (d : Option (Fin 24)) (a : Src) (s : State) : Host.Outcome State Fault Refusal :=
  s.issue (slotS u) a.scalarOk do
    let x ← s.scalar (slotS u) 0 a
    return s.retP (slotS u) 1 d (BitVec.ofNat 128 (2 ^ min x.toNat 128 - 1))

/-- Table 06-6: any bit. -/
def execPany (u : SU) (d : Option (Fin 64)) (a : Src) (s : State) : Host.Outcome State Fault Refusal :=
  s.issue (slotS u) a.predOk do
    let x ← s.pred (slotS u) 0 a
    return s.retS (slotS u) 2 d (flagBit (x ≠ 0))

/-- Table 06-6: set bits. -/
def execPcnt (u : SU) (d : Option (Fin 64)) (a : Src) (s : State) : Host.Outcome State Fault Refusal :=
  s.issue (slotS u) a.predOk do
    let x ← s.pred (slotS u) 0 a
    return s.retS (slotS u) 2 d (BitVec.ofNat 64 (countOnes 128 x.toNat))

/-! ### Special registers (Table 06-7) -/

/-- The selector that b gives. -/
def selOf : Src → Nat
  | .imm i => i.toNat
  | _ => 63

/-- What rdsr returns for a selector (Table 06-7). -/
def State.special (s : State) (slot sel : Nat) : Except Stop W64 :=
  let k := s.src
  match sel with
  | 0 => s.view slot 0 0xC0 .link k.link
  | 1 => do return (← s.view slot 0 0xC1 .lrc k.lrc).setWidth 64
  | 2 => .ok k.status
  | 3 => .ok k.ptick
  | 4 => .ok (k.misses.setWidth 64 ||| (if s.strict then 0x10000 else 0))
  | 5 => .ok (k.depth.setWidth 64)
  | _ => .ok (BitVec.ofNat 64 s.tick)

/-- Table 06-7: rdsr. -/
def execRdsr (u : SU) (d : Option (Fin 64)) (b : Src) (s : State) : Host.Outcome State Fault Refusal :=
  s.issue (slotS u) (selReadOk b) do
    let v ← s.special (slotS u) (selOf b)
    return s.retS (slotS u) 2 d v

/-- Table 06-7: wrsr, which takes effect at bundle end. -/
def execWrsr (u : SU) (a b : Src) (s : State) : Host.Outcome State Fault Refusal :=
  s.issue (slotS u) (a.scalarOk && selWriteOk b) do
    let x ← s.scalar (slotS u) 0 a
    return match selOf b with
      | 0 => s.onCtx fun c => c.put s.tick 0 .link ((x &&& ~~~31).setWidth 2048)
      | 1 => s.onCtx fun c => c.put s.tick 0 .lrc (BitVec.ofNat 2048 (min x.toNat 512))
      | 2 => s.onBank fun k => { k with status := setFld k.status 34 3 (fld x 34 3) }
      | _ => s.onBank fun k => { k with misses := x.setWidth 16 }

/-! ### Bank formats -/

/-- A bank format value is legal (R54): the scale modes of Table 02-7. -/
def bankFormatOk (gsp : Nat) (f : W32) : Bool :=
  bfFmt f ≠ 15 && fld f 17 15 == 0 &&
    (match bfSmode f with
      | 0 => bfFmt f ≠ 6
      | 1 => bfFmt f == 4 || bfFmt f == 5 || bfFmt f == 6
      | 2 => bfFmt f == 4 || bfFmt f == 5
      | _ => false) &&
    (bfSmode f == 0 || decide (bfCbase f < 4 * gsp))

/-- R172: bfrd. -/
def execBfrd (u : SU) (d : Option (Fin 64)) (b : Src) (s : State) : Host.Outcome State Fault Refusal :=
  s.issue (slotS u) b.scalarOk do
    let k ← s.scalar (slotS u) 1 b
    need (s.rcd.gSp ≠ 0) (slotS u) kScratch
    return s.retS (slotS u) 1 d ((s.start.core.bfmt.toList.getD (k.toNat % 32) 0).setWidth 64)

/-- R172: bfwr. -/
def execBfwr (u : SU) (a b : Src) (s : State) : Host.Outcome State Fault Refusal :=
  s.issue (slotS u) (a.scalarOk && b.scalarOk) do
    let v ← s.scalar (slotS u) 0 a
    let k ← s.scalar (slotS u) 1 b
    need (s.rcd.gSp ≠ 0) (slotS u) kScratch
    need (decide (v.toNat < 2 ^ 32) && bankFormatOk s.rcd.gSp (v.setWidth 32)) (slotS u) kBankFormat
    return s.onCore fun c => { c with bfmt := vmod c.bfmt (k.toNat % 32) fun _ => v.setWidth 32 }

end Sys2Proof.Machine
end

