-- ==== Sys2Proof/Machine/Memory.lean ====
section
/-! DEFINITION. Scalar loads and stores of global memory (spec/06 R173, R174, Table 06-8), scalar scratchpad accesses (R175,
Table 06-9), strong accesses and atomics (R176, R177, spec/04 R112 to R116), and handoff queue pushes (R178). -/

namespace Sys2Proof.Machine

/-! ### Ordinary global accesses -/

/-- A scalar load of n bytes with bound 8. -/
def loadS (u : SU) (d : Option (Fin 64)) (a b : Src) (n : Nat) (signed : Bool) (s : State) : Host.Outcome State Fault Refusal :=
  s.issue (slotS u) (a.capOk && b.scalarOk) do
    let r ← s.load (slotS u) a b n n false
    let v := leNat r.1
    return r.2.2.retS (slotS u) 8 d (if signed then BitVec.ofInt 64 (sgn (8 * n) v) else BitVec.ofNat 64 v)

/-- Table 06-8: ld.z8. -/
def execLdZ8 (u : SU) (d : Option (Fin 64)) (a b : Src) (s : State) : Host.Outcome State Fault Refusal := loadS u d a b 1 false s
/-- Table 06-8: ld.z16. -/
def execLdZ16 (u : SU) (d : Option (Fin 64)) (a b : Src) (s : State) : Host.Outcome State Fault Refusal := loadS u d a b 2 false s
/-- Table 06-8: ld.z32. -/
def execLdZ32 (u : SU) (d : Option (Fin 64)) (a b : Src) (s : State) : Host.Outcome State Fault Refusal := loadS u d a b 4 false s
/-- Table 06-8: ld.i8. -/
def execLdI8 (u : SU) (d : Option (Fin 64)) (a b : Src) (s : State) : Host.Outcome State Fault Refusal := loadS u d a b 1 true s
/-- Table 06-8: ld.i16. -/
def execLdI16 (u : SU) (d : Option (Fin 64)) (a b : Src) (s : State) : Host.Outcome State Fault Refusal := loadS u d a b 2 true s
/-- Table 06-8: ld.i32. -/
def execLdI32 (u : SU) (d : Option (Fin 64)) (a b : Src) (s : State) : Host.Outcome State Fault Refusal := loadS u d a b 4 true s
/-- Table 06-8: ld.i64. -/
def execLdI64 (u : SU) (d : Option (Fin 64)) (a b : Src) (s : State) : Host.Outcome State Fault Refusal := loadS u d a b 8 false s

/-- Table 06-8: ld.c128, into an a register. -/
def execLdC128 (u : SU) (d : Option (Fin 16)) (a b : Src) (s : State) : Host.Outcome State Fault Refusal :=
  s.issue (slotS u) (a.capOk && b.scalarOk) do
    let r ← s.load (slotS u) a b 16 16 false
    return r.2.2.retA (slotS u) 8 d (BitVec.ofNat 128 (leNat r.1))

/-- Write a predicate named by a .nr load, with the bound of its data (R174). -/
def State.putPred (s : State) (l : Nat) (p : Fin 8) (v : Pred) : State :=
  s.onCtx fun c => c.put s.tick l (.p ⟨p.val, by omega⟩) (v.setWidth 2048)

/-- R174: ld.nr, the 8-byte load of R69. -/
def execLdNr (u : SU) (d : Option (Fin 64)) (p : Fin 8) (a b : Src) (s : State) : Host.Outcome State Fault Refusal :=
  s.issue (slotS u) (a.capOk && b.scalarOk) do
    let r ← s.load (slotS u) a b 8 8 true
    let gone := r.2.1.any id
    return (r.2.2.retS (slotS u) 8 d (if gone then 0 else BitVec.ofNat 64 (leNat r.1))).putPred 8 p
      (if gone then BitVec.allOnes 128 else 0)

/-- A scalar store of the low n bytes of a register. -/
def storeS (u : SU) (d : Fin 64) (a b : Src) (n : Nat) (s : State) : Host.Outcome State Fault Refusal :=
  s.issue (slotS u) (a.capOk && b.scalarOk) do
    let (c, off) ← s.globalAt (slotS u) a b n n rSt
    s.cleanCap (slotS u) a b
    let v ← s.dataS (slotS u) 2 d
    return s.storeAt (capObject c) off (leBytes n v.toNat)

/-- Table 06-8: st.z8. -/
def execStZ8 (u : SU) (d : Fin 64) (a b : Src) (s : State) : Host.Outcome State Fault Refusal := storeS u d a b 1 s
/-- Table 06-8: st.z16. -/
def execStZ16 (u : SU) (d : Fin 64) (a b : Src) (s : State) : Host.Outcome State Fault Refusal := storeS u d a b 2 s
/-- Table 06-8: st.z32. -/
def execStZ32 (u : SU) (d : Fin 64) (a b : Src) (s : State) : Host.Outcome State Fault Refusal := storeS u d a b 4 s
/-- Table 06-8: st.z64. -/
def execStZ64 (u : SU) (d : Fin 64) (a b : Src) (s : State) : Host.Outcome State Fault Refusal := storeS u d a b 8 s

/-! ### Scalar scratchpad accesses -/

/-- The address of R175: the signed value b added to the off field of a only, then the checks of R52 for 8 bytes. -/
def State.spScalar (s : State) (slot : Nat) (a b : W64) : Except Stop SpAddr :=
  let off := (a.toNat % 2 ^ 22 : Nat) + b.toInt
  if off < 0 ∨ 2 ^ 22 ≤ off then trapAt slot kScratch 0 a.toNat 0
  else s.spCheck slot (a.toNat / 2 ^ 22 * 2 ^ 22 + off.toNat) 8

/-- The address of a scalar scratchpad access from its operands; poisoned operands come last (spec/15 R377). -/
def State.spOperands (s : State) (slot : Nat) (a b : Src) : Except Stop SpAddr := do
  let x ← s.calm.scalar slot 0 a
  let y ← s.calm.scalar slot 1 b
  let t ← s.spScalar slot x y
  s.cleanScalar slot a b
  return t

/-- lds and lds.c (Table 06-9): a waiting or consuming read of 8 bytes, with bound 4, or 24 from another core's bank, where it
is judged when it arrives (spec/02 R61). -/
def loadSp (u : SU) (d : Option (Fin 64)) (a b : Src) (cons : Bool) (s : State) : Host.Outcome State Fault Refusal :=
  s.issue (slotS u) (a.scalarOk && b.scalarOk) do
    let t ← s.spOperands (slotS u) a b
    if t.core = s.place then
      let r ← s.spRead (slotS u) t.off 8 cons
      return r.2.retS (slotS u) 4 d (BitVec.ofNat 64 (leNat r.1))
    else
      let (rq, s1) := s.newReq
      return (s1.expect (slotS u) 24 (d.map .s) rq).remote (slotS u) t rq (d.map .s) (.read cons 8 none)

/-- Table 06-9: lds. -/
def execLds (u : SU) (d : Option (Fin 64)) (a b : Src) (s : State) : Host.Outcome State Fault Refusal := loadSp u d a b false s
/-- Table 06-9: lds.c. -/
def execLdsC (u : SU) (d : Option (Fin 64)) (a b : Src) (s : State) : Host.Outcome State Fault Refusal := loadSp u d a b true s

/-- sts and sts.f (Table 06-9): 8 raw bytes, keeping or filling the line. -/
def storeSp (u : SU) (d : Fin 64) (a b : Src) (fill : Bool) (s : State) : Host.Outcome State Fault Refusal :=
  s.issue (slotS u) (a.scalarOk && b.scalarOk) do
    let t ← s.spOperands (slotS u) a b
    let v ← s.dataS (slotS u) 2 d
    let data := leBytes 8 v.toNat
    if t.core = s.place then
      return s.onCore fun k =>
        let k1 := k.spWrite t.off data
        if fill then k1.setFull (linesOf t.off 8) else k1
    else return s.remote (slotS u) t 0 none (.write data [] fill)

/-- Table 06-9: sts. -/
def execSts (u : SU) (d : Fin 64) (a b : Src) (s : State) : Host.Outcome State Fault Refusal := storeSp u d a b false s
/-- Table 06-9: sts.f. -/
def execStsF (u : SU) (d : Fin 64) (a b : Src) (s : State) : Host.Outcome State Fault Refusal := storeSp u d a b true s

/-- Table 06-9: drain of the addressed line. -/
def execDrain (u : SU) (a b : Src) (s : State) : Host.Outcome State Fault Refusal :=
  s.issue (slotS u) (a.scalarOk && b.scalarOk) do
    let t ← s.spOperands (slotS u) a b
    if t.core = s.place then return s.onCore fun k => k.setEmpty (linesOf t.off 8)
    else return s.remote (slotS u) t 0 none .drain

/-! ### Strong accesses (spec/04 R112 to R116, spec/02 R64) -/

/-- The word after a home operation on n bytes (R177). -/
def homeNew (op : HomeOp) (n : Nat) (old v v2 : Nat) : Nat :=
  let w := 8 * n
  let a := old % 2 ^ w
  let b := v % 2 ^ w
  match op with
  | .ld => a
  | .st | .swap => b
  | .add => (a + b) % 2 ^ w
  | .and => a &&& b
  | .or => a ||| b
  | .xor => a ^^^ b
  | .minI => if sgn w a ≤ sgn w b then a else b
  | .maxI => if sgn w a ≤ sgn w b then b else a
  | .minZ => min a b
  | .maxZ => max a b
  | .cas => if a = b then v2 % 2 ^ w else a

/-- Execute an operation at the home of a physical word, for a party that sees what `b` sees (R112, R116): the machine, and the
old value. -/
def Mod.homeOp (m : Mod) (b : Option PubSource) (dp : Option Nat) (addr n : Nat) (op : HomeOp) (v v2 : Nat) : Mod × Nat :=
  let old := leNat ((upTo n).map fun i => m.outer dp.isSome (addr + i) (m.shown b (addr + i)))
  if op = .ld then (m, old)
  else (m.writeBytes dp ((leBytes n (homeNew op n old v v2)).mapIdx fun i b => (addr + i, b)) [], old)

/-- The same on a word of a core's scratchpad, which neither waits on nor changes a line's bit (R176). -/
def Core.homeOp (k : Core) (draw off n : Nat) (op : HomeOp) (v v2 : Nat) : Core × Nat :=
  let old := leNat (k.spBytesAt draw off n)
  if op = .ld then (k, old) else (k.spWrite off (leBytes n (homeNew op n old v v2)), old)

/-- The value that a strong access delivers from the old word. -/
def Strong.value (x : Strong) (old : Nat) : W64 :=
  if x.sg then BitVec.ofInt 64 (sgn (8 * x.bytes) old) else BitVec.ofNat 64 (old % 2 ^ (8 * x.bytes))

/-- What a remote atomic carries besides its operand: the model's layout (log 19): operation, width, whether the old value
returns, and the second operand. -/
def homeCode : HomeOp → Nat
  | .ld => 12
  | .st => 13
  | .add => 0
  | .and => 1
  | .or => 2
  | .xor => 3
  | .minI => 4
  | .maxI => 5
  | .minZ => 6
  | .maxZ => 7
  | .swap => 8
  | .cas => 9

def atomicDescriptor (op : HomeOp) (n : Nat) (old : Bool) (v2 : W64) : BitVec 128 :=
  BitVec.ofNat 128 (homeCode op + n * 2 ^ 8 + (if old then 2 ^ 16 else 0) + v2.toNat * 2 ^ 64)

/-- The sector of a word leaves the L1 data cache (spec/02 R64): clean bytes, and bytes fetched from another module. -/
def Ctx.dropSector (c : Ctx) (obj off : Nat) (fetched : Option Nat) : Ctx :=
  { c with
    l1 := c.l1.filter fun e => e.1 / 128 ≠ cellKey obj off / 128
    rcache := match fetched with
      | some key => c.rcache.filter fun e => e.1 / 128 ≠ key / 128
      | none => c.rcache }

/-- The context's view of physical bytes becomes what their home holds for it (R108). -/
def Ctx.sees (c : Ctx) (m : Mod) (b : PubSource) (as : List Nat) : Ctx :=
  { c with
    snap := Memory.store c.snap (as.map fun a => (a, m.shown (some b) a))
    seen := as.foldl (fun t a => tput 0 a (m.newest a) t) c.seen }

/-- A strong access leaves for another module: the packet, and the wait for its answer. -/
def Mach.strongSend (m : Mach) (x : Strong) (key : Nat) (p : Packet) : Mach :=
  { m with mod := m.mod.send p, ctx := { m.ctx with pending := m.ctx.pending ++ [Pending.remote x.rq key x] } }

/-- Perform a strong access of the context in the issue stage: at a local home at once, with the value; otherwise as a
request that is answered later through its number. The context's own dirty bytes of the sector go home first, published to
nobody, and the sector leaves the L1 data cache (R64, R116). -/
def Mach.strongGo (m : Mach) (draw : Nat) (x : Strong) : Mach × Option W64 :=
  match x.loc with
  | .phys a obj off dp =>
    let m1 := m.publishBytes none fun k => k / 2 ^ 64 = obj && k % 2 ^ 64 / 128 = off / 128
    let r := m1.mod.homeOp (some m1.self) (if dp then some obj else none) a x.bytes x.op x.v.toNat x.v2.toNat
    let m2 := { m1 with mod := r.1, ctx := (m1.ctx.dropSector obj off none).sees r.1 m1.self ((upTo x.bytes).map (a + ·)) }
    (if x.acq then m2.refresh x.scope else m2, some (x.value r.2))
  | .sp c off =>
    if c = m.cid then
      let r := m.core.homeOp draw off x.bytes x.op x.v.toNat x.v2.toNat
      let m1 := { m with core := r.1 }
      (if x.acq then m1.refresh x.scope else m1, some (x.value r.2))
    else
      let m1 := m.onCore c fun k =>
        { k with reqs := k.reqs ++ [⟨m.cid, m.xid, x.rq, m.mod.tick, off, .strong x, x.dst.map .s, x.slot, x.pc, m.ctx.saved.isSome⟩] }
      ({ m1 with ctx := { m1.ctx with pending := m1.ctx.pending ++ [Pending.remote x.rq 0 x] } }, none)
  | .remote mo rid off obj dp =>
    let m1 := m.publishBytes none fun k => k / 2 ^ 64 = obj && k % 2 ^ 64 / 128 = off / 128
    let m2 := { m1 with ctx := m1.ctx.dropSector obj off (some (remoteKey mo rid off)) }
    let data := blockOf off (leBytes x.bytes x.v.toNat)
    let key := remoteKey mo rid (off / 16 * 16)
    let pk := fun op payload => m2.mod.packet mo 0 op rid (off / 16 * 16) data.2 dp payload
    if x.op = .ld then (m2.strongSend x key (pk opLoad []), none)
    else if x.op = .st then (m2.strongSend x key (pk opStore [data.1]), none)
    else (m2.strongSend x key (pk opAtomic [data.1, atomicDescriptor x.op x.bytes true x.v2]), none)

/-- Whether a strong access has a result. -/
def Strong.hasResult (x : Strong) : Bool := x.op ≠ .st

/-- Issue a strong access: a release publishes first (R113). A load reads its home as it stands at bundle start (spec/05 R143).
A release store is never merged with a later store, which R114 lets the device do (log 63). -/
def State.strong (s : State) (x : Strong) (rel : Bool) : State :=
  let (rq, s0) := s.newReq
  let x := { x with rq := rq, pc := s.src.pc }
  let s1 := if x.op = .ld ∨ x.op = .st then s0 else s0.onCtx Ctx.setEffect
  let late := fun (t : State) => if x.hasResult then t.expect x.slot 128 (x.dst.map .s) rq else t
  let go := fun (t : State) =>
    match t.now.strongGo t.free x with
    | (m, some v) =>
      let v := if x.op = .ld then ((s.start.strongGo t.free x).2).getD v else v
      if x.hasResult then { t with now := m }.retS x.slot 128 x.dst v else { t with now := m }
    | (m, none) => late { t with now := m }
  if rel then
    let r := s1.now.publish x.scope (.strong x)
    if r.2 then go { s1 with now := r.1 }
    else late { s1 with now := { r.1 with ctx := { r.1.ctx with pending := r.1.ctx.pending ++ [Pending.publish x.scope (.strong x)] } } }
  else go s1

/-- A request that the target of a strong access check it before its bundle issues (spec/15 R370): a load request whose payload
names the rights (log 19). -/
def Mod.checkRequest (m : Mod) (mo : BitVec 13) (rid : BitVec 24) (off n : Nat) (dp : Bool) (rights : BitVec 6) : Packet :=
  m.packet mo 0 opLoad rid (off / 16 * 16) (blockOf off (List.replicate n 0)).2 dp [rights.setWidth 128]

/-- The context's dirty bytes in the sector of a word can go home (R64, R109), or what they wait for. -/
def State.sectorWait (s : State) (slot obj off : Nat) : Option Stop :=
  let keys := (s.start.ctx.unpub.filter fun x => x.1 / 128 = cellKey obj off / 128).map (·.1)
  let ds := keys.map s.start.destOf
  let pages := ds.filterMap fun d => match d with | .page r => some r | _ => none
  let ats := ds.filterMap fun d => match d with | .ats r => some r | _ => none
  if ds.contains .busy then
    some (s.engineWait slot (s.start.ctx.engine.filter fun o => (o.rd ++ o.wr).any fun r => r.touches obj (off / 128 * 128) 128))
  else if pages ≠ [] ∨ ats ≠ [] then some (.hold { pages := pages, ats := ats }) else none

/-- The location of a strong access (R176): global when a names an a register, otherwise a scratchpad word; its checks. Poison of
another core's bank is judged where the request arrives (spec/02 R61). -/
def State.strongAt (s : State) (slot : Nat) (a : Src) (n : Nat) (op : HomeOp) (rights : BitVec 6) : Except Stop StrongAt :=
  match a with
  | .a _ => do
    let c ← s.calm.cap slot 0 a
    let off ← s.capAccess slot c 0 n n rights
    let _ ← s.cap slot 0 a
    let obj := capObject c
    let m := s.start.mod
    match m.entry obj with
    | none => trapAt slot kProtection 1 off obj
    | some e =>
      match m.place obj e off (op ≠ .ld) with
      | .absent =>
        match s.start.ctx.missing m obj e off with
        | .fault sub => trapAt slot kPage sub off obj
        | _ => .error (.hold { pages := [⟨entHp e, BitVec.ofNat 24 obj, pageOf off, op ≠ .ld, 0⟩] })
      | .miss r => .error (.hold { ats := [r] })
      | .remote mo rid o =>
        let key := remoteKey mo rid (o / 16 * 16)
        match m.domainFault mo, s.start.ctx.remoteFail with
        | some sub, _ => trapAt slot kDomain sub off obj
        | none, some (k, sub) =>
          if k = key then trapAt slot (refusedTrap sub 3).1 (refusedTrap sub 3).2 off obj
          else .error (.hold { packets := [m.checkRequest mo rid o n (entDp e) rights] })
        | none, none =>
          if s.start.ctx.checked.contains key then .ok (.remote mo rid o obj (entDp e))
          else .error (.hold { packets := [m.checkRequest mo rid o n (entDp e) rights] })
      | .phys p =>
        if op ≠ .st ∧ m.poisoned (entDp e) p then trapAt slot kPoison 3 off obj
        else match s.sectorWait slot obj off with
          | some st => .error st
          | none => .ok (.phys p obj off (dpOf obj e).isSome)
  | _ => do
    let x ← s.calm.scalar slot 0 a
    let t ← s.spCheck slot x.toNat n
    let _ ← s.scalar slot 0 a
    if op ≠ .st ∧ t.core = s.place ∧ s.start.core.spBad t.off n then trapAt slot kPoison 3 x.toNat 0
    else return .sp (s.peer t.core) t.off

/-- Bytes of a width code (R176). -/
def widthBytes (w : BitVec 2) : Nat := 2 ^ w.toNat

/-- ld.rlx and ld.acq. -/
def strongLoad (u : SU) (d : Option (Fin 64)) (sc : Scope) (w : BitVec 2) (sg : Bool) (a : Src) (acq : Bool) (s : State) :
    Host.Outcome State Fault Refusal :=
  s.issue (slotS u) a.capOrScalarOk do
    let l ← s.strongAt (slotS u) a (widthBytes w) .ld rLd
    return s.strong ⟨l, widthBytes w, .ld, 0, 0, acq, sc, d, slotS u, sg, 0, 0⟩ false

/-- Table 06-10: ld.rlx. -/
def execLdRlx (u : SU) (d : Option (Fin 64)) (sc : Scope) (w : BitVec 2) (sg : Bool) (a : Src) (s : State) :
    Host.Outcome State Fault Refusal := strongLoad u d sc w sg a false s
/-- Table 06-10: ld.acq. -/
def execLdAcq (u : SU) (d : Option (Fin 64)) (sc : Scope) (w : BitVec 2) (sg : Bool) (a : Src) (s : State) :
    Host.Outcome State Fault Refusal := strongLoad u d sc w sg a true s

/-- st.rlx and st.rel. -/
def strongStore (u : SU) (d : Fin 64) (sc : Scope) (w : BitVec 2) (a : Src) (rel : Bool) (s : State) :
    Host.Outcome State Fault Refusal :=
  s.issue (slotS u) a.capOrScalarOk do
    let l ← s.strongAt (slotS u) a (widthBytes w) .st rSt
    let v ← s.dataS (slotS u) 2 d
    return s.strong ⟨l, widthBytes w, .st, v, 0, false, sc, none, slotS u, false, 0, 0⟩ rel

/-- Table 06-10: st.rlx. -/
def execStRlx (u : SU) (d : Fin 64) (sc : Scope) (w : BitVec 2) (a : Src) (s : State) : Host.Outcome State Fault Refusal :=
  strongStore u d sc w a false s
/-- Table 06-10: st.rel. -/
def execStRel (u : SU) (d : Fin 64) (sc : Scope) (w : BitVec 2) (a : Src) (s : State) : Host.Outcome State Fault Refusal :=
  strongStore u d sc w a true s

/-- An atomic (R177): order codes 1 acquire, 2 release, 3 both. -/
def strongAtomic (u : SU) (d : Fin 64) (sc : Scope) (w : BitVec 2) (o : BitVec 2) (a : Src) (op : HomeOp) (v2 : Option (Fin 64))
    (s : State) : Host.Outcome State Fault Refusal :=
  s.issue (slotS u) (a.capOrScalarOk && (op ≠ .cas || v2.isSome)) do
    let l ← s.strongAt (slotS u) a (widthBytes w) op rAt
    let v ← s.dataS (slotS u) 2 d
    let x ← match v2 with
      | some e => s.dataS (slotS u) 3 e
      | none => Except.ok 0
    return s.strong ⟨l, widthBytes w, op, v, x, o.getLsbD 0, sc, some d, slotS u, false, 0, 0⟩ (o.getLsbD 1)

/-- Table 06-11: add. -/
def execAtomAdd (u : SU) (d : Fin 64) (sc : Scope) (w o : BitVec 2) (a : Src) (s : State) : Host.Outcome State Fault Refusal :=
  strongAtomic u d sc w o a .add none s
/-- Table 06-11: and. -/
def execAtomAnd (u : SU) (d : Fin 64) (sc : Scope) (w o : BitVec 2) (a : Src) (s : State) : Host.Outcome State Fault Refusal :=
  strongAtomic u d sc w o a .and none s
/-- Table 06-11: or. -/
def execAtomOr (u : SU) (d : Fin 64) (sc : Scope) (w o : BitVec 2) (a : Src) (s : State) : Host.Outcome State Fault Refusal :=
  strongAtomic u d sc w o a .or none s
/-- Table 06-11: xor. -/
def execAtomXor (u : SU) (d : Fin 64) (sc : Scope) (w o : BitVec 2) (a : Src) (s : State) : Host.Outcome State Fault Refusal :=
  strongAtomic u d sc w o a .xor none s
/-- Table 06-11: min.iN. -/
def execAtomMinI (u : SU) (d : Fin 64) (sc : Scope) (w o : BitVec 2) (a : Src) (s : State) : Host.Outcome State Fault Refusal :=
  strongAtomic u d sc w o a .minI none s
/-- Table 06-11: max.iN. -/
def execAtomMaxI (u : SU) (d : Fin 64) (sc : Scope) (w o : BitVec 2) (a : Src) (s : State) : Host.Outcome State Fault Refusal :=
  strongAtomic u d sc w o a .maxI none s
/-- Table 06-11: min.zN. -/
def execAtomMinZ (u : SU) (d : Fin 64) (sc : Scope) (w o : BitVec 2) (a : Src) (s : State) : Host.Outcome State Fault Refusal :=
  strongAtomic u d sc w o a .minZ none s
/-- Table 06-11: max.zN. -/
def execAtomMaxZ (u : SU) (d : Fin 64) (sc : Scope) (w o : BitVec 2) (a : Src) (s : State) : Host.Outcome State Fault Refusal :=
  strongAtomic u d sc w o a .maxZ none s
/-- Table 06-11: swap. -/
def execAtomSwap (u : SU) (d : Fin 64) (sc : Scope) (w o : BitVec 2) (a : Src) (s : State) : Host.Outcome State Fault Refusal :=
  strongAtomic u d sc w o a .swap none s
/-- Table 06-11: cas, with the new value in s(dst+1). -/
def execAtomCas (u : SU) (d : Fin 64) (sc : Scope) (w o : BitVec 2) (a : Src) (s : State) : Host.Outcome State Fault Refusal :=
  strongAtomic u d sc w o a .cas (if h : d.val + 1 < 64 then some ⟨d.val + 1, h⟩ else none) s

/-! ### Handoff queue pushes -/

/-- Append an entry to a handoff queue: held while that would take it above 16 entries (spec/01 R26). -/
def State.qpush (s : State) (q : Fin 8) (v : VecReg) : Act :=
  let l := s.now.core.queues[q]
  if 16 ≤ l.length then .error .wait
  else .ok (s.onCore fun k => { k with queues := k.queues.set q (l ++ [⟨v, false⟩]) })

/-- R178: the S-slot form. -/
def execQpushS (u : SU) (d : Fin 64) (q : Fin 8) (s : State) : Host.Outcome State Fault Refusal :=
  s.issue (slotS u) true do
    let v ← s.dataS (slotS u) 0 d
    s.qpush q (v.setWidth 2048)

/-- R178: the V-slot form. -/
def execQpushV (u : VU) (d : Fin 32) (q : Fin 8) (s : State) : Host.Outcome State Fault Refusal :=
  s.issue (slotV u) true do
    let v ← s.dataV (slotV u) 0 d
    s.qpush q v

/-- R178: the X-slot form. -/
def execQpushX (d : Fin 32) (q : Fin 8) (s : State) : Host.Outcome State Fault Refusal :=
  s.issue 5 true do
    let v ← s.dataV 5 0 d
    s.qpush q v

end Sys2Proof.Machine
end

