-- ==== Sys2Proof/Machine/Control.lean ====
section
/-! DEFINITION. Branches, calls and jumps (spec/06 R179 to R181, spec/05 R150), lap loops (R182), phases, barriers and waits
(R184 to R186, spec/14 R349, R352), tasks (R190, R191) and traps (spec/09 R296, R297). -/

namespace Sys2Proof.Machine

/-! ### Branches -/

/-- The offset of the bundle being issued. -/
def State.pc (s : State) : W64 := s.src.pc

/-- The target of a branch: pc + 32 × off. -/
def State.branchTo (s : State) (off : BitVec 18) : W64 := s.pc + (off.signExtend 64) * 32

/-- The bundle holds a branch; a taken one gives its target (R150). C's, later in slot order, stands over S1's. -/
def State.branch (s : State) (target : Option W64) : State :=
  s.onIss fun i => { i with branch := true, taken := target.or i.taken }

/-- link := pc + 96 with bound 1. -/
def State.callLink (s : State) : State := s.onCtx fun c => c.put s.tick 1 .link ((s.pc + 96).setWidth 2048)

/-- A taken branch of C annuls the link write of a taken S1 call (R150). -/
def State.annulS1 (s : State) : State :=
  match s.iss.link with
  | some (l, w) => s.onCtx fun c =>
      { c with
        bank := { c.bank with link := l }
        windows := (c.windows.filter fun x => x.reg ≠ .link) ++ w.filter fun x => x.reg = .link }
  | none => s

/-- The windows and value of link before a call in S1, kept so that C can annul it. -/
def State.keepLink (s : State) : State := s.onIss fun i => { i with link := some (s.now.ctx.bank.link, s.now.ctx.windows) }

/-- R179: br in S1. -/
def execBrS1 (c : Src) (off : BitVec 18) (s : State) : Host.Outcome State Fault Refusal :=
  s.issue 1 c.scalarOk do
    let x ← s.scalar 1 0 c
    return s.branch (if x ≠ 0 then some (s.branchTo off) else none)

/-- R179: brz in S1. -/
def execBrzS1 (c : Src) (off : BitVec 18) (s : State) : Host.Outcome State Fault Refusal :=
  s.issue 1 c.scalarOk do
    let x ← s.scalar 1 0 c
    return s.branch (if x = 0 then some (s.branchTo off) else none)

/-- R179: call in S1. -/
def execCallS1 (c : Src) (off : BitVec 18) (s : State) : Host.Outcome State Fault Refusal :=
  s.issue 1 c.scalarOk do
    let x ← s.scalar 1 0 c
    if x ≠ 0 then return (s.keepLink.callLink).branch (some (s.branchTo off)) else return s.branch none

/-- R179: br in C. -/
def execBrC (c : Src) (off : BitVec 18) (s : State) : Host.Outcome State Fault Refusal :=
  s.issue 6 c.scalarOk do
    let x ← s.scalar 6 0 c
    if x ≠ 0 then return s.annulS1.branch (some (s.branchTo off)) else return s.branch none

/-- R179: brz in C. -/
def execBrzC (c : Src) (off : BitVec 18) (s : State) : Host.Outcome State Fault Refusal :=
  s.issue 6 c.scalarOk do
    let x ← s.scalar 6 0 c
    if x = 0 then return s.annulS1.branch (some (s.branchTo off)) else return s.branch none

/-- R179: call in C. -/
def execCallC (c : Src) (off : BitVec 18) (s : State) : Host.Outcome State Fault Refusal :=
  s.issue 6 c.scalarOk do
    let x ← s.scalar 6 0 c
    if x ≠ 0 then return (s.annulS1.callLink).branch (some (s.branchTo off)) else return s.branch none

/-- R180: ret, to link as it stands at bundle start. -/
def execRet (a : Src) (s : State) : Host.Outcome State Fault Refusal :=
  s.issue 6 a.scalarOk do
    let x ← s.scalar 6 0 a
    if x = 0 then return s.branch none
    else
      let l ← s.view 6 1 0xC0 .link s.src.link
      return s.annulS1.branch (some l)

/-- The jump tables of the context's image: data-section offset and count of each (R181, R333, R439). -/
def Mach.jtab (m : Mach) (t : Nat) : Option (Nat × Nat) :=
  if m.ctx.saved.isSome then
    let c := (m.mod.die (m.cid / 64)).svcode
    if t < (m.mod.capWord c 0x1C 4).getD 0 then
      some ((m.mod.capWord c (0x120 + 8 * t) 4).getD 0, (m.mod.capWord c (0x124 + 8 * t) 2).getD 0)
    else none
  else (m.mod.launch (m.core.launch.getD 0)).img.jtabs[t]?

/-- R181: fjmp, always taken. It reads the table entry as an ordinary load reads its bytes (log 64). -/
def execFjmp (a b : Src) (s : State) : Host.Outcome State Fault Refusal :=
  s.issue 6 (a.scalarOk && b.scalarOk) do
    let i ← s.scalar 6 0 a
    let t ← s.scalar 6 1 b
    match s.start.jtab t.toNat with
    | none => trapOf 6 kFragment
    | some (off, n) =>
      if n ≤ i.toNat then trapOf 6 kFragment
      else
        let (c, dataOff, _) := s.start.data
        let r ← s.loadFrom 6 (capObject c) (capOffset c + dataOff + off + 4 * i.toNat) 4 false
        return r.2.2.annulS1.branch (some (BitVec.ofNat 64 (leNat r.1)))

/-! ### Lap loops -/

/-- LapOpen (R182), after the checks of R151 and R152. -/
def State.lapOpen (s : State) (count len : Nat) (lr : Bool) : Act :=
  let k := s.src
  if k.depth.toNat = 4 then trapOf 6 kLoopDepth
  else if count = 0 then .ok (s.onIss fun i => { i with next := some (s.pc + BitVec.ofNat 64 (32 * (len + 2))) })
  else .ok ((s.onBank fun b =>
      { b with
        loops := vmod b.loops k.depth.toNat fun _ => ⟨BitVec.ofNat 32 count, BitVec.ofNat 7 (len + 1), lr, s.pc + 32⟩
        depth := k.depth + 1 }).onIss fun i => { i with next := some (s.pc + 32) })

/-- R182: lap, with the count saturated at 2^32 − 1. -/
def execLap (len : BitVec 6) (a : Src) (s : State) : Host.Outcome State Fault Refusal :=
  s.issue 6 a.scalarOk do
    let x ← s.scalar 6 0 a
    s.lapOpen (min x.toNat (2 ^ 32 - 1)) len.toNat false

/-- R182: lap.lr, ceil(lrc / 8) times. -/
def execLapLr (len : BitVec 6) (s : State) : Host.Outcome State Fault Refusal :=
  s.issue 6 true do
    let x ← s.view 6 0 0xC1 .lrc s.src.lrc
    s.lapOpen ((x.toNat + 7) / 8) len.toNat true

/-! ### Phases and barriers -/

/-- Code of a scope (Table 05-4). -/
def scopeCode : Scope → Nat
  | .ctx => 0
  | .core => 1
  | .cl => 2
  | .die => 3
  | .mod => 4
  | .dom => 5

/-- R184: publish, then refresh. -/
def execPhase (sc : Scope) (s : State) : Host.Outcome State Fault Refusal :=
  s.issue 6 true (.ok (s.publishThen sc (.refresh sc) fun t => { t with now := t.now.refresh sc }))

/-- The launches that share barrier instances at .mod and .dom (spec/14 R349): by masked tag within a partition, otherwise
the launch alone. -/
def Mod.barrierGroup (m : Mod) (id : W32) : Nat :=
  let l := m.launch id
  let tag := l.record.tag &&& BitVec.ofNat 32 (m.gmask l.die)
  if tag = 0 then id.toNat else 2 ^ 40 + l.record.part * 2 ^ 32 + tag.toNat

/-- A barrier instance (R185): scope, sharing launches, scope instance and number. -/
def State.barrierKey (s : State) (sc : Scope) (num : Nat) : Nat :=
  let id := s.launchId
  let r : Nat × Nat := match sc with
    | .ctx => (id.toNat, s.start.core.lcore * 8 + s.start.xid)
    | .core => (id.toNat, s.start.core.lcore)
    | .cl => (id.toNat, s.lcluster)
    | .die => (id.toNat, s.die)
    | .mod => (s.start.mod.barrierGroup id, 0)
    | .dom => (s.start.mod.barrierGroup id, 0)
  ((scopeCode sc * 2 ^ 48 + r.1) * 2 ^ 16 + r.2) * 16 + num

/-- The arrival ceiling of a launch's context on a die (spec/14 R351). -/
def Mod.arrivalCeil (m : Mod) (die : Nat) (id : W32) : Nat :=
  let l := m.launch id
  min (m.die die).ceil (m.dcap l.die l.record.pclass)

/-- The arrival at a barrier, once the publish is complete (R185 steps 1 to 4, R352): the last arrival lets every member
depart, refreshed and with the least ceiling as duty. An arrival counts towards the count that the first arrival has fixed,
also where that was fixed while this arrival's publish was under way (log 65). -/
def Mach.barrierArrive (m : Mach) (sc : Scope) (key count : Nat) : Mach :=
  let ceil := m.mod.arrivalCeil (m.cid / 64) (m.core.launch.getD 0)
  let b := match m.mod.barriers.find? (·.key = key) with
    | some b => { b with arrived := b.arrived + 1, ceil := min b.ceil ceil }
    | none => ⟨key, count, 1, ceil⟩
  let rest := m.mod.barriers.filter (·.key ≠ key)
  let m1 := { m with ctx := { m.ctx with pending := m.ctx.pending ++ [Pending.barrier key] } }
  if b.count ≤ b.arrived then
    ({ m1 with mod := { m1.mod with barriers := rest } }).everyCtxAt fun p c =>
      if (c.pending ++ c.savedPend).contains (Pending.barrier key) then
        { c.refreshed m.mod p sc with
          pending := c.pending.filter (· ≠ Pending.barrier key), savedPend := c.savedPend.filter (· ≠ Pending.barrier key)
          duty := some b.ceil, overSince := some m.mod.tick }
      else c
  else { m1 with mod := { m1.mod with barriers := rest ++ [b] } }

/-- R185: bar. -/
def execBar (sc : Scope) (a b : Src) (s : State) : Host.Outcome State Fault Refusal :=
  s.issue 6 (a.scalarOk && b.scalarOk) do
    let x ← s.scalar 6 0 a
    let n ← s.scalar 6 1 b
    let key := s.barrierKey sc x.toNat
    let fixed := match s.start.mod.barriers.find? (·.key = key) with
      | some i => i.count = n.toNat
      | none => true
    need (decide (x.toNat ≤ 15) && decide (1 ≤ n.toNat) && decide (n.toNat ≤ 65535) && fixed && (sc ≠ .ctx || n = 1)) 6 kBarrier
    return s.publishThen sc (.barrier sc key n.toNat) fun t => { t with now := t.now.barrierArrive sc key n.toNat }

/-! ### Waits -/

/-- R186: wait until tick ≥ a. -/
def execWait (a : Src) (s : State) : Host.Outcome State Fault Refusal :=
  s.issue 6 a.scalarOk do
    let x ← s.scalar 6 0 a
    if x.toNat ≤ s.tick then return s else .error (.hold { tick := some x.toNat })

/-- R186: wait until tick ≥ ptick. -/
def execWaitP (s : State) : Host.Outcome State Fault Refusal :=
  s.issue 6 true do
    if s.src.ptick.toNat ≤ s.tick then return s else .error (.hold { tick := some s.src.ptick.toNat })

/-! ### Tasks -/

/-- R190, spec/01 R33: end the task, or the context when it held none at bundle start (spec/05 R143). -/
def execTend (s : State) : Host.Outcome State Fault Refusal :=
  s.issue 6 true (.ok (s.onCtx fun c =>
    if s.start.ctx.user.flag statusHeld then c.onUser Bank.dropTask else { c with st := .ending }))

/-- R190: a kill point. -/
def execKpoint (s : State) : Host.Outcome State Fault Refusal := s.issue 6 true (.ok (s.onIss fun i => { i with kpoint := true }))

/-- The record that spawn pushes (R191). -/
def spawnRecord (a : VecReg) (b : W64) (user : Bank) : Rec :=
  BitVec.ofNat 512 (fld a 0 49 + 2 ^ 49 + (if user.flag statusEffect then 2 ^ 50 else 0) + user.handle.toNat * 2 ^ 64 +
    fld b 0 32 * 2 ^ 96 + fld a 128 384 * 2 ^ 128)

/-- Push a handler record if its queue has room: none while it is full. -/
def Mod.pushHandler (m : Mod) (die q rank : Nat) (r : Rec) : Option Mod :=
  if (m.queue die q).full then none else some (m.push die q rank r)

/-- R191: spawn; while the queue is full the next bundle is held. -/
def execSpawn (a b : Src) (s : State) : Host.Outcome State Fault Refusal :=
  s.issue 6 (a.vectorOk && b.scalarOk) do
    let x ← s.vector 6 0 .z64 a
    let y ← s.scalar 6 1 b
    match s.rcd.hq with
    | none => trapOf 6 kTaskState
    | some (die, q) =>
      if !(s.start.mod.queue die q).open then trapOf 6 kTaskState
      else
        let r := spawnRecord x y s.start.ctx.user
        let s1 := if s.start.ctx.user.flag statusHeld then s.onCtx Ctx.setEffect else s
        let wait := fun (t : State) => t.onCtx fun c => { c with pending := c.pending ++ [Pending.spawn r] }
        let p := s1.now.publish .mod .nothing
        if !p.2 then
          return wait { s1 with now := { p.1 with ctx := { p.1.ctx with pending := p.1.ctx.pending ++ [Pending.publish .mod .nothing] } } }
        else match p.1.mod.pushHandler die q p.1.selfRank r with
          | some m => return { s1 with now := { p.1 with mod := m } }
          | none => return wait { s1 with now := p.1 }

/-! ### Traps -/

/-- R296: the user trap, entered after its bundle. -/
def execTrap (a : Src) (s : State) : Host.Outcome State Fault Refusal :=
  s.issue 6 a.scalarOk do
    let x ← s.scalar 6 0 a
    return s.onIss fun i => { i with user := some x, kpoint := true }

/-- R297, spec/15 R379: rti. An illegal disposition word in s6 makes it a supervisor fault. -/
def execRti (s : State) : Host.Outcome State Fault Refusal :=
  s.issue 6 true do
    let w ← s.view 6 0 6 (.s 6) s.src.s[6]
    if !s.sv then trapAt 6 kPrivilege 6 0 0
    else if !dispositionOk w s.start.ctx.svKind then trapOf 6 kSupervisor
    else return { s with now := s.now.exceptionReturn w, iss := { s.iss with jumped := true } }

end Sys2Proof.Machine
end

