-- ==== Sys2Proof/Machine/Vector.lean ====
section
/-! DEFINITION. Vector arithmetic, logic, shifts, compares, selects, permutes, reductions and conversions (spec/07 R192 to
R204, Tables 07-1 to 07-6). -/

namespace Sys2Proof.Machine

/-- Lanes of width w. -/
def laneCount (w : Nat) : Nat := 2048 / w

/-- The bundle-start value of the destination, where inactive lanes come from (R192): read only when a lane is inactive. -/
def State.oldV (s : State) (slot w : Nat) (g : Fin 8) (p : Pred) (d : Option (Fin 32)) : Except Stop VecReg :=
  if g = 0 ∨ (upTo (laneCount w)).all (predLane w p) then .ok 0
  else match d with
    | some r => s.dataV slot 2 r
    | none => .ok 0

/-- Active lanes take f, inactive lanes keep old. -/
def guarded (w : Nat) (g : Fin 8) (p : Pred) (old : VecReg) (f : Nat → Nat) : VecReg :=
  ofLanes w ((upTo (laneCount w)).map fun i => if g = 0 || predLane w p i then f i else lane w old i)

/-- A floating operation of two sources (R194). -/
def float2 (u : VU) (d : Option (Fin 32)) (g : Fin 8) (a b : Src) (t : Ty) (f : Num → Num → Num) (s : State) :
    Host.Outcome State Fault Refusal :=
  s.issue (slotV u) (a.vectorOk && b.vectorOk) do
    let p ← s.guard (slotV u) 4 g
    let x ← s.vector (slotV u) 0 t a
    let y ← s.vector (slotV u) 1 t b
    let old ← s.oldV (slotV u) t.width g p d
    return s.retV (slotV u) 4 d (guarded t.width g p old fun i =>
      encodeNum t (f (decodeNum t (lane t.width x i)) (decodeNum t (lane t.width y i))) .rne false)

/-- fma: x × y + z with one rounding, z the bundle-start lane of vd (R194). -/
def floatFma (u : VU) (d : Fin 32) (g : Fin 8) (a b : Src) (t : Ty) (s : State) : Host.Outcome State Fault Refusal :=
  s.issue (slotV u) (a.vectorOk && b.vectorOk) do
    let p ← s.guard (slotV u) 4 g
    let x ← s.vector (slotV u) 0 t a
    let y ← s.vector (slotV u) 1 t b
    let z ← s.dataV (slotV u) 2 d
    return s.retV (slotV u) 4 (some d) (guarded t.width g p z fun i =>
      encodeNum t (((decodeNum t (lane t.width x i)).mul (decodeNum t (lane t.width y i))).add (decodeNum t (lane t.width z i))) .rne false)

/-- A floating operation of one source with bound l (R195, R196). -/
def float1 (u : VU) (d : Option (Fin 32)) (g : Fin 8) (a : Src) (t : Ty) (l : Nat) (f : Num → Num) (s : State) :
    Host.Outcome State Fault Refusal :=
  s.issue (slotV u) a.vectorOk do
    let p ← s.guard (slotV u) 4 g
    let x ← s.vector (slotV u) 0 t a
    let old ← s.oldV (slotV u) t.width g p d
    return s.retV (slotV u) l d (guarded t.width g p old fun i => encodeNum t (f (decodeNum t (lane t.width x i))) .rne false)

/-- x with sign 0. -/
def Num.abs : Num → Num
  | .fin _ m e => .fin false m e
  | .inf _ => .inf false
  | .nan => .nan

/-- An operation on the lanes of two vectors of type t with bound l, without a guard. -/
def laneOp2 (u : VU) (d : Option (Fin 32)) (a b : Src) (t : Ty) (l : Nat) (f : Nat → Nat → Nat) (s : State) :
    Host.Outcome State Fault Refusal :=
  s.issue (slotV u) (a.vectorOk && b.vectorOk) do
    let x ← s.vector (slotV u) 0 t a
    let y ← s.vector (slotV u) 1 t b
    return s.retV (slotV u) l d
      (ofLanes t.width ((upTo (laneCount t.width)).map fun i => f (lane t.width x i) (lane t.width y i)))

/-- An integer operation (R197). -/
def int2 (u : VU) (d : Option (Fin 32)) (a b : Src) (t : Ty) (l : Nat) (f : Int → Int → Int) (s : State) :
    Host.Outcome State Fault Refusal :=
  laneOp2 u d a b t l (fun x y => lowBits t.width (f (intOf t x) (intOf t y))) s

/-- Clamp to the type (R197). -/
def clampTy (t : Ty) (x : Int) : Int := clampInt x t.minInt t.maxInt

/-- A bitwise operation (R198). -/
def bits2 (u : VU) (d : Option (Fin 32)) (a b : Src) (f : VecReg → VecReg → VecReg) (s : State) :
    Host.Outcome State Fault Refusal :=
  s.issue (slotV u) (a.vectorOk && b.vectorOk) do
    let x ← s.vector (slotV u) 0 .i16 a
    let y ← s.vector (slotV u) 1 .i16 b
    return s.retV (slotV u) 1 d (f x y)

/-- Shifts of one lane by a count of w or more give 0, or all sign bits (R199). -/
def shlLane (w a n : Nat) : Nat := if w ≤ n then 0 else a * 2 ^ n % 2 ^ w
def shrLane (w a n : Nat) : Nat := if w ≤ n then 0 else a / 2 ^ n
def sarLane (w a n : Nat) : Nat := lowBits w (sgn w a / 2 ^ min n w)

/-- A floating compare (R200). -/
def cmpF (u : VU) (d : Option (Fin 24)) (a b : Src) (t : Ty) (c : Cmp) (s : State) : Host.Outcome State Fault Refusal :=
  s.issue (slotV u) (a.vectorOk && b.vectorOk) do
    let x ← s.vector (slotV u) 0 t a
    let y ← s.vector (slotV u) 1 t b
    return s.retP (slotV u) 1 d (predOfLanes t.width ((upTo (laneCount t.width)).map fun i =>
      c.num (decodeNum t (lane t.width x i)) (decodeNum t (lane t.width y i))))

/-- An integer compare (R200). -/
def cmpI (u : VU) (d : Option (Fin 24)) (a b : Src) (t : Ty) (c : Cmp) (s : State) : Host.Outcome State Fault Refusal :=
  s.issue (slotV u) (a.vectorOk && b.vectorOk) do
    let x ← s.vector (slotV u) 0 t a
    let y ← s.vector (slotV u) 1 t b
    return s.retP (slotV u) 1 d (predOfLanes t.width ((upTo (laneCount t.width)).map fun i =>
      c.int (intOf t (lane t.width x i)) (intOf t (lane t.width y i))))

/-- Table 07-1: x + y. -/
def execVaddF32 (u : VU) (d : Option (Fin 32)) (g : Fin 8) (a b : Src) (s : State) : Host.Outcome State Fault Refusal :=
  float2 u d g a b .f32 Num.add s

/-- Table 07-1: x − y. -/
def execVsubF32 (u : VU) (d : Option (Fin 32)) (g : Fin 8) (a b : Src) (s : State) : Host.Outcome State Fault Refusal :=
  float2 u d g a b .f32 Num.sub s

/-- Table 07-1: x × y. -/
def execVmulF32 (u : VU) (d : Option (Fin 32)) (g : Fin 8) (a b : Src) (s : State) : Host.Outcome State Fault Refusal :=
  float2 u d g a b .f32 Num.mul s

/-- Table 07-1: x × y + z. -/
def execVfmaF32 (u : VU) (d : Fin 32) (g : Fin 8) (a b : Src) (s : State) : Host.Outcome State Fault Refusal :=
  floatFma u d g a b .f32 s

/-- Table 07-1: the smaller under R76. -/
def execVminF32 (u : VU) (d : Option (Fin 32)) (g : Fin 8) (a b : Src) (s : State) : Host.Outcome State Fault Refusal :=
  float2 u d g a b .f32 Num.min s

/-- Table 07-1: the larger under R76. -/
def execVmaxF32 (u : VU) (d : Option (Fin 32)) (g : Fin 8) (a b : Src) (s : State) : Host.Outcome State Fault Refusal :=
  float2 u d g a b .f32 Num.max s

/-- Table 07-1: x + y. -/
def execVaddBf16 (u : VU) (d : Option (Fin 32)) (g : Fin 8) (a b : Src) (s : State) : Host.Outcome State Fault Refusal :=
  float2 u d g a b .bf16 Num.add s

/-- Table 07-1: x − y. -/
def execVsubBf16 (u : VU) (d : Option (Fin 32)) (g : Fin 8) (a b : Src) (s : State) : Host.Outcome State Fault Refusal :=
  float2 u d g a b .bf16 Num.sub s

/-- Table 07-1: x × y. -/
def execVmulBf16 (u : VU) (d : Option (Fin 32)) (g : Fin 8) (a b : Src) (s : State) : Host.Outcome State Fault Refusal :=
  float2 u d g a b .bf16 Num.mul s

/-- Table 07-1: x × y + z. -/
def execVfmaBf16 (u : VU) (d : Fin 32) (g : Fin 8) (a b : Src) (s : State) : Host.Outcome State Fault Refusal :=
  floatFma u d g a b .bf16 s

/-- Table 07-1: the smaller under R76. -/
def execVminBf16 (u : VU) (d : Option (Fin 32)) (g : Fin 8) (a b : Src) (s : State) : Host.Outcome State Fault Refusal :=
  float2 u d g a b .bf16 Num.min s

/-- Table 07-1: the larger under R76. -/
def execVmaxBf16 (u : VU) (d : Option (Fin 32)) (g : Fin 8) (a b : Src) (s : State) : Host.Outcome State Fault Refusal :=
  float2 u d g a b .bf16 Num.max s

/-- Table 07-2: x with sign 0. -/
def execVabsF32 (u : VU) (d : Option (Fin 32)) (g : Fin 8) (a : Src) (s : State) : Host.Outcome State Fault Refusal :=
  float1 u d g a .f32 2 Num.abs s

/-- Table 07-2: x with the sign flipped. -/
def execVnegF32 (u : VU) (d : Option (Fin 32)) (g : Fin 8) (a : Src) (s : State) : Host.Outcome State Fault Refusal :=
  float1 u d g a .f32 2 Num.neg s

/-- Table 07-2: Approx(2^x, 16). -/
def execVexp2F32 (u : VU) (d : Option (Fin 32)) (g : Fin 8) (a : Src) (s : State) : Host.Outcome State Fault Refusal :=
  float1 u d g a .f32 8 exp2Num s

/-- Table 07-2: Approx(1/x, 12). -/
def execVrcpF32 (u : VU) (d : Option (Fin 32)) (g : Fin 8) (a : Src) (s : State) : Host.Outcome State Fault Refusal :=
  float1 u d g a .f32 8 rcpNum s

/-- Table 07-2: Approx(1/√x, 12). -/
def execVrsqrtF32 (u : VU) (d : Option (Fin 32)) (g : Fin 8) (a : Src) (s : State) : Host.Outcome State Fault Refusal :=
  float1 u d g a .f32 8 rsqrtNum s

/-- Table 07-2: x with sign 0. -/
def execVabsBf16 (u : VU) (d : Option (Fin 32)) (g : Fin 8) (a : Src) (s : State) : Host.Outcome State Fault Refusal :=
  float1 u d g a .bf16 2 Num.abs s

/-- Table 07-2: x with the sign flipped. -/
def execVnegBf16 (u : VU) (d : Option (Fin 32)) (g : Fin 8) (a : Src) (s : State) : Host.Outcome State Fault Refusal :=
  float1 u d g a .bf16 2 Num.neg s

/-- Table 07-2: Approx(2^x, 16). -/
def execVexp2Bf16 (u : VU) (d : Option (Fin 32)) (g : Fin 8) (a : Src) (s : State) : Host.Outcome State Fault Refusal :=
  float1 u d g a .bf16 8 exp2Num s

/-- Table 07-2: Approx(1/x, 12). -/
def execVrcpBf16 (u : VU) (d : Option (Fin 32)) (g : Fin 8) (a : Src) (s : State) : Host.Outcome State Fault Refusal :=
  float1 u d g a .bf16 8 rcpNum s

/-- Table 07-2: Approx(1/√x, 12). -/
def execVrsqrtBf16 (u : VU) (d : Option (Fin 32)) (g : Fin 8) (a : Src) (s : State) : Host.Outcome State Fault Refusal :=
  float1 u d g a .bf16 8 rsqrtNum s

/-- Table 07-3: (a + b) mod 2^w. -/
def execVaddI16 (u : VU) (d : Option (Fin 32)) (a b : Src) (s : State) : Host.Outcome State Fault Refusal :=
  int2 u d a b .i16 2 (fun a b => a + b) s

/-- Table 07-3: (a − b) mod 2^w. -/
def execVsubI16 (u : VU) (d : Option (Fin 32)) (a b : Src) (s : State) : Host.Outcome State Fault Refusal :=
  int2 u d a b .i16 2 (fun a b => a - b) s

/-- Table 07-3: (a × b) mod 2^w. -/
def execVmulI16 (u : VU) (d : Option (Fin 32)) (a b : Src) (s : State) : Host.Outcome State Fault Refusal :=
  int2 u d a b .i16 4 (fun a b => a * b) s

/-- Table 07-3: the smaller. -/
def execVminI16 (u : VU) (d : Option (Fin 32)) (a b : Src) (s : State) : Host.Outcome State Fault Refusal :=
  int2 u d a b .i16 2 (min) s

/-- Table 07-3: the larger. -/
def execVmaxI16 (u : VU) (d : Option (Fin 32)) (a b : Src) (s : State) : Host.Outcome State Fault Refusal :=
  int2 u d a b .i16 2 (max) s

/-- Table 07-3: the clamped sum. -/
def execVaddsI16 (u : VU) (d : Option (Fin 32)) (a b : Src) (s : State) : Host.Outcome State Fault Refusal :=
  int2 u d a b .i16 2 (fun a b => clampTy .i16 (a + b)) s

/-- Table 07-3: the clamped difference. -/
def execVsubsI16 (u : VU) (d : Option (Fin 32)) (a b : Src) (s : State) : Host.Outcome State Fault Refusal :=
  int2 u d a b .i16 2 (fun a b => clampTy .i16 (a - b)) s

/-- Table 07-3: (a + b) mod 2^w. -/
def execVaddI32 (u : VU) (d : Option (Fin 32)) (a b : Src) (s : State) : Host.Outcome State Fault Refusal :=
  int2 u d a b .i32 2 (fun a b => a + b) s

/-- Table 07-3: (a − b) mod 2^w. -/
def execVsubI32 (u : VU) (d : Option (Fin 32)) (a b : Src) (s : State) : Host.Outcome State Fault Refusal :=
  int2 u d a b .i32 2 (fun a b => a - b) s

/-- Table 07-3: (a × b) mod 2^w. -/
def execVmulI32 (u : VU) (d : Option (Fin 32)) (a b : Src) (s : State) : Host.Outcome State Fault Refusal :=
  int2 u d a b .i32 4 (fun a b => a * b) s

/-- Table 07-3: the smaller. -/
def execVminI32 (u : VU) (d : Option (Fin 32)) (a b : Src) (s : State) : Host.Outcome State Fault Refusal :=
  int2 u d a b .i32 2 (min) s

/-- Table 07-3: the larger. -/
def execVmaxI32 (u : VU) (d : Option (Fin 32)) (a b : Src) (s : State) : Host.Outcome State Fault Refusal :=
  int2 u d a b .i32 2 (max) s

/-- Table 07-3: the clamped sum. -/
def execVaddsI32 (u : VU) (d : Option (Fin 32)) (a b : Src) (s : State) : Host.Outcome State Fault Refusal :=
  int2 u d a b .i32 2 (fun a b => clampTy .i32 (a + b)) s

/-- Table 07-3: the clamped difference. -/
def execVsubsI32 (u : VU) (d : Option (Fin 32)) (a b : Src) (s : State) : Host.Outcome State Fault Refusal :=
  int2 u d a b .i32 2 (fun a b => clampTy .i32 (a - b)) s

/-- Table 07-3: (a + b) mod 2^w. -/
def execVaddZ16 (u : VU) (d : Option (Fin 32)) (a b : Src) (s : State) : Host.Outcome State Fault Refusal :=
  int2 u d a b .z16 2 (fun a b => a + b) s

/-- Table 07-3: (a − b) mod 2^w. -/
def execVsubZ16 (u : VU) (d : Option (Fin 32)) (a b : Src) (s : State) : Host.Outcome State Fault Refusal :=
  int2 u d a b .z16 2 (fun a b => a - b) s

/-- Table 07-3: (a × b) mod 2^w. -/
def execVmulZ16 (u : VU) (d : Option (Fin 32)) (a b : Src) (s : State) : Host.Outcome State Fault Refusal :=
  int2 u d a b .z16 4 (fun a b => a * b) s

/-- Table 07-3: the smaller. -/
def execVminZ16 (u : VU) (d : Option (Fin 32)) (a b : Src) (s : State) : Host.Outcome State Fault Refusal :=
  int2 u d a b .z16 2 (min) s

/-- Table 07-3: the larger. -/
def execVmaxZ16 (u : VU) (d : Option (Fin 32)) (a b : Src) (s : State) : Host.Outcome State Fault Refusal :=
  int2 u d a b .z16 2 (max) s

/-- Table 07-3: the clamped sum. -/
def execVaddsZ16 (u : VU) (d : Option (Fin 32)) (a b : Src) (s : State) : Host.Outcome State Fault Refusal :=
  int2 u d a b .z16 2 (fun a b => clampTy .z16 (a + b)) s

/-- Table 07-3: the clamped difference. -/
def execVsubsZ16 (u : VU) (d : Option (Fin 32)) (a b : Src) (s : State) : Host.Outcome State Fault Refusal :=
  int2 u d a b .z16 2 (fun a b => clampTy .z16 (a - b)) s

/-- Table 07-3: (a + b) mod 2^w. -/
def execVaddZ32 (u : VU) (d : Option (Fin 32)) (a b : Src) (s : State) : Host.Outcome State Fault Refusal :=
  int2 u d a b .z32 2 (fun a b => a + b) s

/-- Table 07-3: (a − b) mod 2^w. -/
def execVsubZ32 (u : VU) (d : Option (Fin 32)) (a b : Src) (s : State) : Host.Outcome State Fault Refusal :=
  int2 u d a b .z32 2 (fun a b => a - b) s

/-- Table 07-3: (a × b) mod 2^w. -/
def execVmulZ32 (u : VU) (d : Option (Fin 32)) (a b : Src) (s : State) : Host.Outcome State Fault Refusal :=
  int2 u d a b .z32 4 (fun a b => a * b) s

/-- Table 07-3: the smaller. -/
def execVminZ32 (u : VU) (d : Option (Fin 32)) (a b : Src) (s : State) : Host.Outcome State Fault Refusal :=
  int2 u d a b .z32 2 (min) s

/-- Table 07-3: the larger. -/
def execVmaxZ32 (u : VU) (d : Option (Fin 32)) (a b : Src) (s : State) : Host.Outcome State Fault Refusal :=
  int2 u d a b .z32 2 (max) s

/-- Table 07-3: the clamped sum. -/
def execVaddsZ32 (u : VU) (d : Option (Fin 32)) (a b : Src) (s : State) : Host.Outcome State Fault Refusal :=
  int2 u d a b .z32 2 (fun a b => clampTy .z32 (a + b)) s

/-- Table 07-3: the clamped difference. -/
def execVsubsZ32 (u : VU) (d : Option (Fin 32)) (a b : Src) (s : State) : Host.Outcome State Fault Refusal :=
  int2 u d a b .z32 2 (fun a b => clampTy .z32 (a - b)) s

/-- R198: and. -/
def execVand (u : VU) (d : Option (Fin 32)) (a b : Src) (s : State) : Host.Outcome State Fault Refusal :=
  bits2 u d a b (fun a b => a &&& b) s

/-- R198: or. -/
def execVor (u : VU) (d : Option (Fin 32)) (a b : Src) (s : State) : Host.Outcome State Fault Refusal :=
  bits2 u d a b (fun a b => a ||| b) s

/-- R198: xor. -/
def execVxor (u : VU) (d : Option (Fin 32)) (a b : Src) (s : State) : Host.Outcome State Fault Refusal :=
  bits2 u d a b (fun a b => a ^^^ b) s

/-- R198: a and not b. -/
def execVandn (u : VU) (d : Option (Fin 32)) (a b : Src) (s : State) : Host.Outcome State Fault Refusal :=
  bits2 u d a b (fun a b => a &&& ~~~b) s

/-- R198: not. -/
def execVnot (u : VU) (d : Option (Fin 32)) (a : Src) (s : State) : Host.Outcome State Fault Refusal :=
  s.issue (slotV u) a.vectorOk do
    let x ← s.vector (slotV u) 0 .i16 a
    return s.retV (slotV u) 1 d (~~~x)

/-- R199. -/
def execVshlW16 (u : VU) (d : Option (Fin 32)) (a b : Src) (s : State) : Host.Outcome State Fault Refusal :=
  laneOp2 u d a b .z16 2 (shlLane 16) s

/-- R199. -/
def execVshrW16 (u : VU) (d : Option (Fin 32)) (a b : Src) (s : State) : Host.Outcome State Fault Refusal :=
  laneOp2 u d a b .z16 2 (shrLane 16) s

/-- R199. -/
def execVsarW16 (u : VU) (d : Option (Fin 32)) (a b : Src) (s : State) : Host.Outcome State Fault Refusal :=
  laneOp2 u d a b .z16 2 (sarLane 16) s

/-- R199. -/
def execVshlW32 (u : VU) (d : Option (Fin 32)) (a b : Src) (s : State) : Host.Outcome State Fault Refusal :=
  laneOp2 u d a b .z32 2 (shlLane 32) s

/-- R199. -/
def execVshrW32 (u : VU) (d : Option (Fin 32)) (a b : Src) (s : State) : Host.Outcome State Fault Refusal :=
  laneOp2 u d a b .z32 2 (shrLane 32) s

/-- R199. -/
def execVsarW32 (u : VU) (d : Option (Fin 32)) (a b : Src) (s : State) : Host.Outcome State Fault Refusal :=
  laneOp2 u d a b .z32 2 (sarLane 32) s

/-- Table 07-4: x = y. -/
def execVceqF32 (u : VU) (d : Option (Fin 24)) (a b : Src) (s : State) : Host.Outcome State Fault Refusal :=
  cmpF u d a b .f32 .eq s

/-- Table 07-4: not (x = y). -/
def execVcneF32 (u : VU) (d : Option (Fin 24)) (a b : Src) (s : State) : Host.Outcome State Fault Refusal :=
  cmpF u d a b .f32 .ne s

/-- Table 07-4: x < y. -/
def execVcltF32 (u : VU) (d : Option (Fin 24)) (a b : Src) (s : State) : Host.Outcome State Fault Refusal :=
  cmpF u d a b .f32 .lt s

/-- Table 07-4: x ≤ y. -/
def execVcleF32 (u : VU) (d : Option (Fin 24)) (a b : Src) (s : State) : Host.Outcome State Fault Refusal :=
  cmpF u d a b .f32 .le s

/-- Table 07-4: x or y is NaN. -/
def execVcunF32 (u : VU) (d : Option (Fin 24)) (a b : Src) (s : State) : Host.Outcome State Fault Refusal :=
  cmpF u d a b .f32 .un s

/-- Table 07-4: x = y. -/
def execVceqBf16 (u : VU) (d : Option (Fin 24)) (a b : Src) (s : State) : Host.Outcome State Fault Refusal :=
  cmpF u d a b .bf16 .eq s

/-- Table 07-4: not (x = y). -/
def execVcneBf16 (u : VU) (d : Option (Fin 24)) (a b : Src) (s : State) : Host.Outcome State Fault Refusal :=
  cmpF u d a b .bf16 .ne s

/-- Table 07-4: x < y. -/
def execVcltBf16 (u : VU) (d : Option (Fin 24)) (a b : Src) (s : State) : Host.Outcome State Fault Refusal :=
  cmpF u d a b .bf16 .lt s

/-- Table 07-4: x ≤ y. -/
def execVcleBf16 (u : VU) (d : Option (Fin 24)) (a b : Src) (s : State) : Host.Outcome State Fault Refusal :=
  cmpF u d a b .bf16 .le s

/-- Table 07-4: x or y is NaN. -/
def execVcunBf16 (u : VU) (d : Option (Fin 24)) (a b : Src) (s : State) : Host.Outcome State Fault Refusal :=
  cmpF u d a b .bf16 .un s

/-- Table 07-4: equal. -/
def execVceqW16 (u : VU) (d : Option (Fin 24)) (a b : Src) (s : State) : Host.Outcome State Fault Refusal :=
  cmpI u d a b .z16 .eq s

/-- Table 07-4: not equal. -/
def execVcneW16 (u : VU) (d : Option (Fin 24)) (a b : Src) (s : State) : Host.Outcome State Fault Refusal :=
  cmpI u d a b .z16 .ne s

/-- Table 07-4: signed less. -/
def execVcltI16 (u : VU) (d : Option (Fin 24)) (a b : Src) (s : State) : Host.Outcome State Fault Refusal :=
  cmpI u d a b .i16 .lt s

/-- Table 07-4: signed less or equal. -/
def execVcleI16 (u : VU) (d : Option (Fin 24)) (a b : Src) (s : State) : Host.Outcome State Fault Refusal :=
  cmpI u d a b .i16 .le s

/-- Table 07-4: unsigned less. -/
def execVcltZ16 (u : VU) (d : Option (Fin 24)) (a b : Src) (s : State) : Host.Outcome State Fault Refusal :=
  cmpI u d a b .z16 .lt s

/-- Table 07-4: unsigned less or equal. -/
def execVcleZ16 (u : VU) (d : Option (Fin 24)) (a b : Src) (s : State) : Host.Outcome State Fault Refusal :=
  cmpI u d a b .z16 .le s

/-- Table 07-4: equal. -/
def execVceqW32 (u : VU) (d : Option (Fin 24)) (a b : Src) (s : State) : Host.Outcome State Fault Refusal :=
  cmpI u d a b .z32 .eq s

/-- Table 07-4: not equal. -/
def execVcneW32 (u : VU) (d : Option (Fin 24)) (a b : Src) (s : State) : Host.Outcome State Fault Refusal :=
  cmpI u d a b .z32 .ne s

/-- Table 07-4: signed less. -/
def execVcltI32 (u : VU) (d : Option (Fin 24)) (a b : Src) (s : State) : Host.Outcome State Fault Refusal :=
  cmpI u d a b .i32 .lt s

/-- Table 07-4: signed less or equal. -/
def execVcleI32 (u : VU) (d : Option (Fin 24)) (a b : Src) (s : State) : Host.Outcome State Fault Refusal :=
  cmpI u d a b .i32 .le s

/-- Table 07-4: unsigned less. -/
def execVcltZ32 (u : VU) (d : Option (Fin 24)) (a b : Src) (s : State) : Host.Outcome State Fault Refusal :=
  cmpI u d a b .z32 .lt s

/-- Table 07-4: unsigned less or equal. -/
def execVcleZ32 (u : VU) (d : Option (Fin 24)) (a b : Src) (s : State) : Host.Outcome State Fault Refusal :=
  cmpI u d a b .z32 .le s

/-- R201: sel, by 16-bit lane. -/
def execSel (u : VU) (d : Option (Fin 32)) (g : Fin 8) (a b : Src) (s : State) : Host.Outcome State Fault Refusal :=
  s.issue (slotV u) (a.vectorOk && b.vectorOk) do
    let p ← s.guard (slotV u) 4 g
    let x ← s.vector (slotV u) 0 .i16 a
    let y ← s.vector (slotV u) 1 .i16 b
    return s.retV (slotV u) 1 d (ofLanes 16 ((upTo 128).map fun i => if p.getLsbD i then lane 16 x i else lane 16 y i))

/-! ### Permutes (Table 07-5) -/

/-- A permute of two vectors read with w-bit lanes. -/
def permV (u : VU) (d : Option (Fin 32)) (a b : Src) (t : Ty) (f : VecReg → VecReg → Nat → Nat) (s : State) :
    Host.Outcome State Fault Refusal :=
  s.issue (slotV u) (a.vectorOk && b.vectorOk) do
    let x ← s.vector (slotV u) 0 t a
    let y ← s.vector (slotV u) 1 t b
    return s.retV (slotV u) 3 d (ofLanes t.width ((upTo (laneCount t.width)).map (f x y)))

/-- A permute of a vector by a scalar. -/
def permS (u : VU) (d : Option (Fin 32)) (a b : Src) (t : Ty) (f : VecReg → Nat → Nat → Nat) (s : State) :
    Host.Outcome State Fault Refusal :=
  s.issue (slotV u) (a.vectorOk && b.scalarOk) do
    let x ← s.vector (slotV u) 0 t a
    let y ← s.scalar (slotV u) 1 b
    return s.retV (slotV u) 3 d (ofLanes t.width ((upTo (laneCount t.width)).map (f x y.toNat)))

/-- Table 07-5: 16-bit lane i := a lane (b lane i)[6:0]. -/
def execPerm (u : VU) (d : Option (Fin 32)) (a b : Src) (s : State) : Host.Outcome State Fault Refusal :=
  permV u d a b .z16 (fun x y i => lane 16 x (lane 16 y i % 128)) s

/-- Table 07-5: 16-bit lane i := a lane (i + b[6:0]) mod 128. -/
def execRot (u : VU) (d : Option (Fin 32)) (a b : Src) (s : State) : Host.Outcome State Fault Refusal :=
  permS u d a b .z16 (fun x y i => lane 16 x ((i + y % 128) % 128)) s

/-- Table 07-5: every 16-bit lane := a lane b[6:0]. -/
def execBcast (u : VU) (d : Option (Fin 32)) (a b : Src) (s : State) : Host.Outcome State Fault Refusal :=
  permS u d a b .z16 (fun x y _ => lane 16 x (y % 128)) s

/-- Table 07-5: lane 2i := a lane i; lane 2i + 1 := b lane i. -/
def execZip (u : VU) (d : Option (Fin 32)) (a b : Src) (s : State) : Host.Outcome State Fault Refusal :=
  permV u d a b .z16 (fun x y i => if i % 2 = 0 then lane 16 x (i / 2) else lane 16 y (i / 2)) s

/-- Table 07-5: lane i := lane 2i of a followed by b. -/
def execUnzip (u : VU) (d : Option (Fin 32)) (a b : Src) (s : State) : Host.Outcome State Fault Refusal :=
  permV u d a b .z16 (fun x y i => if i < 64 then lane 16 x (2 * i) else lane 16 y (2 * i - 128)) s

/-- Table 07-5: every 32-bit lane := a 32-bit lane b[5:0]. -/
def execBcastW32 (u : VU) (d : Option (Fin 32)) (a b : Src) (s : State) : Host.Outcome State Fault Refusal :=
  permS u d a b .z32 (fun x y _ => lane 32 x (y % 64)) s

/-- Table 07-5: 32-bit lane i := a 32-bit lane (b 32-bit lane i)[5:0]. -/
def execPermW32 (u : VU) (d : Option (Fin 32)) (a b : Src) (s : State) : Host.Outcome State Fault Refusal :=
  permV u d a b .z32 (fun x y i => lane 32 x (lane 32 y i % 64)) s

/-! ### Reductions (Table 07-6) -/

/-- The rounding that a mode byte names for element i. -/
def State.rndMode (s : State) (slot : Nat) (mb : BitVec 8) : Except Stop (Nat → Rnd) := do
  if (modeRound mb).toNat = 4 then return rndOf (← s.rndCtx slot) 4
  else return rndOf ⟨0, 0, 0, 0, 0⟩ (modeRound mb).toNat

/-- The type that a mode byte names. -/
def modeTy (mb : BitVec 8) : Ty := (Ty.ofCode (modeType mb).toNat).getD .f32

/-- Whether lane i of width w takes part. -/
def takes (w : Nat) (g : Fin 8) (p : Pred) (i : Nat) : Bool := g = 0 || predLane w p i

/-- radd.D.f32 and radd.D.bf16: an inactive lane contributes +0 in its place. -/
def raddF (u : VU) (d : Option (Fin 64)) (g : Fin 8) (a : Src) (mb : BitVec 8) (t : Ty) (s : State) :
    Host.Outcome State Fault Refusal :=
  s.issue (slotV u) (a.vectorOk && modeFloatOk mb) do
    let p ← s.guard (slotV u) 4 g
    let x ← s.vector (slotV u) 0 t a
    let rnd ← s.rndMode (slotV u) mb
    let terms := (upTo (laneCount t.width)).map fun i =>
      if takes t.width g p i then decodeNum t (lane t.width x i) else .fin false 0 0
    return s.retS (slotV u) 10 d (BitVec.ofNat 64 (encodeNum (modeTy mb) (sumInOrder .f32 .rne terms) (rnd 0) (modeSat mb)))

/-- Table 07-6: radd.D.f32. -/
def execRaddF32 (u : VU) (d : Option (Fin 64)) (g : Fin 8) (a : Src) (b : BitVec 8) (s : State) :
    Host.Outcome State Fault Refusal := raddF u d g a b .f32 s
/-- Table 07-6: radd.D.bf16. -/
def execRaddBf16 (u : VU) (d : Option (Fin 64)) (g : Fin 8) (a : Src) (b : BitVec 8) (s : State) :
    Host.Outcome State Fault Refusal := raddF u d g a b .bf16 s

/-- Table 07-6: radd.T, the exact sum as a 64-bit integer. -/
def execRaddInt (u : VU) (d : Option (Fin 64)) (g : Fin 8) (a : Src) (b : BitVec 8) (s : State) :
    Host.Outcome State Fault Refusal :=
  s.issue (slotV u) (a.vectorOk && modeIntOk b) do
    let t := modeTy b
    let p ← s.guard (slotV u) 4 g
    let x ← s.vector (slotV u) 0 t a
    let sum := (upTo (laneCount t.width)).foldl (fun acc i => if takes t.width g p i then acc + intOf t (lane t.width x i) else acc) (0 : Int)
    return s.retS (slotV u) 10 d (BitVec.ofInt 64 sum)

/-- rdot: each product rounded to FP32, then summed in order. -/
def rdotF (u : VU) (d : Option (Fin 64)) (g : Fin 8) (a b : Src) (t : Ty) (s : State) : Host.Outcome State Fault Refusal :=
  s.issue (slotV u) (a.vectorOk && b.vectorOk) do
    let p ← s.guard (slotV u) 4 g
    let x ← s.vector (slotV u) 0 t a
    let y ← s.vector (slotV u) 1 t b
    let terms := (upTo (laneCount t.width)).map fun i =>
      if takes t.width g p i then ((decodeNum t (lane t.width x i)).mul (decodeNum t (lane t.width y i))).inFmt .f32 else .fin false 0 0
    return s.retS (slotV u) 10 d (BitVec.ofNat 64 (encodeNum .f32 (sumInOrder .f32 .rne terms) .rne false))

/-- Table 07-6: rdot.f32. -/
def execRdotF32 (u : VU) (d : Option (Fin 64)) (g : Fin 8) (a b : Src) (s : State) : Host.Outcome State Fault Refusal :=
  rdotF u d g a b .f32 s
/-- Table 07-6: rdot.bf16. -/
def execRdotBf16 (u : VU) (d : Option (Fin 64)) (g : Fin 8) (a b : Src) (s : State) : Host.Outcome State Fault Refusal :=
  rdotF u d g a b .bf16 s

/-- rmax and rmin: the extreme active lane; with none, the type's other extreme. -/
def rext (u : VU) (d : Option (Fin 64)) (g : Fin 8) (a : Src) (mb : BitVec 8) (big : Bool) (s : State) :
    Host.Outcome State Fault Refusal :=
  s.issue (slotV u) (a.vectorOk && modeMaxOk mb) do
    let t := modeTy mb
    let p ← s.guard (slotV u) 4 g
    let x ← s.vector (slotV u) 0 t a
    let on := (upTo (laneCount t.width)).filter (takes t.width g p)
    let v : W64 :=
      if t.isInt then
        BitVec.ofInt 64 (on.foldl (fun acc i => if big then max acc (intOf t (lane t.width x i)) else min acc (intOf t (lane t.width x i)))
          (if big then t.minInt else t.maxInt))
      else
        BitVec.ofNat 64 (encodeNum t (on.foldl (fun acc i => if big then acc.max (decodeNum t (lane t.width x i))
          else acc.min (decodeNum t (lane t.width x i))) (.inf big)) .rne false)
    return s.retS (slotV u) 10 d v

/-- Table 07-6: rmax. -/
def execRmax (u : VU) (d : Option (Fin 64)) (g : Fin 8) (a : Src) (b : BitVec 8) (s : State) : Host.Outcome State Fault Refusal :=
  rext u d g a b true s
/-- Table 07-6: rmin. -/
def execRmin (u : VU) (d : Option (Fin 64)) (g : Fin 8) (a : Src) (b : BitVec 8) (s : State) : Host.Outcome State Fault Refusal :=
  rext u d g a b false s

/-- R204: cvt. -/
def execCvt (u : VU) (d : Fin 32) (st : BitVec 4) (rm : BitVec 3) (sat : Bool) (dt : BitVec 4) (a : Src) (s : State) :
    Host.Outcome State Fault Refusal :=
  s.issue (slotV u) (a.vectorOk && typeOk st && typeOk dt && roundOk rm) do
    let ts := (Ty.ofCode st.toNat).getD .f32
    let td := (Ty.ofCode dt.toNat).getD .f32
    let x ← s.vector (slotV u) 0 ts a
    let rnd ← if rm.toNat = 4 then (do return rndOf (← s.rndCtx (slotV u)) 4) else Except.ok (rndOf ⟨0, 0, 0, 0, 0⟩ rm.toNat)
    return s.retV (slotV u) 4 (some d) (ofLanes td.width ((upTo (2048 / max ts.width td.width)).map fun i =>
      encodeNum td (decodeNum ts (lane ts.width x i)) (rnd i) sat ts.isInt))

end Sys2Proof.Machine
end

