-- ==== Sys2Proof/Machine/Formats.lean ====
section
/-! DEFINITION. Banks of the scratchpad under their formats (spec/02 R53 to R58, spec/03 R81 to R83): elements, companion
bytes, blocks, and how a run of elements is read and written. -/

namespace Sys2Proof.Machine

/-- The element type of a bank format (Table 02-7); none for raw bytes. -/
def bfTy (f : W32) : Option Ty :=
  match bfFmt f with
  | 1 => some .f32
  | 2 => some .bf16
  | 3 => some .f16
  | 4 => some .e4m3
  | 5 => some .e5m2
  | 6 => some .e2m1
  | 7 => some .i8
  | 8 => some .i16
  | 9 => some .i32
  | 10 => some .i64
  | 11 => some .z8
  | 12 => some .z16
  | 13 => some .z32
  | 14 => some .z64
  | _ => none

/-- The companion bytes of every data line touched lie inside the bank (R56). -/
def compOk (f : W32) (size off n : Nat) : Bool :=
  bfComp f = 0 || (linesOf (off % size) n).all fun l => decide (128 * bfCbase f + bfComp f * (l + 1) ≤ size)

/-- Elements of a run: its data bytes and the companion bytes that its blocks use (R57, R81, R83). -/
def decodeRun (f : W32) (data comp : List Byte) : List Num :=
  match bfTy f with
  | none => []
  | some t =>
    let w := t.width
    let raw := leNat data
    let code := fun i => raw / 2 ^ (w * i) % 2 ^ w
    (upTo (8 * data.length / w)).map fun i =>
      match bfBlock f with
      | 0 => decodeNum t (code i)
      | b =>
        if t = .e2m1 then decodeF4X ((comp.getD (2 * (i / b)) 0).toNat) ((comp.getD (2 * (i / b) + 1) 0).toNat) (code i)
        else decodeScaled t ((comp.getD (i / b) 0).toNat) (code i)

/-- Blocks of b values. -/
def chunks {α : Type} (b : Nat) : Nat → List α → List (List α)
  | 0, _ => []
  | n + 1, l => l.take b :: chunks b n (l.drop b)

/-- Data bytes and companion bytes that store a run of values (R57, R82, R83): rounding by element index, saturation, and
whether the values' kind is integer. -/
def encodeRun (f : W32) (xs : List Num) (rnd : Nat → Rnd) (sat srcInt : Bool) : List Byte × List Byte :=
  match bfTy f with
  | none => ([], [])
  | some t =>
    let w := t.width
    match bfBlock f with
    | 0 =>
      let codes := xs.mapIdx fun i x => encodeNum t x (rnd i) sat srcInt
      (leBytes (w * xs.length / 8) (joinLanes w codes), [])
    | b =>
      let blocks := (chunks b (xs.length / b) xs).mapIdx fun k c =>
        if t = .e2m1 then encodeF4X c (fun i => rnd (b * k + i)) sat else encodeScaled t c (fun i => rnd (b * k + i)) sat
      (leBytes (w * xs.length / 8) (joinLanes w (blocks.flatMap (·.elems))),
        blocks.flatMap fun k => if t = .e2m1 then [BitVec.ofNat 8 k.scale, BitVec.ofNat 8 k.spare] else [BitVec.ofNat 8 k.scale])

/-- Write a run: the data bytes first, then the companion bytes (R56). -/
def Core.runWrite (k : Core) (off : Nat) (data : List Byte) (comp : List Host.Cell) : Core :=
  comp.foldl (fun k c => k.spWrite c.1 [c.2]) (k.spWrite off data)

/-- Bytes of a core at listed offsets. -/
def Core.spAt (k : Core) (draw : Nat) (offs : List Nat) : List Byte := offs.map (k.spByte draw)

/-- The lines of listed offsets. -/
def linesAt (offs : List Nat) : List Nat := offs.foldl (fun t o => sins (o / 128) t) []

/-- The size of a vector access of L lanes in a bank (R57, R206). -/
def runBytes (f : W32) (l : Nat) : Nat := if bfFmt f = 0 then 256 else l * bfBits f / 8

/-- Lanes of type t decoded from a run (R57). -/
def loadLanes (f : W32) (t : Ty) (data comp : List Byte) (rnd : Nat → Rnd) (sat : Bool) : VecReg :=
  match bfTy f with
  | none => BitVec.ofNat 2048 (leNat data)
  | some e => ofLanes t.width ((decodeRun f data comp).mapIdx fun i x => encodeNum t x (rnd i) sat e.isInt)

end Sys2Proof.Machine
end

