-- ==== Sys2Proof/Machine/VecMem.lean ====
section
/-! DEFINITION. Vector memory access (spec/07 R205 to R208): global loads and stores of 256 bytes, and scratchpad loads and
stores through the bank formats. -/

namespace Sys2Proof.Machine

/-- R205: vld. -/
def execVld (u : VU) (d : Option (Fin 32)) (a b : Src) (s : State) : Host.Outcome State Fault Refusal :=
  s.issue (slotV u) (a.capOk && b.scalarOk) do
    let r ← s.load (slotV u) a b 256 2 false
    return r.2.2.retV (slotV u) 8 d (BitVec.ofNat 2048 (leNat r.1))

/-- R205, R69: vld.nr; bit i of pN is 1 when a byte of 16-bit lane i lay in a non-resident page, and that lane is +0. -/
def execVldNr (u : VU) (d : Option (Fin 32)) (p : Fin 8) (a b : Src) (s : State) : Host.Outcome State Fault Refusal :=
  s.issue (slotV u) (a.capOk && b.scalarOk) do
    let r ← s.load (slotV u) a b 256 2 true
    let gone := (upTo 128).map fun i => r.2.1.getD (2 * i) false || r.2.1.getD (2 * i + 1) false
    let v := BitVec.ofNat 2048 (leNat r.1)
    return (r.2.2.retV (slotV u) 8 d (ofLanes 16 (gone.mapIdx fun i z => if z then 0 else lane 16 v i))).putPred 8 p
      (predOfLanes 16 gone)

/-- R205: vst. -/
def execVst (u : VU) (d : Fin 32) (a b : Src) (s : State) : Host.Outcome State Fault Refusal :=
  s.issue (slotV u) (a.capOk && b.scalarOk) do
    let (c, off) ← s.globalAt (slotV u) a b 256 2 rSt
    s.cleanCap (slotV u) a b
    let v ← s.dataV (slotV u) 2 d
    return s.storeAt (capObject c) off (leBytes 256 v.toNat)

/-- The format of the bank at an address, on the core that owns it, as it stands at bundle start (R55, R172). -/
def State.bankFormat (s : State) (t : SpAddr) : W32 :=
  (s.start.coreAt (s.peer t.core)).bfmt.toList.getD (t.off / s.spBank) 0

/-- The address and format of a vector access of L lanes, with the checks of R52, R56 and R208. -/
def State.vecAddr (s : State) (slot : Nat) (a : W64) (l : Nat) : Except Stop (SpAddr × W32 × Nat) :=
  if s.rcd.gSp = 0 ∨ !s.spOk a.toNat 0 then trapAt slot kScratch 0 a.toNat 0
  else
    let t := s.spAddr a.toNat
    let f := s.bankFormat t
    let n := runBytes f l
    do
      let t ← s.spCheck slot a.toNat n
      if compOk f s.spBank t.off n then return (t, f, n) else trapAt slot kScratch 0 a.toNat 0

/-- vlds and vlds.c (R206): waiting or consuming reads of the data lines, waiting reads of the companion lines. -/
def loadSpV (u : VU) (d : Option (Fin 32)) (a : Src) (mb : BitVec 8) (cons : Bool) (s : State) : Host.Outcome State Fault Refusal :=
  s.issue (slotV u) (a.scalarOk && modeOk mb) do
    let x ← s.calm.scalar (slotV u) 0 a
    let t := modeTy mb
    let (p, f, n) ← s.vecAddr (slotV u) x (2048 / t.width)
    let _ ← s.scalar (slotV u) 0 a
    let rnd ← s.rndMode (slotV u) mb
    let comp := compOffsets f s.spBank p.off n
    if p.core = s.place then
      s.lineWait (slotV u) (linesOf p.off n ++ linesAt comp)
      if s.start.core.spBad p.off n ∨ comp.any (fun o => s.start.core.spBad o 1) then trapAt (slotV u) kPoison 3 p.off 0
      else
        let v := loadLanes f t (s.start.core.spBytesAt s.free p.off n) (s.start.core.spAt s.free comp) rnd (modeSat mb)
        return (if cons then s.onCore fun k => k.setEmpty (linesOf p.off n) else s).retV (slotV u) 4 d v
    else
      let (rq, s1) := s.newReq
      return (s1.expect (slotV u) 24 (d.map .v) rq).remote (slotV u) p rq (d.map .v)
        (.read cons n (some (mb, f, s.src.s[62], s.src.s[63])))

/-- R206: vlds. -/
def execVlds (u : VU) (d : Option (Fin 32)) (a : Src) (b : BitVec 8) (s : State) : Host.Outcome State Fault Refusal :=
  loadSpV u d a b false s
/-- R206: vlds with .c. -/
def execVldsC (u : VU) (d : Option (Fin 32)) (a : Src) (b : BitVec 8) (s : State) : Host.Outcome State Fault Refusal :=
  loadSpV u d a b true s

/-- vsts and vsts.f (R207): the lanes encoded into the bank; each data line keeps its bit or fills, companion lines keep. -/
def storeSpV (u : VU) (d : Fin 32) (a : Src) (mb : BitVec 8) (fill : Bool) (s : State) : Host.Outcome State Fault Refusal :=
  s.issue (slotV u) (a.scalarOk && modeOk mb) do
    let x ← s.calm.scalar (slotV u) 0 a
    let t := modeTy mb
    let l := 2048 / t.width
    let (p, f, n) ← s.vecAddr (slotV u) x l
    let _ ← s.scalar (slotV u) 0 a
    let v ← s.dataV (slotV u) 2 d
    let rnd ← s.rndMode (slotV u) mb
    let r := if bfFmt f = 0 then (leBytes 256 v.toNat, [])
      else encodeRun f ((upTo l).map fun i => decodeNum t (lane t.width v i)) rnd (modeSat mb || bfSat f) t.isInt
    let comp := (compOffsets f s.spBank p.off n).zip r.2
    if p.core = s.place then
      return s.onCore fun k =>
        let k1 := k.runWrite p.off r.1 comp
        if fill then k1.setFull (linesOf p.off n) else k1
    else return s.remote (slotV u) p 0 none (.write r.1 comp fill)

/-- R207: vsts. -/
def execVsts (u : VU) (d : Fin 32) (a : Src) (b : BitVec 8) (s : State) : Host.Outcome State Fault Refusal := storeSpV u d a b false s
/-- R207: vsts with .f. -/
def execVstsF (u : VU) (d : Fin 32) (a : Src) (b : BitVec 8) (s : State) : Host.Outcome State Fault Refusal := storeSpV u d a b true s

end Sys2Proof.Machine
end

