-- ==== Sys2Proof/Machine/Engine.lean ====
section
/-! DEFINITION. Engine operations at issue (spec/09 R254 to R260, spec/04 R123, R124): walks and footprints, the checks of
R256 in their order, hazards, the promised tick (spec/02 R72, spec/17 R432), and copy, gather and scatter. -/

namespace Sys2Proof.Machine

/-! ### Scratchpad bytes of a cluster -/

/-- Set a line of the cluster of core c full or empty. -/
def Mach.setLine (m : Mach) (c l : Nat) (full : Bool) : Mach :=
  m.onCore (m.peerOf c (l / 2 ^ 15)) fun k => if full then k.setFull [l % 2 ^ 15] else k.setEmpty [l % 2 ^ 15]

def Mach.lineFull (m : Mach) (c l : Nat) : Bool := (m.coreAt (m.peerOf c (l / 2 ^ 15))).full.contains (l % 2 ^ 15)

/-- A scratchpad byte by key. -/
def Mach.spByteAt (m : Mach) (draw c key : Nat) : Byte := (m.coreAt (m.peerOf c (key / 2 ^ 22))).spByte draw (key % 2 ^ 22)

/-! ### Hazards (Table 04-6) -/

/-- An earlier operation holds a later one (R123). -/
def EngOp.blocks (e o : EngOp) (place bank : Nat) : Bool :=
  let (er, ew) := e.rest place bank
  ew.any (fun w => (o.rd ++ o.wr).any w.meets) || er.any fun r => o.wr.any r.meets

/-- The operation waits for an edge of an earlier one of its context. -/
def Mach.hazard (m : Mach) (c x : Nat) (o : EngOp) : Bool :=
  let es := (m.ctxAt c x).engine
  (es.takeWhile (·.cmd ≠ o.cmd)).any fun e => e.blocks o (m.lplace c) (m.spBankOf c)

/-! ### Issue -/

/-- An operation as it enters the window. -/
def EngOp.new (cmd major fn : Nat) (ptick : Option Nat) (body : EngBody) (rd wr : List Range) (buf : List Host.Cell)
    (serial : Option Nat) (sv : Bool) (issued ctx : Nat) (awaits : List Nat) : EngOp :=
  { cmd := cmd, major := major, fn := fn, ptick := ptick, body := body, rd := rd, wr := wr, at' := 0, buf := buf, bufBad := [], gw := []
    rdata := [], asked := [], serial := serial, owed := 0, status := 0, missed := false, sv := sv, defer := [], parked := false, issued := issued, ctx := ctx, awaits := awaits }

/-- The engine window has room (spec/01 R18). -/
def State.window (s : State) : Except Stop Unit := waitFor (decide (s.now.ctx.engine.length < 16))

/-- A poisoned byte of the cluster's scratchpads, by key. -/
def Mach.spBadAt (m : Mach) (c key : Nat) : Bool := (m.coreAt (m.peerOf c (key / 2 ^ 22))).spBad (key % 2 ^ 22) 1

/-- Keys of the context's dirty bytes in the sectors that ranges touch (R124). -/
def Ctx.dirtyUnder (c : Ctx) (rs : List Range) : List Nat :=
  (c.unpub.filter fun e => rs.any fun r => r.touches (e.1 / 2 ^ 64) (e.1 % 2 ^ 64 / 128 * 128) 128).map (·.1)

/-- R124 step 2: every sector that a write footprint overlaps leaves the L1 data cache. Dirty bytes in it go home, published to
nobody, as before a strong access (R64); those under the footprint that cannot go home at once are given up to the operation's
own write (log 61). A mapreq writes none of them. -/
def Mach.invalidate (m : Mach) (wr : List Range) (writes : Bool) : Mach :=
  let dirty := if writes then m.ctx.dirtyUnder wr else []
  let m1 := if dirty = [] then m else m.publishBytes none fun k => dirty.contains k && (match m.destOf k with | .phys .. => true | _ => false)
  let hit := fun (k : Nat) => wr.any fun r => r.touches (k / 2 ^ 64) (k % 2 ^ 64 / 128 * 128) 128
  let under := fun (k : Nat) => writes && wr.any fun r => r.touches (k / 2 ^ 64) (k % 2 ^ 64) 1
  { m1 with ctx := { m1.ctx with
      unpub := m1.ctx.unpub.filter fun e => !under e.1
      unpubPoison := m1.ctx.unpubPoison.filter fun k => !under k
      out := m1.ctx.out.filter fun e => !under e.1
      l1 := m1.ctx.l1.filter fun e => !hit e.1 } }

/-- What an engine operation does in its issue cycle (R124, R254): dirty bytes under its reads are published at .mod, by what the
slots before X have left (log 62); the operation and the next bundle wait for those that cannot be yet; sectors under its writes
are invalidated; lines it both reads and writes are read as they stand where full, every line it drains (those it writes,
unless its form says otherwise) is drained, and it enters the window with the bytes that its form has read at issue. -/
def State.engineIssue (s : State) (major fn : Nat) (ptick : Option Nat) (body : EngBody) (rd wr : List Range)
    (serial : Option Nat := none) (drains : Option (List Range) := none) (taken : List Host.Cell := []) : State :=
  let under := s.now.ctx.dirtyUnder rd
  let m0 := if under = [] then s.now else s.now.publishBytes (some .mod) under.contains
  let late := m0.ctx.dirtyUnder rd
  let m1 := m0.invalidate wr (match body with | .mapreq .. => false | _ => true)
  let ws := lineSet (drains.getD wr)
  let pre := (lineSet rd).filter fun l => ws.contains l && s.start.lineFull s.start.cid l
  let keys := rd.flatMap fun r =>
    if r.space = 1 then ((upTo r.len).map fun i => r.obj * 2 ^ 22 + r.off + i).filter fun k => pre.contains (k / 128) else []
  let buf := keys.foldl (fun t k => tset k (s.start.spByteAt s.free s.start.cid k) t) taken
  let m2 := ws.foldl (fun m l => m.setLine m.cid l false) m1
  let o := { EngOp.new m2.ctx.cmd major fn ptick body rd wr buf serial s.sv s.tick s.now.xid late with bufBad := keys.filter (s.start.spBadAt s.start.cid) }
  { s with now := { m2 with ctx := { m2.ctx with
      engine := m2.ctx.engine ++ [o], cmd := (m2.ctx.cmd + 1) % 2 ^ 32
      pending := if late = [] then m2.ctx.pending else m2.ctx.pending ++ [Pending.publish .mod (.reads late)] } } }

/-- One more X result (R295). -/
def Bank.newX (b : Bank) : Bank := { b with xSeq := b.xSeq + 1 }

/-- The scalar result of an X-slot operation, counted for R295. -/
def State.retX (s : State) (l : Nat) (d : Option (Fin 64)) (v : W64) : State :=
  (s.retS 5 l d v).onBank Bank.newX

/-! ### Promised ticks (spec/17 R431, R432, Table 17-6) -/

/-- Ring hops between two compute dies (spec/14 R346). -/
def ringDist (a b : Nat) : Nat := min (max a b - min a b) (8 - (max a b - min a b))

/-- Ring hops between any two dies: a Crievo die is reached through the nearest compute die it links to. -/
def dieHops (a b : Nat) : Nat :=
  if a < 8 ∧ b < 8 then ringDist a b
  else if 8 ≤ a ∧ 8 ≤ b then 0
  else if min a b % 2 = max a b % 2 then 0 else 1

/-- Source latency and engine rate towards a device address. -/
def memRate (die addr : Nat) : Nat × Nat :=
  if hostBase ≤ addr then (1200, 32)
  else
    let d := addr / 2 ^ 48
    if d = die then (200, 128) else if 8 ≤ d then (360, 64) else (200 + 40 * dieHops die d, 64)

/-- Ls and Bw of an object's byte; none on another module, whose memory is not known here. -/
def State.objectRate (s : State) (obj off : Nat) : Option (Nat × Nat) :=
  match s.start.mod.entry obj with
  | none => some (200, 128)
  | some e =>
    match s.start.mod.place obj e off false with
    | .phys a => some (memRate s.die a)
    | .absent | .miss _ => some (if entType e = 2 then (1200, 32) else (200, 128))
    | .remote .. => none

/-- Ls and Bw of a side. -/
def State.sideRate (s : State) (sd : Side) : Option (Nat × Nat) :=
  match shSpace sd.shape with
  | 0 => s.objectRate (capObject sd.cap) (sd.offset 0).toNat
  | 1 => some (if spKeyOf s.place (sd.addr 0) / 2 ^ 22 = s.place then 8 else 24, 256)
  | _ => some (8, 256)

/-- Division rounded up. -/
def ceilDiv (a b : Nat) : Nat := (a + b - 1) / b

/-- Bytes of an operation that its copy engine has still to move. -/
def EngOp.queued (o : EngOp) : Nat :=
  match o.body with
  | .move _ dst w run _ _ _ => (((upTo dst.positions).drop o.at').map (dst.bytes w run)).sum
  | .lines .. => 0
  | _ => (o.rd.map (·.len)).sum

/-- Bytes queued in the core's copy engine (Qb). -/
def State.queuedBytes (s : State) : Nat :=
  (s.now.whole.ctxs.map fun c => (c.engine.map EngOp.queued).sum).sum

/-- ptick = t0 + 24 + (Qb + B) / Bw + Ls; a free value where the latency of another module's memory enters it. -/
def State.promise (s : State) (bytes : Nat) (rates : List (Option (Nat × Nat))) : Nat :=
  match rates.mapM id with
  | some rs => s.tick + 24 + ceilDiv (s.queuedBytes + bytes) (rs.foldl (fun b r => min b r.2) 256) + rs.foldl (fun l r => max l r.1) 0
  | none => (s.free? 63 5 12).toNat

/-- Issue with a promised tick: lat.x, the destination and ptick take it (R72). -/
def State.promised (s : State) (d : Option (Fin 64)) (p : Nat) : State :=
  (s.retX 2 d (BitVec.ofNat 64 p)).onBank fun b => { b with ptick := BitVec.ofNat 64 p }

/-! ### The checks of R256 -/

/-- The first failing element of a walk. -/
def firstStop {α : Type} (l : List α) (f : α → Option Stop) : Except Stop Unit :=
  match l.findSome? f with
  | some e => .error e
  | none => .ok ()

/-- CheckCap of one element. -/
def capStop (slot : Nat) (c : Cap) (d : Int) (n : Nat) (rights : BitVec 6) : Option Stop :=
  (checkCap c d n rights).map fun sub =>
    let e := (capOffset c : Int) + d
    .trap ⟨kCapability, sub, slot, if sub = 3 then firstBad e (capLength c) else lowBits 64 e, capObject c⟩

/-- A non-zero reserved bit of Table 09-2. -/
def auxOk (h : Shape) (tagged : Bool) : Bool :=
  fld (shAux0 h) 6 2 == 0 && fld (shAux0 h) 12 4 == 0 && (tagged || shAux1 h == 0)

/-- Bytes of an element in byte mode, by the shape's fmt. -/
def fmtBytes (code : Nat) : Nat := fmtBits code / 8

/-- Read a side's operands: the capability of a global side. -/
def State.side (s : State) (slot pos : Nat) (h : Shape) (rows : Option (List W32)) : Except Stop Side := do
  let c ← if shSpace h = 0 then s.capReg slot pos (fld (shAux0 h) 0 4) else Except.ok 0
  return ⟨h, c, rows, []⟩

/-- Bank format at an address word, 0 when the address is out of range. -/
def State.formatAt (s : State) (a : Nat) : W32 :=
  if s.rcd.gSp = 0 ∨ !s.spOk a 0 then 0 else s.bankFormat (s.spAddr a)

/-- What a fabric store adds to the checks of its transfer (R264, R265): the sprint lane, and its flag word. -/
structure FabricChecks where
  sprint : Bool
  flag : Option (Cap × Int)

/-- The limits of R264 and R265. -/
def FabricChecks.limit (f : FabricChecks) (hb : Shape) (bytes : Nat) : Bool :=
  shSpace hb = 0 && (!f.sprint || decide (bytes ≤ 128))

/-- Every check of a transfer (R256, R258 to R260), and its sides with their mode: element bytes and run length. A fabric
store adds its own at each step of R256. -/
def State.transfer (s : State) (a b : Side) (fab : Option FabricChecks := none) : Except Stop (Side × Side × Nat × Nat) := do
  let ha := a.shape
  let hb := b.shape
  let tagged := (shAux0 hb).getLsbD 5
  need (shapeOk ha && shapeOk hb && auxOk ha false && auxOk hb tagged) 5 kShape
  let small := decide (a.positions ≤ 2 ^ 24) && decide (b.positions ≤ 2 ^ 24)
  let pos := upTo (if small then a.positions else 0)
  let fa := pos.map fun t => s.formatAt (a.addr t)
  let fb := (upTo (if small then b.positions else 0)).map fun t => s.formatAt (b.addr t)
  let banks := if pos = [] then [s.formatAt (a.addr 0), s.formatAt (b.addr 0)] else fa ++ fb
  let conv := fab.isNone && shSpace ha = 1 && shSpace hb = 1 && banks.all fun f => bfFmt f ≠ 0
  let run := if !conv then 0 else if (fa ++ fb).any fun f => bfFmt f = 6 || bfSmode f ≠ 0 then 32 else 1
  need (conv || (shFmt ha ≠ 6 && shFmt hb ≠ 6)) 5 kShape
  let a := if conv then { a with fmts := fa } else a
  let b := if conv then { b with fmts := fb } else b
  let w := fmtBytes (shFmt ha)
  let rowOk := fun (sd : Side) => match sd.rows with
    | some r => decide (1 ≤ r.length) && decide (r.length ≤ 64) && shExt sd.shape 2 = 1 && shExt sd.shape 3 = 1
    | none => true
  need (rowOk a && rowOk b && small && decide (a.positions = b.positions) && shSpace ha ≠ 2 && (!tagged || shSpace hb = 0) &&
    (conv || w = fmtBytes (shFmt hb))) 5 kEngine
  let total := fun (sd : Side) => (pos.map (sd.bytes w run)).sum
  let whole := fun (sd : Side) => total sd + (if shSpace sd.shape = 1 then (pos.map fun t => (sd.comps s.place s.spBank w run t).length).sum else 0)
  need (decide (whole a ≤ 2 ^ 24) && decide (whole b ≤ 2 ^ 24) && (shSpace hb ≠ 2 || total b % 256 = 0) &&
    fab.all (·.limit hb (total b))) 5 kEngine
  if shSpace ha = 0 then firstStop pos fun t => capStop 5 a.cap (sgn 64 (a.addr t)) (a.bytes w run t) rLd
  if shSpace hb = 0 then firstStop pos fun t => capStop 5 b.cap (sgn 64 (b.addr t)) (b.bytes w run t) rSt
  firstStop (fab.bind (·.flag)).toList fun f => capStop 5 f.1 f.2 8 rAt
  let range := fun (sd : Side) (t : Nat) =>
    let ad := sd.addr t
    if shSpace sd.shape = 1 ∧ !(s.rcd.gSp ≠ 0 && s.spOk ad (sd.bytes w run t) &&
        (run = 0 || compOk (sd.fmts.getD t 0) s.spBank (ad % 2 ^ 22) (sd.bytes w run t)))
    then some (Stop.trap ⟨kScratch, 0, 5, ad, 0⟩) else none
  firstStop pos (range a)
  firstStop pos (range b)
  let align := fun (sd : Side) (t : Nat) =>
    let n := sd.bytes w run t
    if shSpace sd.shape = 0 then
      if (sd.offset t).toNat % n = 0 then none else some (Stop.trap ⟨kAlignment, 0, 5, (sd.offset t).toNat, capObject sd.cap⟩)
    else if shSpace sd.shape = 1 ∧ sd.addr t % min n 128 ≠ 0 then some (Stop.trap ⟨kAlignment, 0, 5, sd.addr t, 0⟩)
    else none
  firstStop pos (align a)
  firstStop pos (align b)
  firstStop (fab.bind (·.flag)).toList fun f =>
    let off := lowBits 64 ((capOffset f.1 : Int) + f.2)
    if f.2 % 8 = 0 ∧ off % 8 = 0 then none else some (.trap ⟨kAlignment, 0, 5, off, capObject f.1⟩)
  return (a, b, w, run)

/-! ### copy, gather, scatter -/

/-- Member word and join handle of a tagged destination. -/
def tagOf (h : Shape) : Option (W64 × W64) :=
  if (shAux0 h).getLsbD 5 then some (BitVec.ofNat 64 (fld (shAux0 h) 16 16), shAux1 h) else none

/-- Issue a checked transfer with a promised tick. -/
def State.moveIssue (s : State) (major fn : Nat) (d : Option (Fin 64)) (a b : Side) : Act := do
  let (a, b, w, run) ← s.transfer a b
  let cons := (shAux0 a.shape).getLsbD 4 && shSpace a.shape = 1
  let bytes := ((upTo b.positions).map (b.bytes w run)).sum
  let p := s.promise bytes [s.sideRate a, s.sideRate b]
  let s1 := s.engineIssue major fn (some p) (.move a b w run cons none (tagOf b.shape))
    (a.from s.place s.spBank w run 0) (b.from s.place s.spBank w run 0)
  return s1.promised d p

/-- R258: copy. -/
def execCopy (d : Option (Fin 64)) (a b : Src) (s : State) : Host.Outcome State Fault Refusal :=
  s.issue 5 (a.shapeOk && b.shapeOk) do
    s.window
    let x ← s.shape 5 0 a
    let y ← s.shape 5 1 b
    let sa ← s.side 5 2 x none
    let sb ← s.side 5 3 y none
    s.moveIssue 1 0 d sa sb

/-- The row list of a gather or scatter: one start per row from the queue head (R259). -/
def rowList (h : Shape) (v : VecReg) : Option (List W32) :=
  some ((upTo (min (shExt h 1) 65)).map fun i => BitVec.ofNat 32 (lane 32 v i))

/-- R259: gather. -/
def execGather (d : Option (Fin 64)) (q : Fin 8) (a b : Src) (s : State) : Host.Outcome State Fault Refusal :=
  s.issue 5 (a.shapeOk && b.shapeOk) do
    s.window
    let v ← s.head 5 (0xA0 + q.val) q
    let x ← s.shape 5 0 a
    let y ← s.shape 5 1 b
    let sa ← s.side 5 2 x (rowList x v)
    let sb ← s.side 5 3 y none
    s.moveIssue 2 q.val d sa sb

/-- R259: scatter. -/
def execScatter (d : Option (Fin 64)) (q : Fin 8) (a b : Src) (s : State) : Host.Outcome State Fault Refusal :=
  s.issue 5 (a.shapeOk && b.shapeOk) do
    s.window
    let v ← s.head 5 (0xA0 + q.val) q
    let x ← s.shape 5 0 a
    let y ← s.shape 5 1 b
    let sa ← s.side 5 2 x none
    let sb ← s.side 5 3 y (rowList y v)
    s.moveIssue 3 q.val d sa sb

/-! ### mapreq -/

/-- Step of the pages that a mapreq looks at. -/
def pageStep (e : Entry) : Nat := if entType e = 2 then 4096 else 2 ^ 21

/-- Pages of a range by where their first byte is. -/
def Mod.pagesOf (m : Mod) (obj off len : Nat) (p : Place → Bool) : List Nat :=
  match m.entry obj with
  | none => []
  | some e =>
    let step := pageStep e
    ((upTo ((off + len - 1) / step - off / step + 1)).map fun i => off / step + i).filter fun k => p (m.place obj e (k * step) false)

/-- Pages of a range that are not resident. -/
def Mod.absentPages (m : Mod) (obj off len : Nat) : List Nat := m.pagesOf obj off len (· = .absent)

/-- Translations of a range that the host has still to give (spec/15 R371). -/
def Mod.missPages (m : Mod) (obj off len : Nat) : List AtsReq :=
  match m.entry obj with
  | none => []
  | some e =>
    (m.pagesOf obj off len fun p => match p with | .miss _ => true | _ => false).map fun k =>
      ⟨entHp e, entPid e, (entBase e + k * pageStep e) / 4096, none⟩

/-- R295: mapreq. -/
def execMapreq (d : Option (Fin 64)) (a b : Src) (s : State) : Host.Outcome State Fault Refusal :=
  s.issue 5 (a.capOk && b.scalarOk) do
    s.window
    let c ← s.cap 5 0 a
    let n ← s.scalar 5 1 b
    need (decide (1 ≤ n.toNat) && decide (n.toNat ≤ 2 ^ 32)) 5 kEngine
    match capStop 5 c 0 n.toNat rLd with
    | some e => .error e
    | none =>
      let obj := capObject c
      let absent := s.start.mod.pagesOf obj (capOffset c) n.toNat fun p => match p with | .absent => true | .miss _ => true | _ => false
      let rate := (s.objectRate obj (capOffset c)).map fun r => (if absent = [] then r.1 else 1200 * absent.length, r.2)
      let p := s.promise n.toNat [rate]
      let s1 := (s.engineIssue 0x0D 0 (some p) (.mapreq c n.toNat (s.now.ctx.bank.xSeq + 1)) [] [⟨0, obj, capOffset c, n.toNat⟩])
      return s1.promised d p

end Sys2Proof.Machine
end

