-- ==== Sys2Proof/Machine/Rows.lean ====
section
/-! DEFINITION. Row control and the lane packer (spec/07 R209 to R221) and the registration of rows with the fill engine
(spec/09 R284 to R288). -/

namespace Sys2Proof.Machine

/-! ### The row table -/

/-- What the issuing launch owns of the issuing core's logical cluster, as every slot reads it: at bundle start (spec/05 R143). -/
def State.cluster (s : State) : Cluster := tget Cluster.fresh s.lcluster (s.start.mod.launch s.launchId).clusters
def State.onCluster (s : State) (f : Cluster → Cluster) : State :=
  s.onLaunch fun l => { l with clusters := tmod Cluster.fresh s.lcluster f l.clusters }

/-- Rows of the launch (R209) and entries of its fill list (R284). -/
def State.rowCount (s : State) : Nat := if s.rcd.n < 8 then 128 * s.rcd.n else 1024
def State.fillShare (s : State) : Nat := if s.rcd.n < 8 then 32 * s.rcd.n else 256

def Cluster.row (c : Cluster) (r : Nat) : W32 := tget 0 r c.rows
def Cluster.setRow (c : Cluster) (r : Nat) (w : W32) : Cluster := { c with rows := tput 0 r w c.rows }

/-- Fields of a row control word (Table 07-7). -/
def rowAction (w : W32) : Nat := fld w 0 2
def rowCountdown (w : W32) : Nat := fld w 2 4
def rowBlock (w : W32) : Nat := fld w 6 8
def rowGap (w : W32) : Bool := w.getLsbD 14
def rowLive (w : W32) : Bool := w.getLsbD 15
def rowTag (w : W32) : Nat := fld w 16 16

/-- A window word (Table 07-9). -/
structure RowWin where
  row0 : Nat
  n : Nat
  map : Fin 4
  thr : Fin 4
  block : Nat
  sel : Nat
deriving DecidableEq, Repr

/-- The checks of R211 on a window word of at most `limit` rows, with the selectors that are legal. -/
def State.rowWin (s : State) (slot : Nat) (b : W64) (limit : Nat) (sels : List Nat) : Except Stop RowWin := do
  let w : RowWin := ⟨fld b 0 10, fld b 10 9, Fin.ofNat 4 (fld b 19 2), Fin.ofNat 4 (fld b 21 2), fld b 23 8, fld b 31 2⟩
  need (fld b 33 31 = 0 && sels.contains w.sel && decide (w.row0 + w.n ≤ s.rowCount) && decide (w.n ≤ limit)) slot kRowTable
  return w

/-- Rows of a window that are live with an action that `p` selects. -/
def Cluster.rowsOf (c : Cluster) (w : RowWin) (p : Nat → Bool) : List Nat :=
  ((upTo w.n).map (w.row0 + ·)).filter fun r => rowLive (c.row r) && p (rowAction (c.row r))

/-! ### rcupd, rcrd, rcwr, recurse, exit.c -/

/-- The word of a live row after a score, under a threshold register (R214). -/
def rescore (t : W64) (w : W32) (score : Nat) : W32 :=
  if rowAction w = 3 ∧ 0 < rowCountdown w then w
  else
    let x := decodeNum .bf16 score
    let ge := fun (lim : Nat) => Cmp.num .le (decodeNum .bf16 lim) x
    if ge (fld t 0 16) then setFld w 0 2 2
    else if ge (fld t 16 16) then setFld w 0 2 1
    else if x.lt (decodeNum .bf16 (fld t 32 16)) then setFld (setFld w 0 2 3) 2 4 (fld t 48 4)
    else setFld w 0 2 0

/-- R214: rcupd. -/
def execRcupd (u : VU) (d : Option (Fin 64)) (a b : Src) (s : State) : Host.Outcome State Fault Refusal :=
  s.issue (slotV u) (a.vectorOk && b.scalarOk) do
    let x ← s.vector (slotV u) 0 .bf16 a
    let y ← s.scalar (slotV u) 1 b
    let w ← s.rowWin (slotV u) y 128 [0]
    let c := s.cluster
    let t := c.thr[w.thr]
    let score := fun (k : Cluster) => (upTo w.n).foldl (fun k i =>
      let r := w.row0 + i
      if rowLive (c.row r) then k.setRow r (rescore t (c.row r) (lane 16 x i)) else k) k
    let cnt := fun k => ((score c).rowsOf w (· = k)).length
    return (s.onCluster score).retS (slotV u) 6 d
      (BitVec.ofNat 64 (cnt 0 + cnt 1 * 2 ^ 16 + cnt 2 * 2 ^ 32 + cnt 3 * 2 ^ 48))

/-- The header of a map (Table 07-11). -/
def FMap.header (m : FMap) : Nat := m.row0 + m.n * 2 ^ 10 + m.count * 2 ^ 19 + (if m.full then 2 ^ 28 else 0)
/-- Entry j of a map. -/
def FMap.entry (m : FMap) (j : Nat) : Nat := if j < m.count then m.entries.getD j 0 + 2 ^ 10 else 0

/-- What a window selects, as a vector (Table 07-10). -/
def State.rowRead (s : State) (w : RowWin) : VecReg :=
  match w.sel with
  | 0 => ofLanes 32 ((upTo w.n).map fun i => (s.cluster.row (w.row0 + i)).toNat)
  | 1 => (s.cluster.thr[w.thr]).setWidth 2048
  | 2 => ofLanes 16 ((upTo 128).map fun i => (s.start.core.maps[w.map]).entry (w.row0 + i))
  | _ => BitVec.ofNat 2048 (s.start.core.maps[w.map]).header

/-- R213: rcrd. With sel 2 a row0 other than 0 or 128 raises the row-table trap (log 66). -/
def execRcrd (u : VU) (d : Option (Fin 32)) (b : Src) (s : State) : Host.Outcome State Fault Refusal :=
  s.issue (slotV u) b.scalarOk do
    let y ← s.scalar (slotV u) 1 b
    let w ← s.rowWin (slotV u) y (if fld y 31 2 = 0 then 64 else 256) [0, 1, 2, 3]
    need (w.sel ≠ 2 || w.row0 = 0 || w.row0 = 128) (slotV u) kRowTable
    return s.retV (slotV u) 2 d (s.rowRead w)

/-- R213: rcwr; the destination receives the old words. Its source a is read with 32-bit lanes for either sel: a scalar source
stands in every lane (log 67). -/
def execRcwr (u : VU) (d : Option (Fin 32)) (a b : Src) (s : State) : Host.Outcome State Fault Refusal :=
  s.issue (slotV u) (a.vectorOk && b.scalarOk) do
    let x ← s.vector (slotV u) 0 .z32 a
    let y ← s.scalar (slotV u) 1 b
    let w ← s.rowWin (slotV u) y (if fld y 31 2 = 0 then 64 else 256) [0, 1]
    need (w.sel = 0 || fld x 52 12 = 0) (slotV u) kRowTable
    let old := s.rowRead w
    let s1 := s.onCluster fun c =>
      if w.sel = 0 then (upTo w.n).foldl (fun c i => c.setRow (w.row0 + i) (BitVec.ofNat 32 (lane 32 x i))) c
      else { c with thr := c.thr.set w.thr (x.setWidth 64) }
    return s1.retV (slotV u) 2 d old

/-- R221: recurse. -/
def execRecurse (u : VU) (d : Option (Fin 64)) (b : Src) (s : State) : Host.Outcome State Fault Refusal :=
  s.issue (slotV u) b.scalarOk do
    let y ← s.scalar (slotV u) 1 b
    let w ← s.rowWin (slotV u) y 256 [0]
    let rows := s.cluster.rowsOf w (· = 3)
    let count := fun (c : Cluster) => rows.foldl (fun c r =>
      let v := s.cluster.row r
      c.setRow r (if rowCountdown v = 0 then setFld v 0 2 0 else setFld v 2 4 (rowCountdown v - 1))) c
    return (s.onCluster count).retS (slotV u) 2 d (BitVec.ofNat 64 (rows.filter fun r => rowAction ((count s.cluster).row r) = 3).length)

/-- R220: exit.c. -/
def execExitC (u : VU) (d : Option (Fin 64)) (b : Src) (s : State) : Host.Outcome State Fault Refusal :=
  s.issue (slotV u) b.scalarOk do
    let y ← s.scalar (slotV u) 1 b
    let w ← s.rowWin (slotV u) y 256 [0]
    let rows := s.cluster.rowsOf w (· = 2)
    let s1 := s.onCluster fun c => rows.foldl (fun c r => c.setRow r (setFld (s.cluster.row r) 0 16 (w.block * 2 ^ 6 + 2 ^ 14))) c
    return s1.retS (slotV u) 8 d (BitVec.ofNat 64 rows.length)

/-! ### The lane packer -/

/-- The address of a slice: base plus a signed offset. -/
def sliceAddr (base : Nat) (off : Int) : Nat := lowBits 64 ((base : Int) + off)

/-- A transfer of the lane packer: source and destination address words and lengths in lines; no source writes zeros. -/
structure Slice where
  dst : Nat
  src : Option Nat
  k : Nat
  /-- Lines that come from the source; the rest are zero lines. -/
  from' : Nat
deriving DecidableEq, Repr

/-- The shape of a lane-packer operation (R216, Table 07-12). -/
def State.packShape (s : State) (slot pos : Nat) (a : Src) : Except Stop Shape := do
  let h ← s.shape slot pos a
  need (shSpace h = 1 && decide (1 ≤ shExt h 0) && decide (shExt h 0 ≤ 16) && shStr h 0 % 128 = 0 && fld (shAux0 h) 32 32 = 0)
    slot kShape
  return h

/-- R52 on every slice, none of which may cross a bank, then the alignment of the named addresses (R216). -/
def State.packChecks (s : State) (slot : Nat) (sl : List Slice) (addrs : List Nat) : Except Stop Unit := do
  let bad := fun (a k : Nat) => if s.rcd.gSp ≠ 0 && s.spOk a (128 * k) then none else some (Stop.trap ⟨kScratch, 0, slot, a, 0⟩)
  firstStop sl fun x => (x.src.bind fun a => bad a x.from').or (bad x.dst x.k)
  firstStop addrs fun a => if a % 128 = 0 then none else some (Stop.trap ⟨kAlignment, 0, slot, a, 0⟩)

/-- Issue a lane-packer operation (R217): an engine operation that moves the slices line by line. -/
def State.packIssue (s : State) (major fn : Nat) (sl : List Slice) : State :=
  let line := fun a => spKeyOf s.place a / 128
  let moves := sl.flatMap fun x => (upTo x.k).map fun l =>
    (line x.dst + l, x.src.bind fun a => if l < x.from' then some (line a + l) else none)
  let range := fun l => (⟨1, l / 2 ^ 15, l % 2 ^ 15 * 128, 128⟩ : Range)
  s.engineIssue major fn none (.lines ((sl.head?.map (·.k)).getD 1) moves) ((moves.filterMap (·.2)).map range) (moves.map fun e => range e.1)

/-- The count that a pack form gives: the destination, and lrc with the same bound (R217, R218). -/
def State.retCount (s : State) (slot : Nat) (d : Option (Fin 64)) (n : Nat) : State :=
  (s.retS slot 16 d (BitVec.ofNat 64 n)).onCtx fun c => c.put s.tick 16 .lrc (BitVec.ofNat 2048 n)

/-- Slices of packed rows: row `rows[j]` between the window region and packed slot j; the last group is padded with zeros. -/
def packSlices (h : Shape) (row0 : Nat) (rows : List Nat) : List Slice :=
  let k := shExt h 0
  (upTo (8 * ceilDiv rows.length 8)).map fun j =>
    ⟨(shAux0 h).toNat + 128 * k * j,
      (rows[j]?).map fun r => sliceAddr (shBase h) (shStr h 0 * ((r : Int) - row0)), k, k⟩

/-- A map is empty on every launch core of the cluster at the start of the bundle. -/
def State.mapEmpty (s : State) (m : Fin 4) : Bool :=
  s.peers.all fun c => !((s.start.coreAt c).maps[m]).full && !((s.start.coreAt c).maps[m]).coming

/-- pack and pack.rc (R218): `all` packs the rows that will run next. -/
def packRows (u : VU) (d : Option (Fin 64)) (a b : Src) (all : Bool) (s : State) : Host.Outcome State Fault Refusal :=
  s.issue (slotV u) (a.shapeOk && b.scalarOk) do
    s.window
    let y ← s.scalar (slotV u) 1 b
    waitFor (s.mapEmpty (Fin.ofNat 4 (fld y 19 2)))
    let w ← s.rowWin (slotV u) y 256 [0]
    let h ← s.packShape (slotV u) 0 a
    let rows := s.cluster.rowsOf w fun k => k = 3 || (all && k = 0)
    let sl := packSlices h w.row0 rows
    s.packChecks (slotV u) sl [shBase h, (shAux0 h).toNat]
    let s1 := s.onCluster fun c =>
      if all then (s.cluster.rowsOf w (· = 1)).foldl (fun c r => c.setRow r (setFld (s.cluster.row r) 0 2 0)) c else c
    let map : FMap := ⟨w.row0, w.n, rows.length, false, true, rows, none, false⟩
    let s2 := { s1 with now := s1.peers.foldl (fun m c => m.onCore c fun k => { k with maps := k.maps.set w.map map }) s1.now }
    return (s2.packIssue 0x25 (if all then 0 else 1) sl).retCount (slotV u) d rows.length

/-- R218: pack. -/
def execPack (u : VU) (d : Option (Fin 64)) (a b : Src) (s : State) : Host.Outcome State Fault Refusal := packRows u d a b true s
/-- R218: pack.rc. -/
def execPackRc (u : VU) (d : Option (Fin 64)) (a b : Src) (s : State) : Host.Outcome State Fault Refusal := packRows u d a b false s

/-- R218: pack.m. -/
def execPackM (u : VU) (d : Option (Fin 64)) (a b : Src) (s : State) : Host.Outcome State Fault Refusal :=
  s.issue (slotV u) (a.shapeOk && b.scalarOk) do
    s.window
    let y ← s.scalar (slotV u) 1 b
    let map := s.start.core.maps[Fin.ofNat 4 (fld y 19 2)]
    waitFor map.full
    let _ ← s.rowWin (slotV u) y 256 [0]
    let h ← s.packShape (slotV u) 0 a
    let rows := map.entries.take map.count
    let sl := packSlices h map.row0 rows
    s.packChecks (slotV u) sl [shBase h, (shAux0 h).toNat]
    return (s.packIssue 0x25 2 sl).retCount (slotV u) d rows.length

/-- unpack and unpack.c (R219). -/
def unpackRows (u : VU) (d : Option (Fin 64)) (a b : Src) (clear : Bool) (s : State) : Host.Outcome State Fault Refusal :=
  s.issue (slotV u) (a.shapeOk && b.scalarOk) do
    s.window
    let y ← s.scalar (slotV u) 1 b
    let m : Fin 4 := Fin.ofNat 4 (fld y 19 2)
    let map := s.start.core.maps[m]
    waitFor map.full
    need (fld y 33 31 = 0 && fld y 31 2 = 0) (slotV u) kRowTable
    let h ← s.packShape (slotV u) 0 a
    let sl := (packSlices h map.row0 (map.entries.take map.count)).filterMap fun x =>
      x.src.map fun a => (⟨a, some x.dst, x.k, x.k⟩ : Slice)
    s.packChecks (slotV u) sl [shBase h, (shAux0 h).toNat]
    let s1 := if clear then s.onCore fun k => { k with maps := k.maps.set m { map with full := false, fill := none, selected := false } }
      else s
    return (s1.packIssue 0x25 (if clear then 4 else 3) sl).retS (slotV u) 16 d (BitVec.ofNat 64 map.count)

/-- R219: unpack. -/
def execUnpack (u : VU) (d : Option (Fin 64)) (a b : Src) (s : State) : Host.Outcome State Fault Refusal := unpackRows u d a b false s
/-- R219: unpack.c. -/
def execUnpackC (u : VU) (d : Option (Fin 64)) (a b : Src) (s : State) : Host.Outcome State Fault Refusal := unpackRows u d a b true s

/-- R220: exit. -/
def execExit (u : VU) (d : Option (Fin 64)) (a b : Src) (s : State) : Host.Outcome State Fault Refusal :=
  s.issue (slotV u) (a.shapeOk && b.scalarOk) do
    s.window
    let y ← s.scalar (slotV u) 1 b
    let w ← s.rowWin (slotV u) y 256 [0]
    let h ← s.packShape (slotV u) 0 a
    let k := shExt h 0
    let rows := s.cluster.rowsOf w (· = 2)
    let sl := rows.map fun r =>
      (⟨(shAux0 h).toNat + 128 * k * (r - w.row0), some (sliceAddr (shBase h) (shStr h 0 * ((r : Int) - w.row0))), k, k⟩ : Slice)
    s.packChecks (slotV u) sl [shBase h, (shAux0 h).toNat]
    return (s.packIssue 0x24 3 sl).retS (slotV u) 8 d (BitVec.ofNat 64 rows.length)

/-! ### The fill engine -/

/-- R285: fillreg. -/
def execFillreg (d : Option (Fin 64)) (a b : Src) (s : State) : Host.Outcome State Fault Refusal :=
  s.issue 5 (a.shapeOk && b.scalarOk) do
    let h ← s.shape 5 0 a
    let y ← s.scalar 5 1 b
    let w ← s.rowWin 5 y 256 [0]
    let c := s.cluster
    let lines := shExt h 0
    let last := fld (shAux0 h) 32 8
    let cand := ((upTo w.n).map (w.row0 + ·)).filter fun r =>
      let v := c.row r
      !rowLive v && rowGap v && rowBlock v = w.block
    let fresh := if w.block = last then [] else cand.filter fun r => !c.fills.any fun e => e.2.row = r
    if shBase h % 128 ≠ 0 then trapAt 5 kAlignment 0 (shBase h) 0
    else
      need (decide (c.fills.length + fresh.length ≤ s.fillShare)) 5 kFillList
      let close := fun (k : Cluster) => if w.block = last then cand.foldl (fun k r => k.setRow r (setFld (c.row r) 14 1 0)) k else k
      let add := fun (k : Cluster) => fresh.foldl (fun (k : Cluster) r =>
        let e : FillEntry :=
          { row := r, addr := sliceAddr (shBase h) (128 * lines * ((r : Int) - w.row0)), lines := lines, table := fld (shAux0 h) 0 32
            last := last, pos := BitVec.ofNat 32 (fld (shAux1 h) 0 32 + rowTag (c.row r)), next := w.block + 1, placed := none
            deferred := false, serial := k.serial }
        { k with fills := tset k.serial e k.fills, serial := k.serial + 1 }) k
      return ((s.onCluster fun k => add (close k)).onCtx Ctx.setEffect).retX 2 d (BitVec.ofNat 64 fresh.length)

/-- What a selection places and what it defers, of candidates in registration order (R286). -/
def fillSelect (cand : List FillEntry) (count : Nat) (every : Bool) : List FillEntry :=
  let old := cand.filter (·.deferred)
  let other := cand.filter (!·.deferred)
  let room := 8 * ceilDiv count 8 - count
  if every then old ++ other
  else if old.length ≤ room then (old ++ other).take room
  else old ++ other.take (8 * ceilDiv (count + old.length) 8 - count - old.length)

/-- fillreg.t and fillreg.tf (R286). -/
def fillPick (d : Option (Fin 64)) (b : Src) (every : Bool) (s : State) : Host.Outcome State Fault Refusal :=
  s.issue 5 b.scalarOk do
    let y ← s.scalar 5 1 b
    let m : Fin 4 := Fin.ofNat 4 (fld y 19 2)
    let map := s.start.core.maps[m]
    waitFor map.full
    let w ← s.rowWin 5 y 256 [0]
    need (!map.selected) 5 kFillList
    let cand := (s.cluster.fills.map (·.2)).filter fun e => e.next = w.block && e.placed.isNone
    let sel := (fillSelect cand map.count every).map (·.serial)
    let s1 := s.onCluster fun c => cand.foldl (fun c e =>
      { c with fills := tset e.serial (if sel.contains e.serial then { e with placed := some m.val, deferred := false }
        else { e with deferred := true }) c.fills }) c
    let s2 := { s1 with now := s1.peers.foldl (fun mm c => mm.onCore c fun k =>
      { k with maps := vmod k.maps m.val fun f => { f with fill := some sel, selected := true } }) s1.now }
    return s2.retX 2 d (BitVec.ofNat 64 sel.length)

/-- R286: fillreg.t. -/
def execFillregT (d : Option (Fin 64)) (b : Src) (s : State) : Host.Outcome State Fault Refusal := fillPick d b false s
/-- R286: fillreg.tf. -/
def execFillregTf (d : Option (Fin 64)) (b : Src) (s : State) : Host.Outcome State Fault Refusal := fillPick d b true s

/-- Entries of a map's fill-slot table, held until the table is present (R287). -/
def State.fillTable (s : State) (m : Fin 4) : Except Stop (FMap × List FillEntry) :=
  let map := s.start.core.maps[m]
  match map.full, map.fill with
  | true, some l => .ok (map, l.filterMap fun i => tfind i s.cluster.fills)
  | _, _ => .error .wait

/-- R287: fillreg.tm. -/
def execFillregTm (d : Option (Fin 64)) (a b : Src) (s : State) : Host.Outcome State Fault Refusal :=
  s.issue 5 (a.shapeOk && b.scalarOk) do
    s.window
    let y ← s.scalar 5 1 b
    let (map, es) ← s.fillTable (Fin.ofNat 4 (fld y 19 2))
    let _ ← s.rowWin 5 y 256 [0]
    let h ← s.packShape 5 0 a
    let k := shExt h 0
    need (es.all fun e => decide (e.lines ≤ k)) 5 kFillList
    let slot := fun j => (shAux0 h).toNat + 128 * k * j
    let placed := es.mapIdx fun i e => (⟨slot (map.count + i), some e.addr, k, e.lines⟩ : Slice)
    let total := map.count + es.length
    let zero := ((upTo (8 * ceilDiv total 8)).filter fun j => decide (total ≤ j) && decide (8 * ceilDiv map.count 8 ≤ j)).map fun j =>
      (⟨slot j, none, k, k⟩ : Slice)
    s.packChecks 5 (placed ++ zero) [(shAux0 h).toNat]
    let s1 := s.packIssue 9 3 (placed ++ zero)
    return (s1.retX 2 d (BitVec.ofNat 64 es.length)).onCtx fun c => c.put s.tick 2 .lrc (BitVec.ofNat 2048 total)

/-- R288: fillreg.w. -/
def execFillregW (d : Option (Fin 64)) (a b : Src) (s : State) : Host.Outcome State Fault Refusal :=
  s.issue 5 (a.shapeOk && b.scalarOk) do
    s.window
    let y ← s.scalar 5 1 b
    let m : Fin 4 := Fin.ofNat 4 (fld y 19 2)
    let (map, es) ← s.fillTable m
    let w ← s.rowWin 5 y 256 [0]
    let h ← s.shape 5 0 a
    let stride := fld (shAux0 h) 0 32
    let voff := sgn 32 (fld (shAux1 h) 0 32)
    need (shapeOk h && shSpace h = 1 && fld (shAux0 h) 32 32 = 0 && fld (shAux1 h) 45 19 = 0 && stride % 128 = 0 && voff % 128 = 0)
      5 kShape
    let n := if (shAux1 h).getLsbD 44 then 256 else 128
    let key := fun i => sliceAddr (shapeAddr h) (((map.count + i) * stride : Nat) : Int)
    let val := fun i => sliceAddr (key i) voff
    let word := fun (e : FillEntry) => if e.table + 8 * w.block < 2 ^ 22 then 2 ^ 25 + e.table + 8 * w.block else 2 ^ 26
    let bad := fun (x n : Nat) => if s.rcd.gSp ≠ 0 && s.spOk x n then none else some (Stop.trap ⟨kScratch, 0, 5, x, 0⟩)
    let pos := upTo es.length
    firstStop pos fun i => ((bad (key i) n).or (bad (val i) n)).or ((es[i]?).bind fun e => bad (word e) 8)
    firstStop pos fun i =>
      if key i % 128 ≠ 0 then some (Stop.trap ⟨kAlignment, 0, 5, key i, 0⟩)
      else if val i % 128 ≠ 0 then some (Stop.trap ⟨kAlignment, 0, 5, val i, 0⟩) else none
    let items := es.mapIdx fun i e =>
      (⟨spKeyOf s.place (key i), spKeyOf s.place (val i), e.serial, spKeyOf s.place (word e), e.pos.toNat⟩ : FillItem)
    let range := fun k => (⟨1, k / 2 ^ 22, k % 2 ^ 22, n⟩ : Range)
    let s1 := s.engineIssue 9 4 none (.fillw w.block m.val items) (items.flatMap fun i => [range i.key, range i.val]) []
    return s1.retX 2 d (BitVec.ofNat 64 es.length)

end Sys2Proof.Machine
end

