-- ==== Sys2Proof/Machine/Joins.lean ====
section
/-! DEFINITION. Joins (spec/09 R268 to R276, spec/04 R132, R133, spec/14 R352): opening, staging of tagged writes, arrivals,
release under the fill rules, kills of stragglers, waits, rules and closing. -/

namespace Sys2Proof.Machine

/-! ### Handles and member words (Table 09-8) -/

def joinNumber (h : W64) : Nat := fld h 0 8
def joinDie (h : W64) : Nat := fld h 8 3
def joinModule (h : W64) : BitVec 13 := h.extractLsb' 11 13
def joinCheck (h : W64) : BitVec 8 := h.extractLsb' 24 8
def joinKey (h : W64) : Nat := joinDie h * 256 + joinNumber h
def memberIndex (w : W64) : Nat := fld w 0 6
def memberGen (w : W64) : Nat := fld w 6 10
def memberEnter (w : W64) : Bool := w.getLsbD 16

def Mod.joinSlot (m : Mod) (key : Nat) : JoinSlot := tget JoinSlot.free key m.joins
def Mod.setJoin (m : Mod) (key : Nat) (f : JoinSlot → JoinSlot) : Mod := { m with joins := tmod JoinSlot.free key f m.joins }

/-- The join that a handle names, for a party of a partition of this module, or of another module (none), which the fab right of the
target admits (R276). -/
def Mod.joinOf (m : Mod) (h : W64) (part : Option Nat) : Option Join :=
  let s := m.joinSlot (joinKey h)
  if fld h 32 32 ≠ 0 ∨ joinModule h ≠ m.addr ∨ s.check ≠ joinCheck h then none
  else s.join.filter fun j => match part with
    | some p => p = j.part
    | none => (m.entry (capObject j.target)).any fun e => hasRights (entRights e) rFab

/-- The same while it is open. -/
def Mod.findJoin (m : Mod) (h : W64) (part : Option Nat) : Option Join := (m.joinOf h part).filter (·.state ≠ .leaving)

/-! ### Writes of hardware units -/

/-- Write through a capability that has been checked before, from displacement d: bytes, each poisoned or not, reach their homes, wait
for a translation, or leave as stores, identified by a number when their acknowledgements matter; bytes of a page that is not
resident are lost (log 21). The machine, and the packets sent. -/
def Mod.capStore (m : Mod) (c : Cap) (d : Nat) (data : List (Byte × Bool)) (note : Option Nat) : Mod × Nat :=
  match m.entry (capObject c) with
  | none => (m, 0)
  | some e =>
    let ps := data.mapIdx fun i b => (m.place (capObject c) e (capOffset c + d + i) true, d + i, b)
    let cells := ps.filterMap fun p => match p.1 with | .phys a => some (a, p.2.2) | _ => none
    let away := ps.filterMap fun p => match p.1 with
      | .remote t rid o => if (m.domainFault t).isNone then some (t, rid, o, p.2.2) else none
      | _ => none
    let blocks := away.foldl (fun l w => if l.contains (w.1, w.2.1, w.2.2.1 / 16) then l else l ++ [(w.1, w.2.1, w.2.2.1 / 16)]) []
    let m1 := (m.writeBytes (dpOf (capObject c) e) (cells.map fun x => (x.1, x.2.1)) ((cells.filter (·.2.2)).map (·.1))).askAts
      (ps.filterMap fun p => match p.1 with | .miss r => some r | _ => none)
    let m2 := { m1 with todo := m1.todo ++ ps.filterMap fun p => match p.1 with | .miss _ => some (c, p.2.1, p.2.2) | _ => none }
    (blocks.foldl (fun (mo : Mod) b =>
      let mine := away.filter fun w => w.1 = b.1 ∧ w.2.1 = b.2.1 ∧ w.2.2.1 / 16 = b.2.2
      let x := mine.foldl (fun (y : BitVec 128 × BitVec 16) w =>
        (y.1 ||| (blockOf w.2.2.1 [w.2.2.2.1]).1, y.2 ||| (blockOf w.2.2.1 [w.2.2.2.1]).2)) (0, 0)
      let desc := match note with | some n => [BitVec.ofNat 128 (n + 5 * 2 ^ 48)] | none => []
      mo.send { mo.packet b.1 0 opStore b.2.1 (16 * b.2.2) x.2 (entDp e) (desc ++ [x.1]) with
        fd := note.isSome, ofl := mine.any fun w => w.2.2.2.2 }) m2, blocks.length)

/-- Bytes that have waited for a translation are written once it is there. -/
def Mod.retryTodo (m : Mod) : Mod :=
  m.todo.foldl (fun mo x => (mo.capStore x.1 x.2.1 [x.2.2] none).1) { m with todo := [] }

/-! ### Staging (R270) -/

/-- A member that has done nothing. -/
def Member.fresh : Member := ⟨[], [], [], [], false, false, false, none, 64⟩

def Join.member (j : Join) (i : Nat) : Member := j.members.getD i Member.fresh
def Join.setMember (j : Join) (i : Nat) (f : Member → Member) : Join := { j with members := lmod j.members i f }

/-- A member enters the current generation, with its context and the ceiling that its entry carries (spec/14 R352). -/
def Member.enter (k : Member) (who : Option (Nat × Nat × Nat)) (ceil : Nat) : Member :=
  { k with entered := true, who := who.or k.who, ceil := if k.entered then k.ceil else min k.ceil ceil }

/-- A tagged write reaches its home: none when it faults with cause 4. It is judged at the end of the cycle (R272). -/
def Mod.stageWrite (m : Mod) (h mw : W64) (part : Option Nat) (who : Option (Nat × Nat × Nat)) (ceil obj off : Nat)
    (data : List Byte) (bad : Bool) : Option Mod :=
  match m.findJoin h part with
  | none => none
  | some j =>
    let t := capOffset j.target
    if obj ≠ capObject j.target ∨ off < t ∨ t + j.len < off + data.length then none
    else some (m.setJoin (joinKey h) fun s =>
      { s with join := some { j with inbox := j.inbox ++ [⟨memberIndex mw, memberGen mw, who, ceil, off - t, data, bad⟩] } })

/-- A write of the inbox belongs to the current generation: its member is one of the join's and has not arrived, unless in this
very cycle (R271, R272). -/
def Join.takesWrite (j : Join) (w : JoinWrite) : Bool :=
  decide (w.member < j.members.length) && w.gen == j.gen % 1024 &&
    (if j.met then (j.member w.member).now else !(j.member w.member).arrived || (j.member w.member).now)

/-- Stage a write, or count it as late. -/
def Join.takeWrite (j : Join) (w : JoinWrite) : Join :=
  if j.takesWrite w then j.setMember w.member fun k =>
    let keys := (upTo w.data.length).map (w.off + ·)
    { (k.enter w.who w.ceil) with
      staging := (keys.zip w.data).foldl (fun l c => tset c.1 c.2 l) k.staging
      stagingBad := poisonAfter 128 k.stagingBad keys (if w.bad then keys else []) }
  else { j with late := j.late + 1 }

/-- A member that has arrived in this cycle commits its staging. -/
def Member.commit (k : Member) : Member :=
  if k.now then { k with committed := k.staging, committedBad := k.stagingBad, now := false } else k

/-! ### Release (R272, spec/04 R133) -/

/-- The element type of a join (Table 02-7). -/
def joinTy (fmt : Nat) : Ty :=
  match fmt with
  | 1 => .f32
  | 2 => .bf16
  | 9 => .i32
  | 10 => .i64
  | 13 => .z32
  | _ => .z64

/-- Whether the committed slot of a member counts at a release. -/
def Join.counts (j : Join) (k : Member) : Bool := k.arrived || j.rule = 2

/-- The committed slots that count at a release, 0 where the fill rule says so. -/
def Join.slots (j : Join) : List (List Host.Cell) := j.members.map fun k => if j.counts k then k.committed else []

/-- Element e of a slot. -/
def slotElem (w : Nat) (sl : List Host.Cell) (e : Nat) : Nat := leNat ((upTo (w / 8)).map fun i => tget 0 (e * (w / 8) + i) sl)

/-- Total and arrived weight. -/
def Join.total (j : Join) : Nat := j.weights.sum
def Join.arrivedWeight (j : Join) : Nat :=
  ((j.members.zip j.weights).map fun e => if e.1.arrived then e.2 else 0).sum

/-- The combined result as bytes. -/
def Join.combine (j : Join) : List Byte :=
  let t := joinTy j.fmt
  let w := t.width
  let scale := ((Num.ofInt j.total).div (Num.ofInt j.arrivedWeight)).inFmt .f32
  let elem := fun e =>
    let cs := j.slots.map fun sl => slotElem w sl e
    if t.isInt then cs.sum % 2 ^ w
    else
      let sum := sumInOrder .f32 .rne (cs.map (decodeNum t))
      encodeNum t (if j.rule = 1 then (sum.mul scale).inFmt .f32 else sum) .rne false
  leBytes j.len (joinLanes w ((upTo (8 * j.len / w)).map elem))

/-- Sectors of the combined result that a poisoned slot goes into (spec/15 R384, Table 15-8). -/
def Join.combineBad (j : Join) : List Nat :=
  (j.members.filter j.counts).foldl (fun l k => k.committedBad.foldl (fun l x => sins x l) l) []

/-- The least ceiling carried by the generation's arrivals and entries (spec/14 R352). -/
def Join.duty (j : Join) : Nat := (j.members.filter fun k => k.entered || k.arrived).foldl (fun d k => min d k.ceil) 64

/-- A generation has been released. -/
def Join.released (j : Join) (g : Nat) : Bool := decide (g < j.gen) && j.releasing.all fun r => decide (g < r.release.gen)

/-- The release summary of a generation (R274). -/
def Join.summary (j : Join) (gen : Nat) : W64 :=
  match j.releases.find? (·.gen = gen) with
  | some r => BitVec.ofNat 64 (r.weight.toNat + r.count % 128 * 2 ^ 32 + min j.late 65535 * 2 ^ 40 + j.kills % 256 * 2 ^ 56)
  | none => BitVec.ofNat 64 (2 ^ 39 + min j.late 65535 * 2 ^ 40 + j.kills % 256 * 2 ^ 56)

/-- The summary of a generation that a join which is not there gives. -/
def freedSummary : W64 := BitVec.ofNat 64 (2 ^ 39)

/-- Payload of a join-control packet: the model's layout (log 19). -/
def joinPayload : JoinMsg → List (BitVec 128)
  | .arrive h w => [BitVec.ofNat 128 (h.toNat + w.toNat * 2 ^ 64), 0]
  | .rule h w => [BitVec.ofNat 128 (h.toNat + w.toNat * 2 ^ 64), 1]
  | .kill c x h g => [BitVec.ofNat 128 (h.toNat + g * 2 ^ 64), BitVec.ofNat 128 (2 + x * 2 ^ 8 + c * 2 ^ 16)]
  | .released h g => [BitVec.ofNat 128 (h.toNat + g * 2 ^ 64), 3]
  | .killed h r => [BitVec.ofNat 128 h.toNat, 4, r.extractLsb' 0 128, r.extractLsb' 128 128, r.extractLsb' 256 128, r.extractLsb' 384 128]
  | .wait h g => [BitVec.ofNat 128 (h.toNat + g * 2 ^ 64), 5]
  | .told h g => [BitVec.ofNat 128 (h.toNat + g * 2 ^ 64), 6]

/-- A join-control packet with further payload, to a module that can be reached (spec/16 R395, R408). -/
def Mod.joinSend (m : Mod) (dst : BitVec 13) (msg : JoinMsg) (more : List (BitVec 128)) : Mod :=
  if (m.domainFault dst).isSome then m else m.send (m.packet dst 0 opJoin 0 0 0 false (joinPayload msg ++ more))

/-- Answer waits of other modules. -/
def Mod.tellAsks (m : Mod) (h : W64) (j : Join) (asks : List JoinAsk) : Mod :=
  asks.foldl (fun (mo : Mod) a => mo.joinSend a.module (.told h a.gen)
    [BitVec.ofNat 128 ((j.summary a.gen).toNat + a.core * 2 ^ 64 + a.ctx * 2 ^ 108), BitVec.ofNat 128 a.req]) m

/-- The handle of the join in a slot. -/
def Mod.joinHandle (m : Mod) (key : Nat) : W64 :=
  BitVec.ofNat 64 (key % 256 + key / 256 * 2 ^ 8 + m.addr.toNat * 2 ^ 11 + (m.joinSlot key).check.toNat * 2 ^ 24)

/-- Send a kill to a context, unless it is Ending or Ended (R273). -/
def Ctx.sendKill (c : Ctx) (k : KillReq) : Ctx :=
  if c.st = .ending ∨ c.st = .ended then c else { c with kills := c.kills ++ [k] }

/-- The join after the end of a cycle in which the quorum was met: the next generation, with a release under way whose result
went out in `owed` packets. -/
def Join.next (j : Join) (owed : Nat) : Join :=
  let parties := fun (f : Member → Bool) => (j.members.mapIdx fun i k => (i, k)).filterMap fun e =>
    if f e.2 then e.2.who.map fun w => (e.1, w, e.2.staging.length) else none
  { j with
    rule := j.nextRule, gen := j.gen + 1, met := false
    state := if j.state = .closing then .leaving else j.state
    members := j.members.map fun k => { Member.fresh with committed := k.committed, committedBad := k.committedBad }
    releasing := j.releasing ++ [
      { release := ⟨j.gen, BitVec.ofNat 32 j.arrivedWeight, (j.members.filter (·.arrived)).length⟩, duty := j.duty
        takers := (parties fun k => k.entered || k.arrived).map (·.2.1)
        stragglers := parties fun k => k.entered && !k.arrived, owed := owed }] }

/-- The end of a cycle at a join (R272): writes of the generation are staged, arrivals commit, a quorum that was met releases the
generation, and the other writes are judged against what is then current. -/
def Mod.joinJudge (m : Mod) (key : Nat) (j : Join) : Mod :=
  let j0 := (j.inbox.filter j.takesWrite).foldl Join.takeWrite { j with inbox := [] }
  let j1 := { j0 with members := j0.members.map Member.commit }
  let rest := j.inbox.filter fun w => !j.takesWrite w
  let put := fun (mo : Mod) (x : Join) => mo.setJoin key fun s => { s with join := some (rest.foldl Join.takeWrite x) }
  if !j.met then put m { j1 with met := false }
  else
    let bad := j1.combineBad
    let r := m.capStore j.target 0 (j1.combine.mapIdx fun i b => (b, bad.contains (i / 128))) (some (key + j.gen % 2 ^ 16 * 2 ^ 16))
    put (bad.foldl (fun mo x => mo.logError (errorRecord 4 (key / 256) 4 0 1 (128 * x) 0)) r.1) (j1.next r.2)

/-- A release whose result stands at its target, published (spec/04 R133): waiters may go on, members take their duty (spec/14
R352), stragglers are sent kills, and a join that was closing is free. -/
def Mach.joinFinish (m : Mach) (key : Nat) (j : Join) (x : Releasing) : Mach :=
  let h := m.mod.joinHandle key
  let g := x.release.gen
  let j1 := { j with releases := j.releases ++ [x.release], releasing := j.releasing.drop 1 }
  let done := j1.state = .leaving ∧ j1.releasing = []
  let due := j.asks.filter fun a => done || decide (a.gen ≤ g)
  let j2 := { j1 with asks := j.asks.filter fun a => !due.contains a }
  let mod1 := (m.mod.setJoin key fun s => if done then { s with join := none, last := some j2 } else { s with join := some j2 }).tellAsks h j2 due
  let taker := fun (mm : Mach) (w : Nat × Nat × Nat) =>
    if w.1 = mm.mod.addr.toNat then mm.onMember w.2.1 w.2.2 fun y => { y with duty := some x.duty, overSince := some mm.mod.tick }
    else { mm with mod := mm.mod.joinSend (BitVec.ofNat 13 w.1) (.released h g) [BitVec.ofNat 128 (w.2.1 + w.2.2 * 2 ^ 44 + x.duty * 2 ^ 48)] }
  x.stragglers.foldl (fun (mm : Mach) (e : Nat × (Nat × Nat × Nat) × Nat) =>
    let w := e.2.1
    if w.1 = mm.mod.addr.toNat then mm.onMember w.2.1 w.2.2 fun y => y.sendKill ⟨h, g, e.1, e.2.2⟩
    else { mm with mod := mm.mod.joinSend (BitVec.ofNat 13 w.1) (.kill w.2.1 w.2.2 h g) [BitVec.ofNat 128 (e.1 + e.2.2 * 2 ^ 8)] })
    (x.takers.foldl taker { m with mod := mod1 })

/-- The result of a release is at its target: no packet and no byte of it is outstanding. -/
def Mod.resultStands (m : Mod) (j : Join) (x : Releasing) : Bool := x.owed = 0 && !m.todo.any fun t => t.1 = j.target

/-- The oldest release under way at a join goes on. -/
def Mach.joinGoOn (m : Mach) (key : Nat) : Mach :=
  match (m.mod.joinSlot key).join with
  | none => m
  | some j => match j.releasing with
    | x :: _ => if m.mod.resultStands j x then m.joinFinish key j x else m
    | [] => m

/-- What the join units do at the end of a cycle. -/
def Mach.joinsCycle (m : Mach) : Mach :=
  (m.mod.joins.map (·.1)).foldl (fun (mm : Mach) key =>
    match (mm.mod.joinSlot key).join with
    | none => mm
    | some j => ({ mm with mod := mm.mod.joinJudge key j } : Mach).joinGoOn key) { m with mod := m.mod.retryTodo }

/-- A packet of a join's result is acknowledged. -/
def Mod.joinAcked (m : Mod) (n : Nat) : Mod :=
  m.setJoin (n % 2 ^ 16) fun s => { s with join := s.join.map fun j =>
    { j with releasing := j.releasing.map fun x => if x.release.gen % 2 ^ 16 = n / 2 ^ 16 then { x with owed := x.owed - 1 } else x } }

/-! ### Arrivals (R271) -/

/-- An arrival or entry at its home: the status bits counted, late, released, refused. Those after the one that meets the quorum are
late. -/
def Mod.joinArrive (m : Mod) (h mw : W64) (part : Option Nat) (who : Option (Nat × Nat × Nat)) (ceil : Nat) : Mod × Nat :=
  match m.findJoin h part with
  | none => (m, 8)
  | some j =>
    let i := memberIndex mw
    let put := fun (j' : Join) => m.setJoin (joinKey h) fun s => { s with join := some j' }
    if fld mw 17 47 ≠ 0 ∨ j.members.length ≤ i ∨ (j.member i).arrived then (m, 8)
    else if memberGen mw ≠ j.gen % 1024 ∨ j.met then (put { j with late := j.late + 1 }, 2)
    else if memberEnter mw then (put (j.setMember i fun k => k.enter who ceil), 0)
    else
      let j1 := j.setMember i fun k => { k with arrived := true, now := true, who := who.or k.who, ceil := min k.ceil ceil }
      if j.quorum ≤ j1.arrivedWeight then (put { j1 with met := true }, 5) else (put j1, 1)

/-- A party of the issuing context. -/
def Mach.selfWho (m : Mach) : Nat × Nat × Nat := (m.mod.addr.toNat, m.memberOf m.cid, m.xid)
def Mach.selfPart (m : Mach) : Nat := (m.mod.launch (m.core.launch.getD 0)).record.part
def Mach.selfCeil (m : Mach) : Nat := m.mod.arrivalCeil (m.cid / 64) (m.core.launch.getD 0)

/-- A handle names a join of another module that can be reached. -/
def Mod.joinRemote (m : Mod) (h : W64) : Bool :=
  joinModule h ≠ m.addr && fld h 32 32 = 0 && (m.domainFault (joinModule h)).isNone

/-- The scope of the join that a handle names: .dom for one of another module, and where no join tells. -/
def Mod.joinScope (m : Mod) (h : W64) : Scope :=
  let s := m.joinSlot (joinKey h)
  if joinModule h ≠ m.addr ∨ s.check ≠ joinCheck h then .dom else ((s.join.or s.last).map (·.scope)).getD .dom

/-- The arrival of the issuing context once its publish is complete: its status, or none while another module answers. -/
def Mach.arriveGo (m : Mach) (h mw : W64) (rq : Nat) : Mach × Option W64 :=
  if m.mod.joinRemote h then
    let who := BitVec.ofNat 128 (rq + m.cid * 2 ^ 32 + m.xid * 2 ^ 48 + m.selfCeil * 2 ^ 52 + m.memberOf m.cid * 2 ^ 64)
    ({ m with
      mod := m.mod.joinSend (joinModule h) (.arrive h mw) [who]
      ctx := { m.ctx with pending := m.ctx.pending ++ [Pending.joinReply rq (joinModule h) 8] } }, none)
  else
    let r := m.mod.joinArrive h mw (some m.selfPart) (some m.selfWho) m.selfCeil
    ({ m with mod := r.1 }, some (BitVec.ofNat 64 r.2))

/-- R271: jarrive: a publish at the join's scope, then the arrival. -/
def execJarrive (d : Option (Fin 64)) (a b : Src) (s : State) : Host.Outcome State Fault Refusal :=
  s.issue 5 (a.scalarOk && b.scalarOk) do
    let h ← s.scalar 5 0 a
    let w ← s.scalar 5 1 b
    let (rq, s0) := s.newReq
    let late := fun (t : State) => (t.expect 5 4 (d.map .s) rq).onBank Bank.newX
    let sc := s0.now.mod.joinScope h
    let r := s0.now.publish sc (.arrive h w d rq)
    if r.2 then
      match r.1.arriveGo h w rq with
      | (m, some v) => return { s0 with now := m }.retX 4 d v
      | (m, none) => return late { s0 with now := m }
    else return late { s0 with now := { r.1 with ctx := { r.1.ctx with pending := r.1.ctx.pending ++ [Pending.publish sc (.arrive h w d rq)] } } }

/-! ### Opening (R269) -/

/-- Bytes of the cluster's scratchpad read with waiting reads; and whether they are poisoned. Lines of another core are asked for by
the held bundle and judged where the request arrives (spec/02 R61; log 68). -/
def State.waitingRead (s : State) (slot : Nat) (a n : Nat) : Except Stop (List Byte × Bool) := do
  let t ← if s.rcd.gSp = 0 ∨ !s.spOk a n then trapAt slot kScratch 0 a 0
    else if a % (if n ≤ 128 then n else 128) ≠ 0 then trapAt slot kAlignment 0 a 0
    else Except.ok (s.spAddr a)
  if t.core = s.place then
    s.lineWait slot (linesOf t.off n)
    return (s.start.core.spBytesAt s.free t.off n, s.start.core.spBad t.off n)
  else
    let key := t.core * 2 ^ 22 + t.off
    match s.start.ctx.lineGot.find? (·.1 = key) with
    | some g => return g.2
    | none => .error (.hold { lines := some (s.peer t.core, t.off, n, key) })

/-- Such a read by a form that traps on poison. -/
def State.waitingBytes (s : State) (slot : Nat) (a n : Nat) : Except Stop (List Byte) := do
  let r ← s.waitingRead slot a n
  if r.2 then trapAt slot kPoison 3 (a % 2 ^ 22) 0 else return r.1

/-- A join descriptor's fields are legal (Table 09-7). -/
def descriptorOk (x : VecReg) : Bool :=
  let fmt := fld x 288 8
  let rule := fld x 296 2
  let n := fld x 320 8
  let w := fun i => fld x (512 + 16 * i) 16
  let sum := ((upTo 64).map w).sum
  [1, 2, 9, 10, 13, 14].contains fmt && rule ≠ 3 && !(rule = 1 && decide (9 ≤ fmt)) && fld x 298 6 = 0 && fld x 328 24 = 0 &&
    fld x 384 128 = 0 && fld x 1536 512 = 0 && [3, 4, 5].contains (fld x 304 8) && decide (fld x 312 8 < 8) &&
    decide (1 ≤ n) && decide (n ≤ 64) && ((upTo 64).all fun i => decide (i < n) || w i = 0) &&
    decide (1 ≤ fld x 352 32) && decide (fld x 352 32 ≤ sum) && fld x 256 32 % 128 = 0 && decide (128 ≤ fld x 256 32)

/-- A capability image passes CheckCap and the object-table check for st over n bytes (R269). -/
def Mod.imageOk (m : Mod) (c : Cap) (n part : Nat) (sv : Bool) : Bool :=
  (checkCap c 0 n rSt).isNone && (m.protect (capObject c) (capOffset c) n rSt (capRights c) part sv).isNone

/-- A compute die of a partition (spec/13 R334). -/
def Mod.inPart (m : Mod) (die part : Nat) : Bool := decide (die < 8) && (m.die die).dpart.getLsbD 3 && fld (m.die die).dpart 0 3 = part

/-- Region bytes that the joins of a die reserve, and the cache they lie in (R269, Table 00-1). -/
def Join.region (j : Join) : Nat := 2 * j.members.length * j.len
def Mod.reserved (m : Mod) (die : Nat) : Nat :=
  ((upTo 256).map fun i => ((m.joinSlot (die * 256 + i)).join.map Join.region).getD 0).sum
def cacheBytes : Nat := 192 * 2 ^ 20

/-- Open a join: its handle, or the refusal word. The lowest free number is taken (log 22). -/
def Mod.joinOpen (m : Mod) (x : VecReg) (part : Nat) (sv : Bool) : Mod × W64 :=
  let refuse := fun (r : Nat) => (m, BitVec.ofNat 64 (2 ^ 63 + r))
  let target : Cap := x.setWidth 128
  let klog : Cap := x.extractLsb' 128 128
  let len := fld x 256 32
  let n := fld x 320 8
  let die := fld x 312 8
  if !descriptorOk x ∨ !m.imageOk target len part sv ∨ (capLength klog ≠ 0 ∧ !m.imageOk klog 1024 part sv) then refuse 1
  else if 2 ^ 20 < 2 * n * len then refuse 2
  else match (upTo 256).find? fun i => (m.joinSlot (die * 256 + i)).join.isNone with
    | none => refuse 3
    | some i =>
      if cacheBytes < m.reserved die + 2 * n * len then refuse 4
      else if !m.inPart die part then refuse 5
      else
        let sc := match fld x 304 8 with
          | 3 => Scope.die
          | 4 => .mod
          | _ => .dom
        let j : Join :=
          { state := .collecting, part := part, target := target, klog := klog, len := len, fmt := fld x 288 8, rule := fld x 296 2
            nextRule := fld x 296 2, scope := sc, members := List.replicate n Member.fresh
            weights := (upTo n).map fun k => fld x (512 + 16 * k) 16, quorum := fld x 352 32, gen := 0, late := 0
            kills := 0, releases := [], inbox := [], met := false, releasing := [], asks := [] }
        let key := die * 256 + i
        let m1 := m.setJoin key fun s => { check := s.check + 1, join := some j, last := none }
        (m1, m1.joinHandle key)

/-- R269: jopen. -/
def execJopen (d : Option (Fin 64)) (a : Src) (s : State) : Host.Outcome State Fault Refusal :=
  s.issue 5 a.scalarOk do
    let x ← s.scalar 5 0 a
    let bytes ← s.waitingBytes 5 x.toNat 256
    let r := s.now.mod.joinOpen (BitVec.ofNat 2048 (leNat bytes)) s.part s.sv
    return (s.onMod fun _ => r.1).retX 8 d r.2

/-! ### Waits (R274) and rules (R275) -/

/-- What a release wait finds: its summary and the scope of its acquire, or none while it cannot issue. The home of a join of another
module has been asked (log 46). -/
def State.joinAnswer (s : State) (h : W64) (g : Nat) : Option (W64 × Option Scope) :=
  let m := s.start.mod
  if m.joinRemote h then
    s.start.ctx.joinTold.bind fun x => if x.1 = h ∧ x.2.1 = g then some (x.2.2, some .dom) else none
  else match m.joinOf h (some s.part) with
    | some j => if j.released g then some (j.summary g, some j.scope) else none
    | none =>
      match s.start.ctx.joinWait, (m.joinSlot (joinKey h)).last with
      | some w, some j =>
        if w = (h, g) ∧ joinModule h = m.addr ∧ (m.joinSlot (joinKey h)).check = joinCheck h then some (j.summary g, some j.scope) else some (freedSummary, none)
      | _, _ => some (freedSummary, none)

/-- R274: jwait, whose return is an acquire at the join's scope. -/
def execJwait (d : Option (Fin 64)) (a b : Src) (s : State) : Host.Outcome State Fault Refusal :=
  s.issue 5 (a.scalarOk && b.scalarOk) do
    let h ← s.scalar 5 0 a
    let w ← s.scalar 5 1 b
    match s.joinAnswer h (fld w 0 32) with
    | some (v, some sc) => return { s with now := s.now.refresh sc }.retX 4 d v
    | some (v, none) => return s.retX 4 d v
    | none => .error (.hold { join := some (h, fld w 0 32), joinAsk := s.start.mod.joinRemote h })

/-- A wait of a context of another module reaches its join: it is answered at once, or kept. -/
def Mod.joinWaits (m : Mod) (h : W64) (a : JoinAsk) : Mod :=
  match m.joinOf h none with
  | some j => if j.released a.gen then m.tellAsks h j [a]
    else m.setJoin (joinKey h) fun s => { s with join := some { j with asks := j.asks ++ [a] } }
  | none => m.joinSend a.module (.told h a.gen) [BitVec.ofNat 128 (freedSummary.toNat + a.core * 2 ^ 64 + a.ctx * 2 ^ 108), BitVec.ofNat 128 a.req]

/-- A member has entered the current generation, or a write that makes it enter is at the home. -/
def Join.anyEntered (j : Join) : Bool := j.members.any (·.entered) || j.inbox.any j.takesWrite

/-- A rule word at the home (R275, Table 09-10): the join unit after it, and 0 done or 1 refused. A release that is under way comes
before the join is free. -/
def Mod.joinRule (m : Mod) (h w : W64) (part : Option Nat) : Mod × Nat :=
  match m.findJoin h part with
  | none => (m, 1)
  | some j =>
    let put := fun (j' : Join) => m.setJoin (joinKey h) fun s => { s with join := some j' }
    if fld w 2 62 ≠ 0 ∨ j.state = .closing then (m, 1)
    else match fld w 0 2 with
      | 3 =>
        if j.anyEntered ∨ j.met then (put { j with state := .closing }, 0)
        else if j.releasing ≠ [] then (put { j with state := .leaving }, 0)
        else ((m.setJoin (joinKey h) fun s => { s with join := none, last := some { j with asks := [] } }).tellAsks h j j.asks, 0)
      | r => if r = 1 ∧ 9 ≤ j.fmt then (m, 1) else (put { j with nextRule := r }, 0)

/-- R275: jrule. -/
def execJrule (d : Option (Fin 64)) (a b : Src) (s : State) : Host.Outcome State Fault Refusal :=
  s.issue 5 (a.scalarOk && b.scalarOk) do
    let h ← s.scalar 5 0 a
    let w ← s.scalar 5 1 b
    if s.now.mod.joinRemote h then
      let (rq, s0) := s.newReq
      let who := BitVec.ofNat 128 (rq + s.now.cid * 2 ^ 32 + s.now.xid * 2 ^ 48)
      return (((s0.onMod fun m => m.joinSend (joinModule h) (.rule h w) [who]).expect 5 2 (d.map .s) rq).onBank Bank.newX).onCtx fun c =>
        { c with pending := c.pending ++ [Pending.joinReply rq (joinModule h) 1] }
    else
      let r := s.now.mod.joinRule h w (some s.part)
      return (s.onMod fun _ => r.1).retX 2 d (BitVec.ofNat 64 r.2)

end Sys2Proof.Machine
end

