-- ==== Sys2Proof/Machine/Kv.lean ====
section
/-! DEFINITION. Key-value sequences (spec/09 R277 to R283, spec/13 R335): handles, translation, allocation from a partition's
slice, growth by moving, forks with copy-on-write, and the five forms of major 0x0F. -/

namespace Sys2Proof.Machine

/-! ### Managers -/

/-- The key-value manager of Crievo die 8 or 9. -/
def Mod.kv (m : Mod) (die : Nat) : KvMgr := if die = 8 then m.kv8 else m.kv9
def Mod.onKv (m : Mod) (die : Nat) (f : KvMgr → KvMgr) : Mod :=
  if die = 8 then { m with kv8 := f m.kv8 } else { m with kv9 := f m.kv9 }
def Mod.kvSlice (m : Mod) (die part : Nat) : KvSlice := vat KvSlice.reset (m.kv die).slices part

/-- A sequence-table entry as a line of Table 09-11. -/
def Seq.layout (e : Seq) : BitVec 1024 :=
  let b := fun (x : Bool) => if x then 1 else 0
  BitVec.ofNat 1024 (e.length % 2 ^ 32 + e.version % 2 ^ 16 * 2 ^ 32 + e.segs.length % 2 ^ 4 * 2 ^ 48 + b e.dh * 2 ^ 52 + b e.moving * 2 ^ 53 +
    b e.live * 2 ^ 54 + e.check.toNat * 2 ^ 64 + (e.segs.mapIdx fun i g => (g.base % 2 ^ 32 + g.k % 2 ^ 4 * 2 ^ 32) * 2 ^ (128 + 64 * i)).sum +
    e.fold % 2 ^ 32 * 2 ^ 640 + e.fnew % 2 ^ 32 * 2 ^ 672 + e.fmark % 2 ^ 32 * 2 ^ 704 + e.fseg % 2 ^ 3 * 2 ^ 736)

/-- The entries of a slice that differ from those of another stand in the sequence table, where a load capability shows them (R277,
R283); none while the table has no place. -/
def KvMgr.entryCells (k : KvMgr) (part : Nat) (old new : KvSlice) : List Host.Cell :=
  match k.table with
  | none => []
  | some a =>
    let is := (old.seqs.map (·.1) ++ new.seqs.map (·.1)).foldl (fun t i => sins i t) []
    (is.filter fun i => tget Seq.reset i old.seqs ≠ tget Seq.reset i new.seqs).flatMap fun i =>
      (leBytes 128 (tget Seq.reset i new.seqs).layout.toNat).mapIdx fun n b => (a + (part * 65536 + i) * 128 + n, b)

/-- Change a slice; entries that change are published. -/
def Mod.onSlice (m : Mod) (die part : Nat) (f : KvSlice → KvSlice) : Mod :=
  let m1 := m.onKv die fun k => { k with slices := vmod k.slices part f }
  m1.writeBytes none ((m.kv die).entryCells part (m.kvSlice die part) (m1.kvSlice die part)) []

/-- The index, die and check of a handle (R277). -/
def kvIndex (h : W64) : Nat := fld h 0 16
def kvDie (h : W64) : Nat := fld h 16 4
def kvCheck (h : W64) : BitVec 16 := h.extractLsb' 20 16

def KvSlice.seq (s : KvSlice) (i : Nat) : Seq := tget Seq.reset i s.seqs
def KvSlice.setSeq (s : KvSlice) (i : Nat) (e : Seq) : KvSlice := { s with seqs := tput Seq.reset i e s.seqs }

/-- The live entry that a handle names for a partition. -/
def Mod.kvLive (m : Mod) (part : Nat) (h : W64) : Option Seq :=
  if fld h 36 28 ≠ 0 ∨ ¬(kvDie h = 8 ∨ kvDie h = 9) then none
  else
    let e := (m.kvSlice (kvDie h) part).seq (kvIndex h)
    if e.live && e.check = kvCheck h then some e else none

/-- Cache pages of a slab (R277). -/
def slabPages (k : Nat) (dh : Bool) : Nat := 2 ^ k * (if dh then 2 else 1)
/-- Positions that the segments hold. -/
def Seq.capacity (e : Seq) : Nat := (e.segs.map fun g => 64 * 2 ^ g.k).sum
/-- Bytes of a key or of a value. -/
def Seq.width (e : Seq) : Nat := if e.dh then 256 else 128

/-- Free pages of a slice (Table 13-5). -/
def KvSlice.free (s : KvSlice) : Nat := s.pages - (s.slabs.map fun b => slabPages b.k b.dh).sum

/-! ### Allocation (R279) -/

/-- Pages from n on are free of slabs. -/
def KvSlice.clear (s : KvSlice) (base n : Nat) : Bool :=
  s.slabs.all fun b => decide (base + n ≤ b.base) || decide (b.base + slabPages b.k b.dh ≤ base)

/-- The lowest free run of n consecutive pages: it starts at the slice's first page or just past a slab (log 22). -/
def KvSlice.run (s : KvSlice) (n : Nat) : Option Nat :=
  let starts := s.first :: s.slabs.map fun b => b.base + slabPages b.k b.dh
  (starts.filter fun b => decide (b + n ≤ s.first + s.pages) && s.clear b n).foldl (fun r b => match r with
    | none => some b
    | some x => some (min x b)) none

/-- Take a slab: its first page, or the failure code 1 (below the reserve) or 7 (no free run). -/
def KvSlice.take (s : KvSlice) (k : Nat) (dh : Bool) : Except Nat (Nat × KvSlice) :=
  let n := slabPages k dh
  if s.free < n + s.reserve then .error 1
  else match s.run n with
    | none => .error 7
    | some b => .ok (b, { s with slabs := s.slabs ++ [⟨b, k, dh, 1⟩] })

/-- Add a reference to a slab. -/
def KvSlice.share (s : KvSlice) (base : Nat) : KvSlice :=
  { s with slabs := s.slabs.map fun b => if b.base = base then { b with refs := b.refs + 1 } else b }
def KvSlice.refs (s : KvSlice) (base : Nat) : Nat := ((s.slabs.find? (·.base = base)).map (·.refs)).getD 0
/-- Drop a reference; the pages whose count reaches 0 are counted. -/
def KvSlice.drop (s : KvSlice) (base : Nat) : KvSlice × Nat :=
  match s.slabs.find? fun b => b.base = base ∧ b.refs ≠ 0 with
  | none => (s, 0)
  | some g =>
    ({ s with slabs := s.slabs.map fun b => if b.base = base then { b with refs := b.refs - 1 } else b },
      if g.refs = 1 then slabPages g.k g.dh else 0)

/-- First pages that a captured version holds. -/
def Seq.bases (e : Seq) : List Nat := e.segs.map (·.base) ++ (if e.moving then [e.fold, e.fnew] else [])

/-- A running operation of the module captured a version that holds a slab (R243, R282). -/
def Mach.captured (m : Mach) (die part base : Nat) : Bool :=
  let mine := fun (k : Core) => k.meq.any fun o => match o.capt with
    | some (d, p, e) => d = die && p = part && e.bases.contains base
    | none => false
  mine m.core || m.mod.cores.any fun e => !m.holds e.1 && mine e.2

/-- Slabs with no reference return to the free pool once nothing that captured them runs (R282). -/
def Mach.kvReclaim (m : Mach) (die part : Nat) : Mach :=
  { m with mod := m.mod.onSlice die part fun s =>
      { s with slabs := s.slabs.filter fun b => b.refs ≠ 0 || m.captured die part b.base } }

/-! ### Translation (R278) -/

/-- The page and the position within it, of a captured version. -/
def Seq.translateFrom (e : Seq) (p : Nat) : List Seg → Nat → Nat → Option (Nat × Nat)
  | [], _, _ => none
  | g :: gs, i, start =>
    if p < start + 64 * 2 ^ g.k then
      let rel := (p - start) / 64
      let base := if e.moving ∧ i = e.fseg then (if rel < e.fmark then e.fnew else e.fold) else g.base
      some (base + rel * (if e.dh then 2 else 1), p % 64)
    else e.translateFrom p gs (i + 1) (start + 64 * 2 ^ g.k)

def Seq.translate (e : Seq) (p : Nat) : Option (Nat × Nat) := e.translateFrom p e.segs 0 0

/-- The segment that holds a position. -/
def segmentOf (p : Nat) : List Seg → Nat → Nat → Option Nat
  | [], _, _ => none
  | g :: gs, i, start => if p < start + 64 * 2 ^ g.k then some i else segmentOf p gs (i + 1) (start + 64 * 2 ^ g.k)

/-- The device address of a cache page of a Crievo die. -/
def pageAddr (die page : Nat) : Nat := dieBase die + page * 16384

/-- Addresses of the key and the value of a translated position (R277). -/
def Seq.keyAddr (e : Seq) (die : Nat) (t : Nat × Nat) : Nat := pageAddr die t.1 + e.width * t.2
def Seq.valAddr (e : Seq) (die : Nat) (t : Nat × Nat) : Nat := pageAddr die t.1 + 64 * e.width + e.width * t.2

/-- The metadata word of a page (R277): its gap bits, and at a slab's first page the slab's reference count. -/
def Mod.pageMeta (m : Mod) (die part page : Nat) : BitVec 80 :=
  BitVec.ofNat 16 ((((m.kvSlice die part).slabs.find? (·.base = page)).map (·.refs)).getD 0) ++ tget 0 page (m.kv die).gaps

def Mod.gapWord (m : Mod) (die page : Nat) : W64 := tget 0 page (m.kv die).gaps
/-- A position's gap bit. -/
def Mod.gap (m : Mod) (die : Nat) (t : Nat × Nat) : Bool := (m.gapWord die t.1).getLsbD t.2
def Mod.setGap (m : Mod) (die : Nat) (t : Nat × Nat) (v : Bool) : Mod :=
  m.onKv die fun k => { k with gaps := tmod 0 t.1 (fun w => setFld w t.2 1 (if v then 1 else 0)) k.gaps }

/-! ### Moving and copying -/

/-- Copy n cache pages with their gap words; poison travels with them. -/
def Mod.copyPages (m : Mod) (die src dst n : Nat) : Mod :=
  let a := pageAddr die src
  let b := pageAddr die dst
  let cells := (upTo (n * 16384)).map fun i => (b + i, m.byte (a + i))
  let bad := (upTo (n * 16384)).filterMap fun i => if m.poison.contains ((a + i) / 128) then some (b + i) else none
  (m.writeBytes none cells bad).onKv die fun k =>
    { k with gaps := (upTo n).foldl (fun t i => tput 0 (dst + i) (m.gapWord die (src + i)) t) k.gaps }

/-- Move the next page of a growing sequence (R280); the last one ends the move. -/
def Mod.movePage (m : Mod) (die part i : Nat) : Mod :=
  let e := (m.kvSlice die part).seq i
  match e.moving, e.segs[e.fseg]? with
  | true, some g =>
    let u := if e.dh then 2 else 1
    let m1 := m.copyPages die (e.fold + e.fmark * u) (e.fnew + e.fmark * u) u
    m1.onSlice die part fun s =>
      if 2 ^ g.k ≤ 2 * (e.fmark + 1) then
        ((s.setSeq i { e with segs := lset e.segs e.fseg ⟨e.fnew, g.k⟩, moving := false, fmark := 0, version := (e.version + 1) % 2 ^ 16
                              fold := 0, fnew := 0, fseg := 0 }).drop e.fold).1
      else s.setSeq i { e with fmark := e.fmark + 1 }
  | _, _ => m

/-- Finish the move of a sequence: at most 2^14 pages. -/
def Mod.finishMove : Nat → Mod → Nat → Nat → Nat → Mod
  | 0, m, _, _, _ => m
  | n + 1, m, die, part, i => if ((m.kvSlice die part).seq i).moving then (m.movePage die part i).finishMove n die part i else m

def Mod.settleMove (m : Mod) (die part i : Nat) : Mod :=
  let e := (m.kvSlice die part).seq i
  m.finishMove (2 ^ ((e.segs[e.fseg]?).map (·.k)).getD 0) die part i

/-! ### Writing with copy-on-write (R281) -/

/-- The segment of a sequence is made private: none when the copy cannot be allocated. -/
def Mod.ownSegment (m : Mod) (die part i seg : Nat) : Option Mod :=
  let m0 := if ((m.kvSlice die part).seq i).moving ∧ ((m.kvSlice die part).seq i).fseg = seg then m.settleMove die part i else m
  let s := m0.kvSlice die part
  let e := s.seq i
  match e.segs[seg]? with
  | none => some m0
  | some g =>
    if s.refs g.base ≤ 1 then some m0
    else match s.take g.k e.dh with
      | .error _ => none
      | .ok (b, s') =>
        let m1 := m0.copyPages die g.base b (slabPages g.k e.dh)
        some (m1.onSlice die part fun _ =>
          ((s'.setSeq i { e with segs := lset e.segs seg ⟨b, g.k⟩, version := (e.version + 1) % 2 ^ 16 }).drop g.base).1)

/-- A segment that a write to it must not touch as it stands: it is shared. -/
def Mod.sharedSegment (m : Mod) (die part i seg : Nat) : Bool :=
  let s := m.kvSlice die part
  match (s.seq i).segs[seg]? with
  | some g => decide (1 < s.refs g.base)
  | none => false

/-- Every copy that a list of positions needs, before any is written; none when one cannot be allocated. -/
def Mod.ownAll (m : Mod) (die part i : Nat) (ps : List Nat) : Option Mod :=
  let segs := ps.foldl (fun t p => match segmentOf p ((m.kvSlice die part).seq i).segs 0 0 with
    | some g => sins g t
    | none => t) []
  segs.foldl (fun mo g => mo.bind fun m => if m.sharedSegment die part i g then m.ownSegment die part i g else some m) (some m)

/-- Write one position under a version: its key and value and a clear gap bit, or a set gap bit (R252). -/
def Mod.kvPutAt (m : Mod) (die : Nat) (e : Seq) (p : Nat) (kv : Option (List Byte × List Byte)) (bad : List Nat) : Mod :=
  match e.translate p with
  | none => m
  | some t =>
    match kv with
    | none => m.setGap die t true
    | some (k, v) =>
      let cells := (k.mapIdx fun n b => (e.keyAddr die t + n, b)) ++ v.mapIdx fun n b => (e.valAddr die t + n, b)
      let badA := (cells.mapIdx fun n c => (n, c.1)).filterMap fun x => if bad.contains x.1 then some x.2 else none
      (m.writeBytes none cells badA).setGap die t false

/-- Write one position under the version of the present. -/
def Mod.kvPut (m : Mod) (die part i p : Nat) (kv : Option (List Byte × List Byte)) (bad : List Nat) : Mod :=
  m.kvPutAt die ((m.kvSlice die part).seq i) p kv bad

/-! ### The forms (R279) -/

/-- The failure word of a code. -/
def kvFail (code : Nat) : W64 := BitVec.ofNat 64 (2 ^ 63 + code)

/-- The lowest index whose entry is not live (log 22). -/
def KvSlice.freeIndex (s : KvSlice) : Option Nat := (upTo 65536).find? fun i => !(s.seq i).live

def kvHandle (die i : Nat) (check : BitVec 16) : W64 := BitVec.ofNat 64 (i + die * 2 ^ 16 + check.toNat * 2 ^ 20)

/-- kvalloc. -/
def Mod.kvAlloc (m : Mod) (die part k : Nat) (dh : Bool) : Mod × W64 :=
  let s := m.kvSlice die part
  match s.take k dh with
  | .error c => (m, kvFail c)
  | .ok (b, s') =>
    match s.freeIndex with
    | none => (m, kvFail 2)
    | some i =>
      let e := { Seq.reset with segs := [⟨b, k⟩], dh := dh, live := true, check := (s.seq i).check }
      (m.onSlice die part fun _ => s'.setSeq i e, kvHandle die i e.check)

/-- kvgrow (R280). -/
def Mod.kvGrow (m : Mod) (die part i : Nat) (b : Nat) : Mod × W64 :=
  let s := m.kvSlice die part
  let e := s.seq i
  let bump := (e.version + 1) % 2 ^ 16
  if e.moving then (m, kvFail 5)
  else match b, e.segs.getLast? with
    | 0, some g =>
      if 15 < g.k + 1 then (m, kvFail 3)
      else match s.take (g.k + 1) e.dh with
        | .error c => (m, kvFail c)
        | .ok (nb, s') =>
          let e' := { e with
            segs := lset e.segs (e.segs.length - 1) ⟨g.base, g.k + 1⟩, moving := true, fold := g.base, fnew := nb, fmark := 0
            fseg := e.segs.length - 1, version := bump }
          (m.onSlice die part fun _ => s'.setSeq i e', BitVec.ofNat 64 e'.capacity)
    | _, _ =>
      let k := b - 1
      if 15 < k then (m, kvFail 3)
      else if 8 ≤ e.segs.length then (m, kvFail 4)
      else match s.take k e.dh with
        | .error c => (m, kvFail c)
        | .ok (nb, s') =>
          let e' := { e with segs := e.segs ++ [⟨nb, k⟩], version := bump }
          (m.onSlice die part fun _ => s'.setSeq i e', BitVec.ofNat 64 e'.capacity)

/-- Segments that cover positions below n. -/
def coverSegs (n : Nat) : List Seg → Nat → List Seg
  | [], _ => []
  | g :: gs, start => if start < n then g :: coverSegs n gs (start + 64 * 2 ^ g.k) else []

/-- kvfork (R281); a move under way is finished first (log 23). -/
def Mod.kvFork (m : Mod) (die part i n : Nat) : Mod × W64 :=
  let e0 := (m.kvSlice die part).seq i
  if e0.length < n then (m, kvFail 6)
  else
    match (m.kvSlice die part).freeIndex with
    | none => (m, kvFail 2)
    | some j =>
      let m1 := m.settleMove die part i
      let s := m1.kvSlice die part
      let e := s.seq i
      let segs := coverSegs n e.segs 0
      let f := { Seq.reset with length := n, segs := segs, dh := e.dh, live := true, check := (s.seq j).check }
      (m1.onSlice die part fun s => (segs.foldl (fun s g => s.share g.base) s).setSeq j f, kvHandle die j f.check)

/-- Drop references to slabs: the slice, and the pages whose count reached 0. -/
def KvSlice.dropAll (s : KvSlice) (bases : List Nat) : KvSlice × Nat :=
  bases.foldl (fun r b => let d := r.1.drop b; (d.1, r.2 + d.2)) (s, 0)

/-- kvfree. -/
def Mod.kvFree (m : Mod) (die part i : Nat) : Mod × W64 :=
  let s := m.kvSlice die part
  let e := s.seq i
  let r := s.dropAll (e.segs.map (·.base) ++ if e.moving then [e.fnew] else [])
  (m.onSlice die part fun _ => r.1.setSeq i { Seq.reset with check := e.check + 1 }, BitVec.ofNat 64 r.2)

/-- kvinval (R282). -/
def Mod.kvInval (m : Mod) (die part i n : Nat) : Mod × W64 :=
  let s := m.kvSlice die part
  let e := s.seq i
  if e.length < n then (m, kvFail 6)
  else
    let keep := coverSegs n e.segs 0
    let gone := (e.segs.drop keep.length).map (·.base)
    let cancel := e.moving && decide (keep.length ≤ e.fseg)
    let r := s.dropAll (gone ++ if cancel then [e.fnew] else [])
    let e' := { e with length := n, segs := keep, version := (e.version + 1) % 2 ^ 16, moving := e.moving && !cancel }
    let e'' := if cancel then { e' with fold := 0, fnew := 0, fmark := 0, fseg := 0 } else e'
    (m.onSlice die part fun _ => r.1.setSeq i e'', BitVec.ofNat 64 n)

/-- A form that executes at the manager: reclaimed slabs are free, the result lands with bound 16, and a success sets the
effect bit (R283, spec/01 R32). -/
def State.kvStep (s : State) (d : Option (Fin 64)) (die : Nat) (f : Mod → Mod × W64) : State :=
  let m := s.now.kvReclaim die s.part
  let r := f m.mod
  let m2 := ({ m with mod := r.1 } : Mach).kvReclaim die s.part
  let s1 := ({ s with now := m2 } : State).retX 16 d r.2
  if r.2.getLsbD 63 then s1 else s1.onCtx Ctx.setEffect

/-- The live handle of a form: reserved bits, then liveness (R279). -/
def State.kvHandleOf (s : State) (h : W64) : Except Stop Unit := do
  need (fld h 36 28 = 0) 5 kEngine
  need (s.start.mod.kvLive s.part h).isSome 5 kKvHandle

/-- R279: kvalloc. -/
def execKvalloc (d : Option (Fin 64)) (a b : Src) (s : State) : Host.Outcome State Fault Refusal :=
  s.issue 5 (a.scalarOk && b.scalarOk) do
    let x ← s.scalar 5 0 a
    let y ← s.scalar 5 1 b
    need (fld x 5 59 = 0 && (y = 8 || y = 9)) 5 kEngine
    return s.kvStep d y.toNat fun m => m.kvAlloc y.toNat s.part (fld x 0 4) (x.getLsbD 4)

/-- R279: kvgrow. -/
def execKvgrow (d : Option (Fin 64)) (a b : Src) (s : State) : Host.Outcome State Fault Refusal :=
  s.issue 5 (a.scalarOk && b.scalarOk) do
    let x ← s.scalar 5 0 a
    let y ← s.scalar 5 1 b
    s.kvHandleOf x
    return s.kvStep d (kvDie x) fun m => m.kvGrow (kvDie x) s.part (kvIndex x) y.toNat

/-- R279: kvfork. -/
def execKvfork (d : Option (Fin 64)) (a b : Src) (s : State) : Host.Outcome State Fault Refusal :=
  s.issue 5 (a.scalarOk && b.scalarOk) do
    let x ← s.scalar 5 0 a
    let y ← s.scalar 5 1 b
    s.kvHandleOf x
    return s.kvStep d (kvDie x) fun m => m.kvFork (kvDie x) s.part (kvIndex x) y.toNat

/-- R279: kvfree. -/
def execKvfree (d : Option (Fin 64)) (a : Src) (s : State) : Host.Outcome State Fault Refusal :=
  s.issue 5 a.scalarOk do
    let x ← s.scalar 5 0 a
    s.kvHandleOf x
    return s.kvStep d (kvDie x) fun m => m.kvFree (kvDie x) s.part (kvIndex x)

/-- R279: kvinval. -/
def execKvinval (d : Option (Fin 64)) (a b : Src) (s : State) : Host.Outcome State Fault Refusal :=
  s.issue 5 (a.scalarOk && b.scalarOk) do
    let x ← s.scalar 5 0 a
    let y ← s.scalar 5 1 b
    s.kvHandleOf x
    return s.kvStep d (kvDie x) fun m => m.kvInval (kvDie x) s.part (kvIndex x) y.toNat

end Sys2Proof.Machine
end

