-- ==== Sys2Proof/Machine/Serving.lean ====
section
/-! DEFINITION. The sampler copy (spec/09 R261 to R263), speculative acceptance (R289 to R291) and the admission heap (R292 to
R294): their checks at issue, and what the engines compute when they run. -/

namespace Sys2Proof.Machine

/-! ### What an engine finds when it runs -/

/-- A fault of an engine operation (Table 09-3); coordinates and remaining elements of its position. -/
structure EngFault where
  cause : Nat
  wr : Bool
  coords : List Nat
  remain : Nat
  obj : Nat
  off : Nat
deriving DecidableEq, Repr

/-- Why an engine operation does not go on: a line, a queue, a page or an answer it waits for, or a fault. -/
inductive EngStop where
  | wait
  | fault (f : EngFault)
deriving DecidableEq, Repr

/-- A read of another core's bank reaches it in a later cycle than the operation's issue, behind the context's earlier requests to
that bank (spec/02 R61, spec/04 R110). -/
def Mach.engReaches (m : Mach) (c : Nat) (o : EngOp) (key : Nat) : Bool :=
  let bank := max 1 (m.spBankOf c)
  key / 2 ^ 22 = m.lplace c ||
    (decide (o.issued < m.mod.tick) &&
      (m.coreAt (m.peerOf c (key / 2 ^ 22))).reqs.all fun r => !(r.core = c && r.ctx = o.ctx && r.addr / bank = key % 2 ^ 22 / bank))

/-- Waiting reads of n scratchpad bytes by key (spec/02 R59, spec/09 R254): bytes already read stand; poison is cause 3. -/
def Mach.engRead (m : Mach) (draw c : Nat) (o : EngOp) (key n : Nat) : Except EngStop (List Byte) :=
  let keys := (upTo n).map (key + ·)
  let fresh := keys.filter fun k => (tfind k o.buf).isNone
  let lines := fresh.foldl (fun t k => sins (k / 128) t) []
  if !lines.all (fun l => m.lineFull c l && m.engReaches c o (128 * l)) then .error .wait
  else match keys.find? fun k => if (tfind k o.buf).isSome then o.bufBad.contains k else m.spBadAt c k with
    | some k => .error (.fault ⟨3, false, [0, 0, 0, 0], 1, 0, k % 2 ^ 22⟩)
    | none => .ok (keys.map fun k => (tfind k o.buf).getD (m.spByteAt draw c k))

/-- Write scratchpad bytes by key, with the keep effect. -/
def Mach.engWrite (m : Mach) (c key : Nat) (data : List Byte) : Mach :=
  m.onCore (m.peerOf c (key / 2 ^ 22)) fun k => k.spWrite (key % 2 ^ 22) data

/-- Write whole lines by key with the fill effect. -/
def Mach.engFill (m : Mach) (c key : Nat) (data : List Byte) : Mach :=
  m.onCore (m.peerOf c (key / 2 ^ 22)) fun k => (k.spWrite (key % 2 ^ 22) data).setFull (linesOf (key % 2 ^ 22) data.length)

/-- The range of n scratchpad bytes at an address word. -/
def spRange (place a n : Nat) : Range := ⟨1, spKeyOf place a / 2 ^ 22, spKeyOf place a % 2 ^ 22, n⟩

/-- R52 on a scratchpad access of an engine operation in slot X. -/
def State.rangeStop (s : State) (a n : Nat) : Option Stop :=
  if s.rcd.gSp ≠ 0 && s.spOk a n then none else some (.trap ⟨kScratch, 0, 5, a, 0⟩)

def alignStop (a n : Nat) : Option Stop := if a % n = 0 then none else some (.trap ⟨kAlignment, 0, 5, a, 0⟩)

/-- Bytes of a list as captured cells. -/
def cellsAt (key : Nat) (data : List Byte) : List Host.Cell := data.mapIdx fun i b => (key + i, b)

/-! ### The sampler copy -/

/-- The scalar operand of smpl (R261). -/
def smplJ (a : W64) : Nat := fld a 0 4
def smplN (a : W64) : Nat := fld a 4 5
def smplRow (a : W64) : Nat := fld a 9 5

/-- Count lines of the chunks that hold ids below vmax (Table 09-5): address words. -/
def smplCounts (p : Nat) (nacc : Nat) : List Nat :=
  let vbase := bitsAt p 128 32
  ((upTo nacc).filter fun c => decide (vbase + 64 * c < bitsAt p 224 32)).map fun c => bitsAt p 96 32 + 2 * (vbase + 64 * c)

/-- Legal values of the parameter line (R261). -/
def smplOk (p : Nat) : Bool :=
  bitsAt p 167 25 = 0 && bitsAt p 208 16 = 0 && bitsAt p 800 224 = 0 && decide (1 ≤ bitsAt p 160 6) && decide (bitsAt p 160 6 ≤ 32) &&
    bitsAt p 96 32 % 128 = 0 && bitsAt p 768 32 % 512 = 0 && bitsAt p 128 32 % 64 = 0

/-- R261: smpl. A poisoned parameter line is found when the engine runs (spec/15 R385). -/
def execSmpl (d : Option (Fin 64)) (a b : Src) (s : State) : Host.Outcome State Fault Refusal :=
  s.issue 5 (a.scalarOk && b.scalarOk) do
    s.window
    let x ← s.scalar 5 0 a
    let y ← s.scalar 5 1 b
    need (fld x 14 50 = 0 && decide (1 ≤ smplN x) && decide (smplN x ≤ 16)) 5 kEngine
    let (bytes, bad) ← s.waitingRead 5 y.toNat 128
    let p := leNat bytes
    let rec' := bitsAt p 768 32
    need (bad || smplOk p) 5 kEngine
    need ((upTo (smplN x)).all fun c => s.accOk (smplJ x + c)) 5 kAbsentAcc
    let counts := if bad then [] else smplCounts p (smplN x)
    firstStop counts fun z => s.rangeStop z 128
    if !bad then firstStop [rec'] fun z => s.rangeStop z 512
    let cont := !bad && p.testBit 166
    let wr := if bad then [] else [spRange s.place rec' 512]
    let rd := spRange s.place y.toNat 128 :: (counts.map fun z => spRange s.place z 128) ++ (if cont then wr else [])
    let here := rd.all fun r => r.obj = s.place
    let t := s.promise ((rd ++ wr).map (·.len)).sum [some (if here then 8 else 24, 256)]
    let key := spKeyOf s.place y.toNat
    return (s.engineIssue 4 0 (some t) (.smpl x y s.now.core.meSeq) rd wr none none
      (if bad then [] else cellsAt key bytes)).promised d t

/-- The value of an accumulator element (spec/03 R91). -/
def AccBank.num (k : AccBank) (row col : Nat) : Num :=
  acxNum (tget 0 (64 * row + col) k.elems).toInt (tget 0 row k.exps).toInt

def Core.acc (k : Core) (j : Nat) : AccPair := tget AccPair.zero j k.accs

/-- A candidate list kept in descending value, ties to the lower id. -/
def topInsert (x : Num) (id : Nat) : List (Num × Nat) → List (Num × Nat)
  | [] => [(x, id)]
  | (y, j) :: t => if y.lt x ∨ (x.eqv y ∧ id < j) then (x, id) :: (y, j) :: t else (y, j) :: topInsert x id t

/-- The running state of a sampler record (Table 09-6). -/
structure Sample where
  m : Num
  s : Num
  top : List (Num × Nat)
  nan : Bool
deriving DecidableEq, Repr

def f32At (x i : Nat) : Num := decodeNum .f32 (bitsAt x i 32)

/-- A record as held in the scratchpad. -/
def sampleOf (x : Nat) : Sample :=
  ⟨f32At x 3072, f32At x 3104, (upTo (min 32 (bitsAt x 3136 32))).map fun i => (f32At x (32 * i), bitsAt x (1024 + 32 * i) 32),
    x.testBit 3168⟩

/-- One logit of R262 under the parameter line p, with the committed count of its id. -/
def smplLogit (p : Nat) (y : Num) (v count : Nat) : Num :=
  let x := ((y.inFmt .f32).mul (f32At p 0)).inFmt .f32
  let h := count + ((upTo 16).filter fun j => p.testBit (192 + j) && bitsAt p (256 + 32 * j) 32 = v).length
  if h = 0 then x
  else ((x.sub (f32At p 32)).inFmt .f32).sub (((f32At p 64).mul (Num.ofInt h)).inFmt .f32) |>.inFmt .f32

/-- One chunk of R262: its 64 values, in column order, with the id of column 0. -/
def smplChunk (p : Nat) (t : Sample) (base : Nat) (xs : List Num) : Sample :=
  let nan := t.nan || xs.any Num.isNan
  let xs := xs.map fun x => if x.isNan then Num.inf true else x
  let m' := xs.foldl Num.max t.m
  if m' = .inf true then { t with nan := nan }
  else
    let terms := xs.map fun x => exp2F32 ((x.sub m').inFmt .f32)
    let s := (((t.s.mul (exp2F32 (t.m.sub m'))).inFmt .f32).add (sumInOrder .f32 .rne terms)).inFmt .f32
    let top := ((xs.mapIdx fun i x => (x, base + i)).filter fun e => !e.1.isInf).foldl (fun l e => topInsert e.1 e.2 l) t.top
    ⟨m', s, top.take (bitsAt p 160 6), nan⟩

/-- A record as it is written (Table 09-6). -/
def sampleBytes (t : Sample) (vnext : Nat) : List Byte :=
  let enc := fun (x : Num) => encodeNum .f32 x .rne false
  leBytes 512 (joinLanes 32 (t.top.map fun e => enc e.1) + joinLanes 32 (t.top.map (·.2)) * 2 ^ 1024 + enc t.m * 2 ^ 3072 +
    enc t.s * 2 ^ 3104 + t.top.length * 2 ^ 3136 + (if t.nan then 2 ^ 3168 else 0) +
    (if t.m = .inf true then 2 ^ 3169 else 0) + vnext % 2 ^ 32 * 2 ^ 3200)

/-- Run a sampler copy of core c (R262, R263): it starts once every M operation issued before it has run (spec/08 R224). -/
def Mach.runSmpl (m : Mach) (draw c : Nat) (o : EngOp) (a b : W64) (meSeq : Nat) : Except EngStop Mach :=
  let k := m.coreAt c
  let place := m.lplace c
  if k.meq.any fun q => decide (q.seq < meSeq) then .error .wait
  else do
    let p := leNat (← m.engRead draw c o (spKeyOf place b.toNat) 128)
    let vbase := bitsAt p 128 32
    let vmax := bitsAt p 224 32
    let rec' := spKeyOf place (bitsAt p 768 32)
    let start ← if p.testBit 166 then (fun l => sampleOf (leNat l)) <$> m.engRead draw c o rec' 512
      else Except.ok ⟨.inf true, .fin false 0 0, [], false⟩
    let r ← (upTo (smplN a)).foldlM (fun (t : Sample) i => do
      let base := vbase + 64 * i
      let counts ← if base < vmax then leNat <$> m.engRead draw c o (spKeyOf place (bitsAt p 96 32 + 2 * base)) 128 else Except.ok 0
      let bank := (k.acc (smplJ a + i)).vis
      return smplChunk p t base ((upTo 64).map fun col =>
        if vmax ≤ base + col then Num.inf true
        else smplLogit p (bank.num (smplRow a) col) (base + col) (bitsAt counts (16 * col) 16))) start
    return m.engFill c rec' (sampleBytes r (vbase + 64 * smplN a))

/-! ### Acceptance -/

/-- A mask parameter block is valid (spec/08 R246). -/
def maskOk (x : Nat) : Bool :=
  let n := bitsAt x 32 16
  let av := fun i => bitsAt x (64 + 16 * i) 16
  decide (1 ≤ n) && decide (n ≤ 16) && decide (bitsAt x 0 32 + 16 ≤ 2 ^ 32) && bitsAt x 48 16 = 0 && bitsAt x 320 192 = 0 && av 0 = 1 &&
    (upTo 16).all fun i =>
      if n ≤ i then av i = 0
      else (av i).testBit 0 && (av i).testBit i && decide (av i < 2 ^ (i + 1)) &&
        (upTo 16).all fun j => j = i || !(av i).testBit j || av j &&& av i == av j

/-- The parent of node i of a valid tree: its deepest other ancestor. -/
def maskParent (x i : Nat) : Nat := ((upTo i).filter fun j => (bitsAt x (64 + 16 * i) 16).testBit j).foldl max 0

/-- Bytes of the count table of a block. -/
def acceptTable (x : Nat) : Nat := 128 * ceilDiv (2 * bitsAt x 1248 32) 128

/-- R289: accept. A poisoned block is found when the engine runs (spec/15 R385). -/
def execAccept (d : Option (Fin 64)) (a : Src) (s : State) : Host.Outcome State Fault Refusal :=
  s.issue 5 a.scalarOk do
    s.window
    let y ← s.scalar 5 0 a
    let (bytes, bad) ← s.waitingRead 5 y.toNat 256
    let x := leNat bytes
    need (bad || (maskOk x && bitsAt x 1337 711 = 0)) 5 kEngine
    let n := if bad then 0 else bitsAt x 32 16
    let trec := bitsAt x 1152 32
    let drec := bitsAt x 1184 32
    let cnt := bitsAt x 1216 32
    let out := bitsAt x 1280 32
    let recs := (upTo n).flatMap fun u => [trec + 512 * u, drec + 512 * u]
    let table := if bad then [] else (upTo (acceptTable x / 128)).map fun i => cnt + 128 * i
    firstStop recs fun z => s.rangeStop z 512
    firstStop table fun z => s.rangeStop z 128
    if !bad then firstStop [out] fun z => s.rangeStop z 128
    if !bad then firstStop [trec, drec, cnt, out] fun z => alignStop z 128
    let rd := spRange s.place y.toNat 256 :: recs.map fun z => spRange s.place z 512
    let line := if bad then [] else [spRange s.place out 128]
    let ahead := (s.peers.map fun c => ((s.now.coreAt c).ctxs.map fun k =>
      ((k.engine.filter fun o => match o.body with | .accept _ => true | _ => false).map fun o => (o.rd.map (·.len)).sum).sum).sum).sum
    let t := s.tick + 24 + ceilDiv (ahead + (rd.map (·.len)).sum) 256 + 24 + 4 * n
    let s1 := s.engineIssue 10 0 (some t) (.accept y) rd (line ++ table.map fun z => spRange s.place z 128) none (some line)
      (if bad then [] else cellsAt (spKeyOf s.place y.toNat) bytes)
    return (if !bad && x.testBit 1336 then s1.onCtx Ctx.setEffect else s1).promised d t

/-- Probabilities of the slots of a record: ids and values (R290). -/
def recordProbs (r : Sample) : List (Nat × Num) :=
  r.top.map fun e => (e.2, ((exp2F32 ((e.1.sub r.m).inFmt .f32)).div r.s).inFmt .f32)

/-- The probability of an id: 0 outside the record. -/
def probOf (ps : List (Nat × Num)) (id : Nat) : Num := ((ps.find? (·.1 = id)).map (·.2)).getD (.fin false 0 0)

def exactSum (xs : List Num) : Num := xs.foldl Num.add (.fin false 0 0)

/-- The draw of a slot (R290). -/
def acceptDraw (x d : Nat) : Num := Num.ofInt (stochBits (bitsAt x 1024 64) (bitsAt x 1088 64 + d * 2 ^ 64) % 2 ^ 32 : Nat)

/-- One child's trial: the residual and its sum after a rejection, or acceptance. -/
def acceptTry (x c : Nat) (draft : List (Nat × Num)) (r : List (Nat × Num)) (sum : Num) : Option (List (Nat × Num) × Num) :=
  let t := bitsAt x (512 + 32 * c) 32
  let q := probOf draft t
  let w := probOf r t
  let two := Num.ofInt (2 ^ 32)
  if (Num.fin false 0 0).lt w ∧ (q.isZero ∨ (((acceptDraw x c).mul q).mul sum).lt (w.mul two)) then none
  else
    let r' := r.map fun e => (e.1, Num.max (.fin false 0 0) ((e.2.sub (probOf draft e.1)).inFmt .f32))
    some (r', exactSum (r'.map (·.2)))

/-- The children of a node in ascending order, tried in turn: the taken child, or the residual and its sum. -/
def acceptChildren (x : Nat) (draft : List (Nat × Num)) : List Nat → List (Nat × Num) → Num → Option Nat × List (Nat × Num) × Num
  | [], r, sum => (none, r, sum)
  | c :: cs, r, sum =>
    match acceptTry x c draft r sum with
    | none => (some c, r, sum)
    | some (r', n) => acceptChildren x draft cs r' n

/-- Where the walk stops: its node, path, residual, sum, target record and whether a record carried the nan flag. -/
structure Accepted where
  u : Nat
  path : List Nat
  r : List (Nat × Num)
  sum : Num
  target : Sample
  nan : Bool
deriving DecidableEq, Repr

/-- The walk of R290 from a node; it reads the target record of each node it visits and the draft record of one that has
children. -/
def acceptWalk (x : Nat) (rd : Nat → Except EngStop Sample) : Nat → Nat → List Nat → Bool → Except EngStop Accepted
  | 0, u, path, nan => .ok ⟨u, path, [], .ofInt 1, ⟨.nan, .nan, [], false⟩, nan⟩
  | fuel + 1, u, path, nan => do
    let t ← rd (bitsAt x 1152 32 + 512 * u)
    let kids := ((upTo (bitsAt x 32 16)).drop 1).filter fun c => maskParent x c = u
    let ps := recordProbs t
    if kids = [] then return ⟨u, path, ps, .ofInt 1, t, nan || t.nan⟩
    else
      let dr ← rd (bitsAt x 1184 32 + 512 * u)
      match acceptChildren x (recordProbs dr) kids ps (.ofInt 1) with
      | (some c, _, _) => acceptWalk x rd fuel c (path ++ [c]) (nan || t.nan || dr.nan)
      | (none, r, n) => return ⟨u, path, r, n, t, nan || t.nan || dr.nan⟩

/-- The correction token (R290): the first slot whose running sum passes the draw; 0xFFFFFFFF for an empty target record. Where
no slot does, the manual states none and a free value stands (log 25). -/
def acceptCorr (x : Nat) (r : List (Nat × Num)) (free : Nat) : Nat :=
  if r = [] then 2 ^ 32 - 1
  else
    let total := (acceptDraw x 0).mul (exactSum (r.map (·.2)))
    let hit := (upTo r.length).find? fun i => total.lt ((Num.ofInt (2 ^ 32)).mul (exactSum ((r.take (i + 1)).map (·.2))))
    (hit.bind fun i => (r[i]?).map (·.1)).getD free

/-- Add 1 to a committed count, saturating at 65,535 (R291). -/
def Mach.countToken (m : Mach) (draw c place x t : Nat) : Mach :=
  if bitsAt x 1248 32 ≤ t then m
  else
    let key := spKeyOf place (bitsAt x 1216 32 + 2 * t)
    let old := leNat [m.spByteAt draw c key, m.spByteAt draw c (key + 1)]
    m.engWrite c key (leBytes 2 (min 65535 (old + 1)))

/-- Run an accept (R290, R291): committed counts, then the acceptance record of Table 09-13. -/
def Mach.runAccept (m : Mach) (draw c : Nat) (o : EngOp) (a : W64) : Except EngStop Mach := do
  let place := m.lplace c
  let x := leNat (← m.engRead draw c o (spKeyOf place a.toNat) 256)
  let w ← acceptWalk x (fun z => (fun l => sampleOf (leNat l)) <$> m.engRead draw c o (spKeyOf place z) 512) 17 0 [] false
  let zres := w.sum.isZero
  let corr := acceptCorr x (if zres then recordProbs w.target else w.r) (Config.undef 32 draw 5 11).toNat
  let len := w.path.length
  let leaf := ((upTo (bitsAt x 32 16)).drop 1).all fun i => maskParent x i ≠ w.u
  let next := if len = 0 then bitsAt x 1312 8 else if leaf then bitsAt x 1328 8 else bitsAt x 1320 8
  let m1 := if x.testBit 1336 then
      (w.path.map (fun n => bitsAt x (512 + 32 * n) 32) ++ [corr]).foldl (fun (mm : Mach) t => mm.countToken draw c place x t) m
    else m
  return m1.engFill c (spKeyOf place (bitsAt x 1280 32)) (leBytes 128 (len + next * 2 ^ 8 + (if zres then 2 ^ 16 else 0) +
    (if leaf then 2 ^ 17 else 0) + (if w.nan then 2 ^ 18 else 0) + corr * 2 ^ 32 + joinLanes 8 w.path * 2 ^ 64))

/-! ### The admission heap -/

/-- Push a request: 0 pushed, 1 full (R292). -/
def Mod.heapPush (m : Mod) (rank part deadline cost : Nat) (id : W32) : Mod × Nat :=
  if 4096 ≤ m.heap.length then (m, 1)
  else ({ m with heap := m.heap ++ [⟨deadline, cost, id, part, m.heapSerial, m.tick, rank⟩], heapSerial := m.heapSerial + 1 }, 0)

/-- The next request of a partition: the earliest deadline, then the earliest push, those of one cycle in the order of R129 (R293). -/
def Mod.heapNext (m : Mod) (part : Nat) : Option HeapEntry :=
  (sortBy (fun (e : HeapEntry) => [e.deadline, e.tick, e.rank, e.serial]) (m.heap.filter (·.part = part))).head?

/-- Selections left, in order: the heap after them, the entries popped, the reason and the budget left (R293). -/
def Mod.heapSelect : Nat → Mod → Nat → Nat → List HeapEntry → Mod × List HeapEntry × Nat × Nat
  | 0, m, _, budget, out => (m, out, 2, budget)
  | n + 1, m, part, budget, out =>
    match m.heapNext part with
    | none => (m, out, 1, budget)
    | some e =>
      if budget < e.cost then (m, out, 0, budget)
      else ({ m with heap := m.heap.filter (· ≠ e) }).heapSelect n part (budget - e.cost) (out ++ [e])

/-- The push of a context once its publish is complete: a push that pushes sets the effect bit. -/
def Mach.heapGo (m : Mach) (a b : W64) : Mach × W64 :=
  if fld b 32 32 ≠ 0 then (m, 2)
  else
    let r := m.mod.heapPush m.selfRank m.selfPart (fld a 0 48) (fld a 48 16) (b.extractLsb' 0 32)
    ({ m with mod := r.1, ctx := if r.2 = 0 then m.ctx.setEffect else m.ctx }, BitVec.ofNat 64 r.2)

/-- R292: ahpush, a release at .mod. -/
def execAhpush (d : Option (Fin 64)) (a b : Src) (s : State) : Host.Outcome State Fault Refusal :=
  s.issue 5 (a.scalarOk && b.scalarOk) do
    let x ← s.scalar 5 0 a
    let y ← s.scalar 5 1 b
    let r := s.now.publish .mod (.heap x y 0)
    if r.2 then
      let g := r.1.heapGo x y
      return { s with now := g.1 }.retX 8 d g.2
    else
      let (rq, s0) := s.newReq
      return ({ s0 with now := { r.1 with ctx := { r.1.ctx with
          reqNext := s0.now.ctx.reqNext, pending := r.1.ctx.pending ++ [Pending.publish .mod (.heap x y rq)] } } }.expect 5 8
        (d.map .s) rq).onBank Bank.newX

/-- R293: ahsel; a selection of at least one request refreshes, as its pops synchronise with the pushes (log 26). -/
def execAhsel (d : Option (Fin 64)) (a b : Src) (s : State) : Host.Outcome State Fault Refusal :=
  s.issue 5 (a.scalarOk && b.scalarOk) do
    let x ← s.scalar 5 0 a
    let y ← s.scalar 5 1 b
    firstStop [y.toNat] fun z => s.rangeStop z 1024
    firstStop [y.toNat] fun z => alignStop z 128
    if fld x 32 32 ≠ 0 then return s.retX 16 d (BitVec.ofNat 64 (3 * 2 ^ 8 + fld x 0 32 * 2 ^ 16))
    else
      let (m, out, reason, left) := s.now.mod.heapSelect 64 s.part (fld x 0 32) []
      let data := leBytes (16 * out.length) (joinLanes 128 (out.map fun e => e.deadline + e.cost * 2 ^ 48 + e.id.toNat * 2 ^ 64))
      let m1 := ({ s.now with mod := m } : Mach).engFill s.now.cid (spKeyOf s.place y.toNat) data
      let s1 := if out = [] then { s with now := m1 } else ({ s with now := m1.refresh .mod } : State).onCtx Ctx.setEffect
      return s1.retX 16 d (BitVec.ofNat 64 (out.length + reason * 2 ^ 8 + left * 2 ^ 16))

end Sys2Proof.Machine
end

