-- ==== Sys2Proof/Machine/Fabric.lean ====
section
/-! DEFINITION. Fabric stores, remote atomics and the acknowledgement fence at issue (spec/09 R264 to R267, spec/04 R126 to
R128), and the return of acknowledgements. -/

namespace Sys2Proof.Machine

/-! ### Acknowledgements -/

/-- An acknowledgement returns: its serial leaves every list that waits for it. -/
def Ctx.acked (c : Ctx) (serial : Nat) : Ctx :=
  let gone := fun (l : List Pending) => (l.map fun p => match p with
    | .acks l => Pending.acks (l.erase serial)
    | p => p).filter (· ≠ Pending.acks [])
  { c with acks := c.acks.erase serial, pending := gone c.pending, savedPend := gone c.savedPend }

/-- The serial of the next acknowledgement of the context, for a module (Pending.acks, Ctx.acks). -/
def Ctx.serial (c : Ctx) (mo : BitVec 13) : Nat := c.ackNext * 2 ^ 13 + mo.toNat

/-- The module that holds an object, as its entry names it. -/
def Mod.moduleOf (m : Mod) (obj : Nat) : BitVec 13 :=
  match m.entry obj with
  | some e => if entType e = 3 then entModule e else m.addr
  | none => m.addr

/-- One more acknowledgement is outstanding: the result of fst and ratom (R264, R266). -/
def State.owe (s : State) (serial : Nat) : State :=
  s.onCtx fun c => { c with acks := c.acks ++ [serial], ackNext := c.ackNext + 1 }

/-! ### fst -/

/-- R264, R265: a fabric store. -/
def fabricStore (d : Option (Fin 64)) (a b : Src) (ordered sprint : Bool) (s : State) : Host.Outcome State Fault Refusal :=
  s.issue 5 (a.shapeOk && b.shapeOk) do
    s.window
    let x ← s.shape 5 0 a
    let y ← s.shape 5 1 b
    let sa ← s.side 5 2 x none
    let sb ← s.side 5 3 y none
    let tag := tagOf y
    let fcap ← if tag.isNone then s.capReg 5 4 (fld (shAux0 y) 8 4) else Except.ok 0
    let disp := sgn 32 (fld (shAux0 y) 32 32)
    let (a, b, w, run) ← s.transfer sa sb (some ⟨sprint, if tag.isNone then some (fcap, disp) else none⟩)
    let serial := s.now.ctx.serial (s.now.mod.moduleOf (capObject b.cap))
    let cons := (shAux0 a.shape).getLsbD 4 && shSpace a.shape = 1
    let s1 := s.engineIssue 5 ((if ordered then 1 else 0) + if sprint then 2 else 0) none
      (.move a b w run cons (if tag.isNone then some (fcap, disp, ordered) else none) tag)
      (a.from s.place s.spBank w run 0) (b.from s.place s.spBank w run 0) (some serial)
    let s2 := s1.owe serial
    return (if tag.isNone then s2.onCtx Ctx.setEffect else s2).retX 2 d (BitVec.ofNat 64 s2.now.ctx.acks.length)

/-- R264: fst. -/
def execFst (d : Option (Fin 64)) (a b : Src) (s : State) : Host.Outcome State Fault Refusal := fabricStore d a b false false s
/-- R264: fst.of. -/
def execFstOf (d : Option (Fin 64)) (a b : Src) (s : State) : Host.Outcome State Fault Refusal := fabricStore d a b true false s
/-- R265: fst.sp. -/
def execFstSp (d : Option (Fin 64)) (a b : Src) (s : State) : Host.Outcome State Fault Refusal := fabricStore d a b false true s
/-- R265: fst.of.sp. -/
def execFstOfSp (d : Option (Fin 64)) (a b : Src) (s : State) : Host.Outcome State Fault Refusal := fabricStore d a b true true s

/-! ### ratom -/

/-- R266: a remote atomic; dst names its data register, and the count of acknowledgements lands in lat.x alone (log 27). -/
def remoteAtomic (fn : Nat) (op : HomeOp) (d : Fin 64) (a b : Src) (s : State) : Host.Outcome State Fault Refusal :=
  s.issue 5 (a.capOk && b.scalarOk) do
    s.window
    let c ← s.cap 5 0 a
    let x ← s.scalar 5 1 b
    let v ← s.dataS 5 2 d
    firstStop [c] fun c => capStop 5 c x.toInt 8 rAt
    let off := lowBits 64 ((capOffset c : Int) + x.toInt)
    firstStop [off] fun o => if o % 8 = 0 then none else some (.trap ⟨kAlignment, 0, 5, o, capObject c⟩)
    let serial := s.now.ctx.serial (s.now.mod.moduleOf (capObject c))
    let s1 := s.engineIssue 6 fn none (.ratom op c x.toInt v) [] [⟨0, capObject c, off, 8⟩] (some serial)
    let s2 := (s1.owe serial).onCtx Ctx.setEffect
    return s2.retX 2 none (BitVec.ofNat 64 s2.now.ctx.acks.length)

/-- R266: ratom.add. -/
def execRatomAdd (d : Fin 64) (a b : Src) (s : State) : Host.Outcome State Fault Refusal := remoteAtomic 0 .add d a b s
/-- R266: ratom.and. -/
def execRatomAnd (d : Fin 64) (a b : Src) (s : State) : Host.Outcome State Fault Refusal := remoteAtomic 1 .and d a b s
/-- R266: ratom.or. -/
def execRatomOr (d : Fin 64) (a b : Src) (s : State) : Host.Outcome State Fault Refusal := remoteAtomic 2 .or d a b s
/-- R266: ratom.xor. -/
def execRatomXor (d : Fin 64) (a b : Src) (s : State) : Host.Outcome State Fault Refusal := remoteAtomic 3 .xor d a b s
/-- R266: ratom.min.i64. -/
def execRatomMinI64 (d : Fin 64) (a b : Src) (s : State) : Host.Outcome State Fault Refusal := remoteAtomic 4 .minI d a b s
/-- R266: ratom.max.i64. -/
def execRatomMaxI64 (d : Fin 64) (a b : Src) (s : State) : Host.Outcome State Fault Refusal := remoteAtomic 5 .maxI d a b s
/-- R266: ratom.min.z64. -/
def execRatomMinZ64 (d : Fin 64) (a b : Src) (s : State) : Host.Outcome State Fault Refusal := remoteAtomic 6 .minZ d a b s
/-- R266: ratom.max.z64. -/
def execRatomMaxZ64 (d : Fin 64) (a b : Src) (s : State) : Host.Outcome State Fault Refusal := remoteAtomic 7 .maxZ d a b s

/-! ### ackf -/

/-- R267: the next bundle waits for every acknowledgement outstanding at issue. -/
def execAckf (s : State) : Host.Outcome State Fault Refusal :=
  s.issue 5 true (.ok (s.onCtx fun c => if c.acks = [] then c else { c with pending := c.pending ++ [Pending.acks c.acks] }))

end Sys2Proof.Machine
end

