-- ==== Sys2Proof/Machine/EngineRun.lean ====
section
/-! DEFINITION. How the engine operations of a context run (spec/09 R254 to R267, R284 to R295, spec/04 R123 to R128): element by
element in walk order, waiting on lines, queues and answers, until they complete or meet a fault (R257). -/

namespace Sys2Proof.Machine

/-- The record of Table 09-3. -/
def engRecord (o : EngOp) (parked : Bool) (f : EngFault) : BitVec 256 :=
  BitVec.ofNat 256 (f.cause + o.major * 2 ^ 8 + o.fn % 8 * 2 ^ 14 + (if f.wr then 2 ^ 17 else 0) + (if parked then 2 ^ 18 else 0) +
    o.cmd * 2 ^ 32 + joinLanes 16 f.coords * 2 ^ 64 + f.remain % 2 ^ 32 * 2 ^ 128 + f.obj % 2 ^ 24 * 2 ^ 160 + f.off % 2 ^ 64 * 2 ^ 192)

/-- An operation as it runs: the machine, the operation, and why it stopped. -/
structure Run where
  m : Mach
  o : EngOp
  stop : Option EngStop
  done : Bool

def Run.wait (r : Run) : Run := { r with stop := some .wait }
def Run.fault (r : Run) (f : EngFault) : Run := { r with stop := some (.fault f) }
def Run.finish (r : Run) : Run := { r with done := true }
/-- Stop as a read or write found, with the place of the current element. -/
def Run.halt (r : Run) (coords : List Nat) (remain : Nat) : EngStop → Run
  | .wait => r.wait
  | .fault f => r.fault { f with coords := coords, remain := remain }

/-- The partition of the launch of core c. -/
def Mach.partOf (m : Mach) (c : Nat) : Nat := (m.mod.launch ((m.coreAt c).launch.getD 0)).record.part

/-! ### Reading -/

/-- What a read of an element finds: its bytes and companion bytes, load or translation requests to send, or a stop. -/
inductive Got where
  | bytes (data comp : List Byte)
  | ask (blocks : List Nat) (packets : List Packet)
  | ats (rs : List AtsReq)
  | stop (e : EngStop)

/-- One global byte as the engine finds it; a fault carries its cause (Table 09-3). -/
def Mach.engByte (m : Mach) (o : EngOp) (obj : Nat) (e : Entry) (off : Nat) : Found :=
  match m.mod.place obj e off false with
  | .absent => .fault 1
  | .miss r => .ats r
  | .remote mo rid f =>
    if (m.mod.domainFault mo).isSome then .fault 6
    else match tfind (remoteKey mo rid f) o.rdata with
      | some b => .byte b
      | none => .fetch mo rid f
  | .phys a => if m.mod.poisoned (entDp e) a then .fault 3 else .byte (m.mod.outer (entDp e) a (m.mod.shown none a))

/-- The object-table check of an element (spec/15 R368): the fault with cause 2. -/
def Mod.engProtect (m : Mod) (cap : Cap) (d : Int) (n : Nat) (right : BitVec 6) (part : Nat) (sv : Bool) : Option EngFault :=
  let off := (capOffset cap : Int) + d
  (m.protect (capObject cap) off n right (capRights cap) part sv).map fun sub =>
    ⟨2, right ≠ rLd, [], 0, capObject cap, if sub = 3 then firstBad off (((m.entry (capObject cap)).map entLen).getD 0) else lowBits 64 off⟩

/-- n bytes of a global source. -/
def Mach.engLoad (m : Mach) (o : EngOp) (cap : Cap) (d : Int) (n part : Nat) : Got :=
  match m.mod.engProtect cap d n rLd part o.sv, m.mod.entry (capObject cap) with
  | some f, _ => .stop (.fault f)
  | none, none => .stop (.fault ⟨2, false, [], 0, capObject cap, capOffset cap⟩)
  | none, some e =>
    let off := ((capOffset cap : Int) + d).toNat
    let fs := (upTo n).map fun i => (off + i, m.engByte o (capObject cap) e (off + i))
    match fs.find? fun f => match f.2 with | .fault _ => true | _ => false with
    | some (p, .fault cause) => .stop (.fault ⟨cause, false, [], 0, capObject cap, p⟩)
    | _ =>
      let ats := fs.filterMap fun f => match f.2 with | .ats r => some r | _ => none
      let want := fs.filterMap fun f => match f.2 with | .fetch mo rid p => some (mo, rid, p) | _ => none
      if ats ≠ [] then .ats ats
      else if want = [] then .bytes (fs.map (·.2.value)) []
      else
        let keys := want.map fun w => remoteKey w.1 w.2.1 (w.2.2 / 16 * 16)
        .ask keys (m.mod.loadRequests e (want.filter fun w => !o.asked.contains (remoteKey w.1 w.2.1 (w.2.2 / 16 * 16))))

/-- The element at position t of a source. -/
def Mach.readSide (m : Mach) (draw c : Nat) (o : EngOp) (sd : Side) (w run t : Nat) : Got :=
  if shSpace sd.shape = 0 then m.engLoad o sd.cap (sgn 64 (sd.addr t)) (sd.bytes w run t) (m.partOf c)
  else
    let place := m.lplace c
    match m.engRead draw c o (spKeyOf place (sd.addr t)) (sd.bytes w run t),
        (sd.comps place (m.spBankOf c) w run t).mapM fun k => m.engRead draw c o k 1 with
    | .error e, _ => .stop e
    | _, .error e => .stop e
    | .ok data, .ok comp => .bytes data comp.flatten

/-- The scratchpad bytes that a position touches, by key. -/
def Side.keys (sd : Side) (place bank w run t : Nat) : List Nat :=
  if shSpace sd.shape = 1 then
    ((upTo (sd.bytes w run t)).map (spKeyOf place (sd.addr t) + ·)) ++ sd.comps place bank w run t
  else []

/-- Read ahead scratchpad bytes that a write is about to overlap (R254, R258): none while a line of them is empty. -/
def Mach.readAhead (m : Mach) (draw c : Nat) (o : EngOp) (keys : List Nat) : Option EngOp :=
  let fresh := keys.filter fun k => (tfind k o.buf).isNone
  if !fresh.all fun k => m.lineFull c (k / 128) then none
  else some { o with
    buf := fresh.foldl (fun t k => tset k (m.spByteAt draw c k) t) o.buf
    bufBad := o.bufBad ++ fresh.filter (m.spBadAt c) }

/-! ### Writing -/

/-- R58: a run of elements through FP32 into the destination's format. -/
def convertRun (fs fd : W32) (data comp : List Byte) : List Byte × List Byte :=
  let int := (bfTy fs).any Ty.isInt
  let xs := (decodeRun fs data comp).map fun x => decodeNum .f32 (encodeNum .f32 x .rne (bfSat fd) int)
  encodeRun fd xs (fun _ => .rne) (bfSat fd) false

/-- The first payload block of a packet that its sender identifies (log 19): serial number, core and context, kind, element. -/
def descriptorBlock (serial c x kind t : Nat) : BitVec 128 :=
  BitVec.ofNat 128 (serial / 2 ^ 13 % 2 ^ 32 + (c + x * 2 ^ 10) * 2 ^ 32 + kind * 2 ^ 48 + t % 2 ^ 32 * 2 ^ 64)

/-- Send bytes of element t to another module, identified. -/
def Mod.sendElement (m : Mod) (vc : BitVec 2) (mo : BitVec 13) (op : BitVec 5) (obj : BitVec 24) (off : Nat) (dp : Bool) (desc : BitVec 128)
    (more : List (BitVec 128)) (data : List Byte) : Mod :=
  let b := blockOf off data
  m.send { m.packet mo vc op obj (off / 16 * 16) b.2 dp (desc :: more ++ [b.1]) with fd := true }

/-- The channel of an operation's stores: the sprint lane for a store marked .sp (spec/16 Table 16-3). -/
def EngOp.lane (o : EngOp) : BitVec 2 := if o.major = 5 ∧ o.fn / 2 % 2 = 1 then 2 else 0

/-- The serial that the packets of an operation carry: its own, or the next of its context. -/
def Run.withSerial (r : Run) (c x : Nat) (mo : BitVec 13) : Run × Nat :=
  match r.o.serial with
  | some s => (r, s)
  | none =>
    let s := (r.m.ctxAt c x).serial mo
    ({ r with m := r.m.onCtx c x fun k => { k with ackNext := k.ackNext + 1 }, o := { r.o with serial := some s } }, s)

/-- A tagged element goes to its join (R270): staged here, or sent to the module of the join. -/
def Run.stage (r : Run) (c x : Nat) (cap : Cap) (d : Int) (tag : W64 × W64) (data : List Byte) (bad : Nat → EngFault) : Run :=
  let off := ((capOffset cap : Int) + d).toNat
  let h := tag.2
  if joinModule h ≠ r.m.mod.addr ∧ fld h 32 32 = 0 then
    match r.m.mod.domainFault (joinModule h) with
    | some _ => r.fault (bad 6)
    | none =>
      let e := (r.m.mod.entry (capObject cap)).getD 0
      let rid := if entType e = 3 then entRid e else BitVec.ofNat 24 (capObject cap)
      let (r1, s) := r.withSerial c x (joinModule h)
      let tagBlock := BitVec.ofNat 128 (h.toNat + tag.1.toNat * 2 ^ 64)
      let ceil := r.m.mod.arrivalCeil (c / 64) ((r.m.coreAt c).launch.getD 0)
      let more := [tagBlock, BitVec.ofNat 128 (r.m.memberOf c + x * 2 ^ 44 + ceil * 2 ^ 48)]
      { r1 with
        m := { r1.m with mod := r1.m.mod.sendElement r1.o.lane (joinModule h) opTagged rid off (entDp e) (descriptorBlock s c x 4 r.o.at') more data }
        o := { r1.o with owed := r1.o.owed + 1 } }
  else
    match r.m.mod.stageWrite h tag.1 (some (r.m.partOf c)) (some (r.m.mod.addr.toNat, r.m.memberOf c, x))
        (r.m.mod.arrivalCeil (c / 64) ((r.m.coreAt c).launch.getD 0)) (capObject cap) off data false with
    | some mo => { r with m := { r.m with mod := mo } }
    | none => r.fault (bad 4)

/-- Bytes of a global element reach the operation's published-at-completion bytes, or leave for another module (R125, R126). -/
def Run.storeGlobal (r : Run) (c x : Nat) (cap : Cap) (d : Int) (data : List Byte) (bad : Nat → EngFault) : Run :=
  match r.m.mod.entry (capObject cap) with
  | none => r.fault (bad 2)
  | some e =>
    let off := ((capOffset cap : Int) + d).toNat
    let ps := (upTo data.length).map fun i => r.m.mod.place (capObject cap) e (off + i) true
    let ats := ps.filterMap fun p => match p with | .miss q => some q | _ => none
    match ps.findIdx? (· = .absent) with
    | some i => r.fault { bad 1 with off := off + i }
    | none =>
      if ats ≠ [] then { r with m := { r.m with mod := r.m.mod.askAts ats } }.wait
      else match ps with
      | .remote mo rid f :: _ =>
        if (r.m.mod.domainFault mo).isSome then r.fault (bad 6)
        else
          let (r1, s) := r.withSerial c x mo
          let kind := if r.o.major = 5 then 0 else 2
          let gone := (upTo data.length).map fun i => remoteKey mo rid (f + i)
          let m1 := { r1.m with mod := r1.m.mod.sendElement r1.o.lane mo opStore rid f (entDp e) (descriptorBlock s c x kind r.o.at') [] data }
          { r1 with
            m := m1.onCtx c x fun k => { k with rcache := k.rcache.filter fun b => !gone.contains b.1 }
            o := { r1.o with owed := r1.o.owed + 1 } }
      | _ =>
        let cells := (ps.zip data).filterMap fun p => match p.1 with | .phys a => some (a, p.2) | _ => none
        { r with o := { r.o with gw := cells.foldl (fun t b => tset b.1 b.2 t) r.o.gw } }

/-- Bytes for a handoff queue (R260): an entry is appended when its 256 bytes are there; the engine waits while the queue is
full. -/
def queueKey : Nat := 2 ^ 40
def Run.storeQueue (r : Run) (c q : Nat) (data : List Byte) : Run :=
  let held := (r.o.buf.filter fun b => decide (queueKey ≤ b.1)).map (·.2) ++ data
  let keep := r.o.buf.filter fun b => decide (b.1 < queueKey)
  if held.length < 256 then { r with o := { r.o with buf := keep ++ cellsAt queueKey held } }
  else if 16 ≤ (vat [] (r.m.coreAt c).queues q).length then r.wait
  else
    let e : QEntry := ⟨BitVec.ofNat 2048 (leNat held), false⟩
    { r with
      m := r.m.onCore c fun k => { k with queues := vmod k.queues q (· ++ [e]) }
      o := { r.o with buf := keep } }

/-! ### Moves -/

/-- Coordinates of position t: those of the row shape of a gather or scatter, else of the side. -/
def moveCoords (src dst : Side) (wr : Bool) (t : Nat) : List Nat :=
  if src.rows.isSome then src.coords t else if dst.rows.isSome then dst.coords t else if wr then dst.coords t else src.coords t

/-- Lines that position t touches and no later one does, set as their effect says: filled destination lines, emptied source
lines of a consuming walk. -/
def Mach.moveLines (m : Mach) (c : Nat) (o : EngOp) (src dst : Side) (w run t : Nat) (cons : Bool) : Mach :=
  let place := m.lplace c
  let bank := m.spBankOf c
  let last := fun (sd : Side) (now : List Range) => (lineSet now).filter fun l =>
    !((upTo sd.positions).drop (t + 1)).any fun u => (lineSet (sd.ranges place bank w run u)).contains l
  let m1 := if cons then
      let wr := lineSet o.wr
      ((last src ((src.ranges place bank w run t).take 1)).filter fun l => !wr.contains l).foldl (fun (mm : Mach) l => mm.setLine c l false) m
    else m
  if shSpace dst.shape = 1 then (last dst (dst.ranges place bank w run t)).foldl (fun (mm : Mach) l => mm.setLine c l true) m1 else m1

/-- Later positions of a source on another module that the write of position t overlaps: they are read first (R258). -/
def Mach.overlapped (m : Mach) (src dst : Side) (w run t : Nat) : List Nat :=
  let home := fun (sd : Side) (u : Nat) => match m.mod.entry (capObject sd.cap) with
    | some e => match m.mod.place (capObject sd.cap) e (sd.offset u).toNat true with
      | .remote mo rid f => some (mo, rid, f)
      | _ => none
    | none => none
  if shSpace src.shape ≠ 0 ∨ shSpace dst.shape ≠ 0 then []
  else match home dst t with
    | none => []
    | some (mo, rid, f) => ((upTo src.positions).drop (t + 1)).filter fun u => match home src u with
      | some (mo', rid', f') => mo = mo' && rid = rid' && decide (f < f' + src.bytes w run u) && decide (f' < f + dst.bytes w run t)
      | none => false

/-- Move position `at'` (R258 to R260, R264). -/
def Run.position (r : Run) (draw c x : Nat) (src dst : Side) (w run : Nat) (cons : Bool) (tag : Option (W64 × W64)) : Run :=
  let t := r.o.at'
  let place := r.m.lplace c
  let bank := r.m.spBankOf c
  let remain := dst.positions - t
  let dkeys := dst.keys place bank w run t
  let ahead := if shSpace src.shape = 1 then
      (((upTo src.positions).drop (t + 1)).flatMap (src.keys place bank w run)).filter dkeys.contains
    else []
  let before := r.m.overlapped src dst w run t
  match r.m.readAhead draw c r.o ahead with
  | none => r.wait
  | some o1 =>
    let r1 := { r with o := o1 }
    match ((before ++ [t]).map (r.m.readSide draw c o1 src w run)).find? (fun g => match g with | .bytes .. => false | .stop _ => false | _ => true) with
    | some (.ask keys pks) =>
      { r1 with
        m := { r1.m with mod := pks.foldl Mod.send r1.m.mod }
        o := { o1 with asked := keys.foldl (fun l k => if l.contains k then l else k :: l) o1.asked } }.wait
    | some (.ats rs) => { r1 with m := { r1.m with mod := r1.m.mod.askAts rs } }.wait
    | _ =>
    match r.m.readSide draw c o1 src w run t with
    | .stop e => r1.halt (moveCoords src dst false t) remain e
    | .ask .. | .ats _ => r1.wait
    | .bytes data comp =>
      let (out, outComp) := if run = 0 then (data, []) else convertRun (src.fmts.getD t 0) (dst.fmts.getD t 0) data comp
      let d := sgn 64 (dst.addr t)
      let bad := fun cause => (⟨cause, true, moveCoords src dst true t, remain, capObject dst.cap, lowBits 64 ((capOffset dst.cap : Int) + d)⟩ : EngFault)
      let r2 := match shSpace dst.shape with
        | 0 =>
          match r.m.mod.engProtect dst.cap d out.length rSt (r.m.partOf c) r.o.sv with
          | some f => r1.fault { f with coords := (bad 2).coords, remain := remain }
          | none =>
            match tag with
            | some tg => r1.stage c x dst.cap d tg out bad
            | none => r1.storeGlobal c x dst.cap d out bad
        | 1 =>
          let m1 := r1.m.engWrite c (spKeyOf place (dst.addr t)) out
          { r1 with m := ((dst.comps place bank w run t).zip outComp).foldl (fun (mm : Mach) e => mm.engWrite c e.1 [e.2]) m1 }
        | _ => r1.storeQueue c (shBase dst.shape % 8) out
      if r2.stop.isSome then r2
      else { r2 with m := r2.m.moveLines c r2.o src dst w run t cons, o := { r2.o with at' := t + 1 } }

/-- Repeat while the operation goes on. -/
def Run.loop (f : Run → Run) : Nat → Run → Run
  | 0, r => r
  | n + 1, r => if r.stop.isSome ∨ r.done then r else Run.loop f n (f r)

/-- An untagged fabric store of a context to a module, still before its flag. -/
def EngOp.storesTo (o : EngOp) (mo : BitVec 13) : Bool :=
  match o.body with
  | .move _ _ _ _ _ (some _) _ => o.status = 0 && o.serial.any fun s => s % 2 ^ 13 = mo.toNat
  | _ => false

/-- Earlier operations of the context that have not completed: outstanding, or with a fault to be dealt with. -/
def Ctx.earlierOps (k : Ctx) (cmd : Nat) : List EngOp :=
  (k.engine ++ k.faults.filterMap (·.op) ++ k.svOp.toList).filter fun o => decide (o.cmd < cmd)

/-- A fabric store that raises a flag: one that no join stages. -/
def EngOp.raises (o : EngOp) : Bool := match o.body with | .move _ _ _ _ _ (some _) _ => true | _ => false

/-- The 512-byte lines of global objects that an operation stores to. -/
def EngOp.storeLines (o : EngOp) : List Nat :=
  (o.wr.filter (·.space = 0)).flatMap fun r => (upTo ((r.off + r.len - 1) / 512 + 1 - r.off / 512)).map fun i => cellKey r.obj (r.off / 512 + i)

/-- An earlier fabric store to one of the same lines is not yet visible: stores to one line become visible in issue order (R126). -/
def Mach.lineBefore (m : Mach) (c x : Nat) (o : EngOp) : Bool :=
  o.raises && ((m.ctxAt c x).earlierOps o.cmd).any fun e => e.raises && e.storeLines.any o.storeLines.contains

/-- The flag of a fabric store before its first element (R264): protection is cause 2, another module cause 8. -/
def Run.flagCheck (r : Run) (c : Nat) (src dst : Side) (flag : Cap × Int × Bool) : Run :=
  let coords := moveCoords src dst true 0
  match r.m.mod.engProtect flag.1 flag.2.1 8 rAt (r.m.partOf c) r.o.sv with
  | some f => r.fault { f with coords := coords, remain := dst.positions }
  | none =>
    if dst.positions ≠ 0 ∧ r.m.mod.moduleOf (capObject dst.cap) ≠ r.m.mod.moduleOf (capObject flag.1) then
      r.fault ⟨8, true, coords, dst.positions, capObject dst.cap, lowBits 64 ((capOffset dst.cap : Int) + sgn 64 (dst.addr 0))⟩
    else r

/-- Publish what the operation has written (R125); the issuing context sees its own writes. -/
def Run.publish (r : Run) (c x : Nat) : Run :=
  if r.o.gw = [] then r
  else
    let m1 := { r.m with mod := r.m.mod.flushOp r.o }
    { r with m := m1.onCtx c x fun k => k.sees m1.mod (m1.sourceAt c x) (r.o.gw.map (·.1)), o := { r.o with gw := [] } }

/-- The flag of a fabric store whose elements have all left (R126, R127). -/
def Run.raiseFlag (r : Run) (c x : Nat) (dst : Side) (flag : Cap × Int × Bool) : Run :=
  let fobj := capObject flag.1
  let off := ((capOffset flag.1 : Int) + flag.2.1).toNat
  let mo := r.m.mod.moduleOf fobj
  let earlier := (r.m.ctxAt c x).earlierOps r.o.cmd
  let bad := fun cause => (⟨cause, true, dst.coords dst.positions, 0, fobj, off⟩ : EngFault)
  if r.o.status = 2 then r.finish
  else if r.o.status = 3 then { r with o := { r.o with status := 1 } }.wait
  else if r.o.status = 1 ∨ (flag.2.2 ∧ earlier.any (·.storesTo mo)) then r.wait
  else match r.m.mod.entry fobj with
    | none => r.fault (bad 2)
    | some e =>
      match r.m.mod.place fobj e off true with
      | .absent => r.fault (bad 1)
      | .miss q => { r with m := { r.m with mod := r.m.mod.askAts [q] } }.wait
      | .phys a =>
        if r.m.mod.poisoned (entDp e) a then r.fault { bad 3 with wr := false }
        else
          let r1 := r.publish c x
          let m1 := { r1.m with mod := (r1.m.mod.homeOp none (dpOf fobj e) a 8 .add 1 0).1 }
          { r1 with m := m1.onCtx c x fun k => k.acked (r.o.serial.getD 0) }.finish
      | .remote t rid f =>
        if (r.m.mod.domainFault t).isSome then r.fault (bad 6)
        else
          let key := t.toNat * 2 ^ 13 + c + x * 2 ^ 10
          let num := tget 0 key r.m.mod.fstNext
          let info := BitVec.ofNat 128 (dst.positions % 2 ^ 32 + num % 2 ^ 32 * 2 ^ 32 + rid.toNat * 2 ^ 64 + f % 2 ^ 39 * 2 ^ 88)
          let p := { r.m.mod.packet t r.o.lane opStoreFlag rid (f / 16 * 16) 0 (entDp e) [descriptorBlock (r.o.serial.getD 0) c x 1 0, info]
            with fd := true, ofl := flag.2.2 }
          let m1 := { r.m.mod with fstNext := tput 0 key (num + 1) r.m.mod.fstNext }
          { r with m := { r.m with mod := m1.send p }, o := { r.o with status := 1 } }.wait

/-- Run a copy, gather, scatter or fabric store. -/
def Run.move (r : Run) (draw c x : Nat) (src dst : Side) (w run : Nat) (cons : Bool) (flag : Option (Cap × Int × Bool))
    (tag : Option (W64 × W64)) : Run :=
  let r0 := match flag with
    | some f => if r.o.at' = 0 ∧ r.o.status = 0 then r.flagCheck c src dst f else r
    | none => r
  let r1 := Run.loop (fun r => if r.o.at' < dst.positions then r.position draw c x src dst w run cons tag else r) dst.positions r0
  if r1.stop.isSome ∨ r1.o.at' < dst.positions then r1
  else match flag with
    | some f => r1.raiseFlag c x dst f
    | none =>
      if r1.o.owed ≠ 0 then r1.wait
      else { r1.publish c x with m := (r1.publish c x).m.onCtx c x fun k => k.acked (r1.o.serial.getD (2 ^ 64)) }.finish

/-! ### The lane packer and the fill engine -/

/-- A line of the row slice that starts at the operation's place cannot be read yet. -/
def Run.sliceWaits (r : Run) (draw c k : Nat) (moves : List (Nat × Option Nat)) : Bool :=
  ((moves.drop r.o.at').take k).any fun e => e.2.any fun l =>
    match r.m.engRead draw c r.o (l * 128) 128 with
    | .error .wait => true
    | _ => false

/-- Move one line (spec/07 R217). A row slice of k lines starts once all its lines can be read, so that a park finds it whole
(spec/14 R357). -/
def Run.line (r : Run) (draw c k : Nat) (moves : List (Nat × Option Nat)) : Run :=
  let t := r.o.at'
  if t % k = 0 ∧ r.sliceWaits draw c k moves then r.wait else
  match moves[t]? with
  | none => r.finish
  | some (dst, src) =>
    let keysOf := fun l => (upTo 128).map (l * 128 + ·)
    let ahead := if (moves.drop (t + 1)).any fun e => e.2 = some dst then keysOf dst else []
    match r.m.readAhead draw c r.o ahead with
    | none => r.wait
    | some o1 =>
      let got := match src with
        | some l => r.m.engRead draw c o1 (l * 128) 128
        | none => Except.ok (List.replicate 128 0)
      match got with
      | .error e => { r with o := o1 }.halt [t, 0, 0, 0] (moves.length - t) e
      | .ok data => { r with m := r.m.engFill c (dst * 128) data, o := { o1 with at' := t + 1 } }

/-- The entries of a map's fill-slot table move on once fillreg.w of a block has completed on every launch core of the cluster
(R288). -/
def Cluster.advance (k : Cluster) (cores : List Nat) (map block : Nat) : Cluster :=
  if !cores.all fun c => k.filled.contains (c, map, block) then k
  else
    let mine := k.fills.filter fun e => e.2.placed = some map ∧ e.2.next = block
    let k1 := { k with filled := k.filled.filter fun f => !(f.2.1 = map && f.2.2 = block) }
    mine.foldl (fun (k : Cluster) (e : Nat × FillEntry) =>
      if block = e.2.last then { k.setRow e.2.row (setFld (k.row e.2.row) 14 1 0) with fills := tdel e.1 k.fills }
      else { k with fills := tset e.1 { e.2 with next := block + 1, placed := none } k.fills }) k1

/-- Logical indices of the launch cores in the logical cluster of a launch. -/
def LaunchRec.clusterMembers (r : LaunchRec) (cl : Nat) : List Nat :=
  if r.n < 8 then upTo r.n else (upTo 8).map (8 * cl + ·)

/-- fillreg.w has completed on core c. -/
def Mach.fillDone (m : Mach) (c map block : Nat) : Mach :=
  let id := (m.coreAt c).launch.getD 0
  let cl := m.lclusterOf c
  { m with mod := m.mod.setLaunch id fun l => { l with clusters := tmod Cluster.fresh cl (fun k =>
      ({ k with filled := k.filled ++ [((m.coreAt c).lcore, map, block)] }).advance (l.record.clusterMembers cl) map block) l.clusters } }

/-- Write one item of fillreg.w (R288). -/
def Run.fillItem (r : Run) (draw c block map : Nat) (items : List FillItem) : Run :=
  let t := r.o.at'
  match items[t]? with
  | none => { r with m := r.m.fillDone c map block }.finish
  | some i =>
    let n := ((r.o.rd.head?).map (·.len)).getD 128
    let part := r.m.partOf c
    let coords := [t, 0, 0, 0]
    let remain := items.length - t
    let got : Except EngStop (List Byte × List Byte × W64) := do
      let k ← r.m.engRead draw c r.o i.key n
      let v ← r.m.engRead draw c r.o i.val n
      let h ← r.m.engRead draw c r.o i.word 8
      return (k, v, BitVec.ofNat 64 (leNat h))
    match got with
    | .error e => r.halt coords remain e
    | .ok (k, v, h) =>
      match r.m.mod.kvLive part h with
      | none => r.fault ⟨7, false, coords, remain, 0, i.word % 2 ^ 22⟩
      | some e =>
        if e.capacity ≤ i.pos then r.fault ⟨9, true, coords, remain, 0, i.key % 2 ^ 22⟩
        else match r.m.mod.ownAll (kvDie h) part (kvIndex h) [i.pos] with
          | none => r.fault ⟨5, true, coords, remain, 0, i.key % 2 ^ 22⟩
          | some m1 =>
            let w := e.width
            { r with
              m := { r.m with mod := m1.kvPut (kvDie h) part (kvIndex h) i.pos (some (k.take w, v.take w)) [] }
              o := { r.o with at' := t + 1 } }

/-! ### Remote atomics -/

/-- Run a remote atomic (R266). -/
def Run.ratom (r : Run) (c x : Nat) (op : HomeOp) (cap : Cap) (disp : Int) (v : W64) : Run :=
  let off := ((capOffset cap : Int) + disp).toNat
  let bad := fun cause => (⟨cause, true, [0, 0, 0, 0], 1, capObject cap, off⟩ : EngFault)
  if r.o.status = 2 then r.finish
  else if r.o.status = 1 then r.wait
  else match r.m.mod.engProtect cap disp 8 rAt (r.m.partOf c) r.o.sv, r.m.mod.entry (capObject cap) with
    | some f, _ => r.fault { f with coords := [0, 0, 0, 0], remain := 1 }
    | none, none => r.fault (bad 2)
    | none, some e =>
      match r.m.mod.place (capObject cap) e off true with
      | .absent => r.fault (bad 1)
      | .miss q => { r with m := { r.m with mod := r.m.mod.askAts [q] } }.wait
      | .phys a =>
        if r.m.mod.poisoned (entDp e) a then r.fault { bad 3 with wr := false }
        else
          let m1 := { r.m with mod := (r.m.mod.homeOp none (dpOf (capObject cap) e) a 8 op v.toNat 0).1 }
          { r with m := m1.onCtx c x fun k => (k.acked (r.o.serial.getD 0)).sees m1.mod (m1.sourceAt c x) ((upTo 8).map (a + ·)) }.finish
      | .remote mo rid f =>
        if (r.m.mod.domainFault mo).isSome then r.fault (bad 6)
        else
          let m1 := r.m.mod.sendElement 0 mo opAtomic rid f (entDp e) (descriptorBlock (r.o.serial.getD 0) c x 3 0)
            [atomicDescriptor op 8 false 0] (leBytes 8 v.toNat)
          let gone := (upTo 8).map fun i => remoteKey mo rid (f + i)
          { r with
            m := ({ r.m with mod := m1 } : Mach).onCtx c x fun k => { k with rcache := k.rcache.filter fun b => !gone.contains b.1 }
            o := { r.o with status := 1 } }.wait

/-! ### mapreq -/

/-- A 64-bit latch result that lands at run time: bits above it are open (spec/02 R45). -/
def latched64 (draw : Nat) (v : W64) : VecReg := (Config.undef 2048 draw 5 15 >>> 64 <<< 64) ||| v.setWidth 2048

/-- The report of a mapreq lands in lat.x of the bank that issued it unless another X result has (R295); the supervisor bank is
wherever the core has it. -/
def Mach.report (m : Mach) (draw c x : Nat) (sv : Bool) (xseq status : Nat) : Mach :=
  let put := fun (b : Bank) => if b.xSeq = xseq then b.setLat 5 (latched64 draw (BitVec.ofNat 64 (2 ^ 63 + status))) else b
  let live := fun (k : Ctx) =>
    { k with bank := put k.bank, windows := k.windows.filter fun w => !(w.reg = .lat 5 && k.bank.xSeq = xseq) }
  if !sv then m.onCtx c x fun k => if k.saved.isSome then k.onUser put else live k
  else match (m.coreAt c).svHolder with
    | some h => m.onCtx c h live
    | none => { m with mod := { m.mod with svBanks := tmod Bank.zero c put m.mod.svBanks } }

/-- Run a mapreq (R295, spec/15 R373): translations and pages of a paged host object are asked for once, and the report follows
their answers. -/
def Run.mapreq (r : Run) (draw c x : Nat) (cap : Cap) (len xseq : Nat) : Run :=
  let obj := capObject cap
  match r.m.mod.engProtect cap 0 len rLd (r.m.partOf c) r.o.sv, r.m.mod.entry obj with
  | some f, _ => r.fault { f with wr := false, coords := [0, 0, 0, 0], remain := 1 }
  | none, none => r.fault ⟨2, false, [0, 0, 0, 0], 1, obj, capOffset cap⟩
  | none, some e =>
    let report := fun status => { r with m := r.m.report draw c x r.o.sv xseq status }.finish
    let miss := r.m.mod.missPages obj (capOffset cap) len
    let absent := (r.m.mod.absentPages obj (capOffset cap) len).map fun p => p * pageStep e / 4096
    let fresh := absent.filter fun p => !r.o.asked.contains p
    if entType e ≠ 2 then report (if absent = [] then 0 else 1)
    else if miss ≠ [] then { r with m := { r.m with mod := r.m.mod.askAts miss } }.wait
    else if fresh ≠ [] ∧ (entNpr e ∨ r.m.mod.noRequests (entHp e)) then report 2
    else if fresh ≠ [] then
      { r with
        m := { r.m with mod := r.m.mod.request (fresh.map fun p => ⟨entHp e, BitVec.ofNat 24 obj, p, false, 0⟩) }
        o := { r.o with asked := r.o.asked ++ fresh } }.wait
    else if r.m.mod.pageReqs.any (fun q => q.obj.toNat = obj && r.o.asked.contains q.page) then r.wait
    else report (if r.o.status = 0 ∧ absent ≠ [] then 1 else r.o.status)

/-! ### The window -/

/-- Take what a run of one piece gives. -/
def Run.whole (r : Run) : Except EngStop Mach → Run
  | .ok m => { r with m := m }.finish
  | .error e => r.halt [0, 0, 0, 0] 1 e

/-- Run an operation as far as it goes. -/
def Run.go (r : Run) (draw c x : Nat) : Run :=
  match r.o.body with
  | .move src dst w run cons flag tag => r.move draw c x src dst w run cons flag tag
  | .smpl a b meSeq => r.whole (r.m.runSmpl draw c r.o a b meSeq)
  | .ratom op cap disp v => r.ratom c x op cap disp v
  | .mapreq cap len xseq => r.mapreq draw c x cap len xseq
  | .accept a => r.whole (r.m.runAccept draw c r.o a)
  | .lines k moves => Run.loop (fun r => r.line draw c k moves) (moves.length + 1) r
  | .fillw block map items => Run.loop (fun r => r.fillItem draw c block map items) (items.length + 1) r

/-- An operation that met a fault leaves the window with its record (R257, spec/15 R377); a consumption of poison is logged. -/
def Run.failed (r : Run) (c x : Nat) (f : EngFault) : Mach :=
  let r1 := r.publish c x
  let m1 := r1.m
  let k := m1.coreAt c
  let mod := if f.cause = 3 then
      m1.mod.logError (errorRecord 4 (c / 64) (if f.obj = 0 then 1 else 5) k.lcore 1 f.off (k.launch.getD 0).toNat)
    else m1.mod
  ({ m1 with mod := mod } : Mach).onCtx c x fun y => { y with
    engine := y.engine.filter (·.cmd ≠ r.o.cmd)
    faults := y.faults ++ [⟨kEngineFault, f.cause, engRecord r.o false f, m1.mod.tick, r.o.cmd, some { r1.o with buf := r1.o.buf.filter fun b => !r1.o.bufBad.contains b.1, bufBad := [] }, r.o.sv⟩] }

/-- One attempt of the operation with a command index: it starts once no earlier operation holds it (spec/04 R123), and nothing
it was deferred behind is left (spec/15 R379), its context's dirty bytes under its reads are published (spec/04 R124), and no earlier fabric store to one of its lines is under way
(spec/04 R126). -/
def Mach.engineTry (m : Mach) (draw c x cmd : Nat) : Mach :=
  match (m.ctxAt c x).engine.find? (·.cmd = cmd) with
  | none => m
  | some o =>
    if o.parked ∨ m.hazard c x o ∨ m.lineBefore c x o ∨ ((m.ctxAt c x).engine.any fun e => o.defer.contains e.cmd) ∨
        (m.ctxAt c x).unpub.any fun e => o.awaits.contains e.1 then m
    else
      let r := Run.go ⟨m, o, none, false⟩ draw c x
      match r.stop with
      | some (.fault f) => r.failed c x f
      | _ =>
        if r.done then r.m.onCtx c x fun k => { k with engine := k.engine.filter (·.cmd ≠ cmd) }
        else r.m.onCtx c x fun k => { k with engine := k.engine.map fun e => if e.cmd = cmd then r.o else e }

/-- Every engine operation of every context of a core is attempted, oldest first. -/
def Mach.engineCycle (m : Mach) (draw c : Nat) : Mach :=
  ((m.coreAt c).ctxs.mapIdx fun x k => (x, k.engine.map (·.cmd))).foldl (fun (mm : Mach) e =>
    e.2.foldl (fun (mm : Mach) cmd => mm.engineTry draw c e.1 cmd) mm) m

/-- The acknowledgement of an element, flag or atomic that an operation sent. -/
def Ctx.engineAck (c : Ctx) (serial : Nat) : Ctx :=
  { c with engine := c.engine.map fun o =>
      if o.serial ≠ some serial then o
      else if o.status = 1 then { o with status := 2 } else { o with owed := o.owed - 1 } }

/-- The far end refuses an element of an operation (R257); a fabric store whose flag packet has left does not send it again, unless it
was the flag that was refused. -/
def Mach.engineRefused (m : Mach) (c x serial t cause : Nat) : Mach :=
  match (m.ctxAt c x).engine.find? (·.serial = some serial) with
  | none => m
  | some o =>
    let f : EngFault := match o.body with
      | .move src dst _ _ _ _ _ =>
        ⟨cause, true, moveCoords src dst true t, dst.positions - t, capObject dst.cap, lowBits 64 ((capOffset dst.cap : Int) + sgn 64 (dst.addr t))⟩
      | .ratom _ cap disp _ => ⟨cause, true, [0, 0, 0, 0], 1, capObject cap, lowBits 64 ((capOffset cap : Int) + disp)⟩
      | _ => ⟨cause, true, [0, 0, 0, 0], 1, 0, 0⟩
    let sent := match o.body with
      | .move _ dst .. => decide (o.status = 1) && decide (t < dst.positions)
      | _ => false
    Run.failed ⟨m, { o with at' := t, status := if sent then 3 else 0, owed := 0 }, none, false⟩ c x f

end Sys2Proof.Machine
end

