-- ==== Sys2Proof/Machine/Matrix.lean ====
section
/-! DEFINITION. The M slot (spec/08): every M operation at issue, and the steps of the matrix engine (R222 to R242): multiply-accumulate,
accumulator control and readout. -/

namespace Sys2Proof.Machine

/-! ### Accumulator banks (spec/03 R91 to R95) -/

def AccBank.get (k : AccBank) (row col : Nat) : Int := (tget 0 (64 * row + col) k.elems).toInt
def AccBank.exp (k : AccBank) (row : Nat) : Int := (tget 0 row k.exps).toInt
def AccBank.setRow (k : AccBank) (row : Nat) (ns : List Int) : AccBank :=
  { k with elems := (ns.mapIdx fun c n => (c, n)).foldl (fun t e => tput 0 (64 * row + e.1) (BitVec.ofInt 40 e.2) t) k.elems }
def AccBank.setExp (k : AccBank) (row : Nat) (e : Int) : AccBank := { k with exps := tput 0 row (BitVec.ofInt 16 e) k.exps }
def AccBank.row (k : AccBank) (row : Nat) : List Int := (upTo 64).map (k.get row)

/-- Give a row what an operation computes for it, each element with whether it clamped: sticky, and the lowest row that clamped. -/
def AccBank.putRow (k : AccBank) (low : Option Nat) (row : Nat) (xs : List (Int × Bool)) : AccBank × Option Nat :=
  let clamped := xs.any (·.2)
  ({ k.setRow row (xs.map (·.1)) with sticky := k.sticky || clamped }, if clamped then low.or (some row) else low)

/-- R95 on a row. -/
def AccBank.rescale (k : AccBank) (low : Option Nat) (row : Nat) (e' : Int) : AccBank × Option Nat :=
  let r := k.putRow low row ((k.row row).map fun n => acxRescale n (k.exp row) e')
  (r.1.setExp row e', r.2)

/-- Every element of a row group becomes the NaN marker (R235). -/
def AccBank.nanRows (k : AccBank) (rows : List Nat) : AccBank := rows.foldl (fun k r => k.setRow r (List.replicate 64 acxNan)) k

/-- Rows 8g to 8g + 7. -/
def groupRows (g : Nat) : List Nat := (upTo 8).map (8 * g + ·)

/-- R231: a step adds its products to rows 8g to 8g + 7. -/
def AccBank.mulStep (k : AccBank) (low : Option Nat) (g : Nat) (a b : List (List Num)) : AccBank × Option Nat :=
  (upTo 8).foldl (fun (r : AccBank × Option Nat) i =>
    let row := 8 * g + i
    let av := a.getD i []
    r.1.putRow r.2 row ((upTo 64).map fun j => acxStep (k.get row j) (k.exp row) (List.zipWith Num.mul av (b.getD j [])))) (k, low)

/-! ### Issue -/

/-- R137: the engine can start the operation in the next cycle. -/
def State.meFree (s : State) : Except Stop Unit := waitFor (s.start.core.meq = [])

/-- The named accumulator exists (R48). -/
def State.accNeed (s : State) (acc : Fin 16) : Except Stop Unit := need (s.accOk acc.val) 4 kAbsentAcc

/-- An operation enters the engine; one with a result opens the window of lat.m (R223). -/
def State.meIssue (s : State) (acc major fn bound : Nat) (lands : Bool) (body : MeBody) : State :=
  let o : MeOp :=
    { seq := s.now.core.meSeq, ctx := s.now.xid, sv := s.sv, pc := s.src.pc, major := major, fn := fn, acc := acc, body := body, step := 0
      capt := none, due := s.tick + bound, lands := lands, before := none, clamp := none, line := none, rdata := [], asked := [], pages := [], failed := [] }
  let s1 := s.onCore fun k => { k with meq := k.meq ++ [o], meSeq := k.meSeq + 1 }
  if lands then s1.onCtx fun c => c.opened s.tick bound (.lat 4) none else s1

/-- A sampler copy of the core still reads the visible bank (R224). -/
def EngOp.readsAcc (o : EngOp) (acc : Nat) : Bool :=
  match o.body with
  | .smpl a _ _ => decide (smplJ a ≤ acc) && decide (acc < smplJ a + smplN a)
  | _ => false

/-- R224: an operation that writes a visible bank waits for the engine reads issued before it. -/
def State.visFree (s : State) (acc : Fin 16) : Except Stop Unit :=
  if s.start.whole.ctxs.any fun c => c.engine.any (·.readsAcc acc.val) then
    .error (s.engineWait 4 (s.start.ctx.engine.filter (·.readsAcc acc.val)))
  else .ok ()

/-! ### mma (R225 to R235) -/

def MmaTy.elem : MmaTy → Ty
  | .bf16 => .bf16
  | .f16 => .f16
  | .e4m3 => .e4m3
  | .e5m2 => .e5m2
  | .f4x => .e2m1

/-- Elements of a vector (Table 08-1). -/
def MmaTy.depth (t : MmaTy) : Nat := 512 / t.elem.width

/-- X major of a type. -/
def MmaTy.major : MmaTy → Nat
  | .bf16 => 1
  | .f16 => 2
  | .e4m3 => 3
  | .e5m2 => 4
  | .f4x => 5

/-- Table 08-2. -/
def MmaTy.accepts (t : MmaTy) (f : W32) : Bool :=
  match t with
  | .f4x => bfFmt f = 6
  | .bf16 => bfFmt f = 0 || bfFmt f = 2
  | .f16 => bfFmt f = 0 || bfFmt f = 3
  | .e4m3 => bfFmt f = 0 || bfFmt f = 4
  | .e5m2 => bfFmt f = 0 || bfFmt f = 5

/-- Elements of a 64-byte vector as unscaled codes. -/
def MmaTy.codes (t : MmaTy) (data : Nat) : List Num :=
  (upTo t.depth).map fun d => decodeNum t.elem (data / 2 ^ (t.elem.width * d) % 2 ^ t.elem.width)

/-- Aux words of a B shape (Table 08-3). -/
def bShapeOk (h : Shape) : Bool :=
  fld (shAux0 h) 32 32 = 0 && fld (shAux0 h) 0 32 % 64 = 0 && fld (shAux1 h) 2 2 = 0 && fld (shAux1 h) 8 24 = 0
/-- Aux words of an A shape, a query shape or a readout shape. -/
def aShapeOk (h : Shape) : Bool := fld (shAux0 h) 32 32 = 0 && fld (shAux0 h) 0 32 % 64 = 0

/-- The address of vector k of a shape (R228). -/
def vecAddrOf (h : Shape) (k : Nat) : Nat := lowBits 64 ((shapeAddr h + k * fld (shAux0 h) 0 32 : Nat) : Int)

/-- An empty walk: some extent is 0. -/
def shapeEmpty (h : Shape) : Bool := (upTo 4).any fun k => shExt h k = 0

/-- One scratchpad vector with its checks in the order of R230. -/
def State.mmaSp (s : State) (ty : MmaTy) (h : Shape) (k : Nat) (loc : Bool) : Except Stop MmaVec :=
  let a := vecAddrOf h k
  let t := s.spAddr a
  let range := s.rcd.gSp ≠ 0 && s.spOk a 64
  let f := s.formatAt a
  if (loc && t.core ≠ s.place) || (range && !ty.accepts f) then trapOf 4 kMatrix
  else if !range || a / 2 ^ 22 ≠ shBase h / 2 ^ 22 || !compOk f s.spBank t.off 64 then trapAt 4 kScratch 0 a 0
  else if a % 64 ≠ 0 then trapAt 4 kAlignment 0 a 0
  else .ok (.sp a (spKeyOf s.place a) f)

/-- One global vector (R234), and its companion bytes for .f4x. -/
def State.mmaMem (ty : MmaTy) (h : Shape) (c : Cap) (k : Nat) : Except Stop MmaVec :=
  let d := sgn 64 (vecAddrOf h k)
  let e := sgn 64 (lowBits 64 ((shapeAddr h : Int) + sgn 32 (fld (shAux1 h) 32 32) + 8 * k))
  let comp := if ty = .f4x then some e else none
  match (capStop 4 c d 64 rLd).or (comp.bind fun e => capStop 4 c e 8 rLd) with
  | some st => .error st
  | none =>
    if d % 64 ≠ 0 then trapAt 4 kAlignment 0 (lowBits 64 ((capOffset c : Int) + d)) (capObject c)
    else if comp.any fun e => e % 8 ≠ 0 then trapAt 4 kAlignment 0 (lowBits 64 ((capOffset c : Int) + e)) (capObject c)
    else .ok (.mem d comp)

/-- A 2048-bit source at step s: v registers advance by two (R230). -/
def stepSrc (x : Src) (s : Nat) : Src :=
  match x with
  | .v n => .v (Fin.ofNat 32 (n.val + 2 * s))
  | x => x

/-- The A block of step i: 8 row vectors (R227). loc: they must lie on the issuing core (R233, R234). -/
def State.mmaRows (s : State) (ty : MmaTy) (loc : Bool) (ha : Option Shape) (a b : Src) (i : Nat) : Except Stop (List MmaVec) :=
  match ha with
  | some h => (upTo 8).mapM fun k => s.mmaSp ty (shapeSteps i h) k loc
  | none => do
    let x ← s.vector 4 (16 + 2 * i) .bf16 (stepSrc a i)
    let y ← s.vector 4 (17 + 2 * i) .bf16 (stepSrc b i)
    return (upTo 8).map fun r => MmaVec.reg ((if r < 4 then x else y).extractLsb' (512 * (r % 4)) 512)

/-- A .rop vector reads in the sector of a byte (R234). -/
def MmaVec.touches (c : Cap) (obj off : Nat) : MmaVec → Bool
  | .mem d comp =>
    let hit := fun (d : Int) (n : Nat) => (⟨0, capObject c, ((capOffset c : Int) + d).toNat, n⟩ : Range).touches obj (off / 128 * 128) 128
    hit d 64 || comp.any fun e => hit e 8
  | _ => false

/-- The operand vectors of every step, with the checks of R230 in their order. form: 0 local, 1 multicast, 2 remote operand. -/
def State.mmaSteps (s : State) (ty : MmaTy) (form : Nat) (hb : Shape) (ha : Option Shape) (cap : Cap) (a b : Src) (n : Nat) :
    Except Stop (List (List MmaVec × List MmaVec)) :=
  (upTo n).mapM fun i => do
    let av ← s.mmaRows ty (form ≠ 1) ha a b i
    let h := shapeSteps i hb
    let bv ← (upTo 64).mapM fun k => if form = 2 then State.mmaMem ty h cap k else s.mmaSp ty h k (form = 0)
    return (av, bv)

/-- Lines of the own bank that the first step reads, which hold the bundle while they are empty (R232). -/
def State.mmaNear (s : State) (steps : List (List MmaVec × List MmaVec)) : List Nat :=
  (steps.head?.map fun p => (p.1 ++ p.2).flatMap fun v => match v with
    | .sp _ key f => if key / 2 ^ 22 = s.place then
        linesOf (key % 2 ^ 22) 64 ++ linesAt (compOffsets f s.spBank (key % 2 ^ 22) 64) else []
    | _ => []).getD []

/-- The bound of an mma of n steps (spec/05 R146). -/
def mmaBound (form n : Nat) : Nat := (match form with | 0 => 8 | 1 => 12 | _ => 48) + (n - 1)

/-- R230: an mma. An empty walk drops the steps, not the checks. -/
def mmaIssue (ty : MmaTy) (form : Nat) (acc sh : Fin 16) (a b : Src) (s : State) : Host.Outcome State Fault Refusal :=
  s.issue 4 (mmaOk sh a b (ty = .f4x)) do
    s.meFree
    s.accNeed acc
    let hb ← s.shape 4 0 (.sh sh)
    let ha ← match a with
      | .sh _ => some <$> s.shape 4 1 a
      | _ => Except.ok none
    need (shapeOk hb && ha.all shapeOk && bShapeOk hb && ha.all aShapeOk) 4 kShape
    let n := max 1 s.iss.rep
    let put := fun (steps : List (List MmaVec × List MmaVec)) (cap : Cap) (h : Shape) (t : State) =>
      t.meIssue acc.val ty.major form (mmaBound form n) true (.mma ty (fld (shAux1 hb) 0 2) cap steps (s.latched 4 512 (h.setWidth 2048)))
    need ((if form = 2 then shSpace hb = 0 else shSpace hb = 1) && ha.all fun h => shSpace h = 1) 4 kMatrix
    let cap ← if form = 2 then s.capReg 4 2 (fld (shAux1 hb) 4 4) else Except.ok 0
    let steps ← s.mmaSteps ty form hb ha cap a b n
    if shapeEmpty hb || ha.any shapeEmpty then return put [] 0 hb s
    else
      s.lineWait 4 (s.mmaNear steps)
      let mine := fun k => steps.any fun p => p.2.any fun v => v.touches cap (k / 2 ^ 64) (k % 2 ^ 64)
      let s1 := { s with now := s.now.publishBytes (some .mod) mine }
      let s2 := put steps cap (shapeSteps n hb) s1
      return s2.onCtx fun c =>
        let c1 := c.put s.tick (mmaBound form n) (.sh sh) ((shapeSteps n hb).setWidth 2048)
        match a, ha with
        | .sh k, some h => c1.put s.tick (mmaBound form n) (.sh k) ((shapeSteps n h).setWidth 2048)
        | _, _ => c1

/-- R229: mma.bf16. -/
def execMmaBf16 (acc sh : Fin 16) (a b : Src) (s : State) : Host.Outcome State Fault Refusal := mmaIssue .bf16 0 acc sh a b s
/-- R229: mma.bf16.mc. -/
def execMmaBf16Mc (acc sh : Fin 16) (a b : Src) (s : State) : Host.Outcome State Fault Refusal := mmaIssue .bf16 1 acc sh a b s
/-- R229: mma.bf16.rop. -/
def execMmaBf16Rop (acc sh : Fin 16) (a b : Src) (s : State) : Host.Outcome State Fault Refusal := mmaIssue .bf16 2 acc sh a b s
/-- R229: mma.f16. -/
def execMmaF16 (acc sh : Fin 16) (a b : Src) (s : State) : Host.Outcome State Fault Refusal := mmaIssue .f16 0 acc sh a b s
/-- R229: mma.f16.mc. -/
def execMmaF16Mc (acc sh : Fin 16) (a b : Src) (s : State) : Host.Outcome State Fault Refusal := mmaIssue .f16 1 acc sh a b s
/-- R229: mma.f16.rop. -/
def execMmaF16Rop (acc sh : Fin 16) (a b : Src) (s : State) : Host.Outcome State Fault Refusal := mmaIssue .f16 2 acc sh a b s
/-- R229: mma.e4m3. -/
def execMmaE4m3 (acc sh : Fin 16) (a b : Src) (s : State) : Host.Outcome State Fault Refusal := mmaIssue .e4m3 0 acc sh a b s
/-- R229: mma.e4m3.mc. -/
def execMmaE4m3Mc (acc sh : Fin 16) (a b : Src) (s : State) : Host.Outcome State Fault Refusal := mmaIssue .e4m3 1 acc sh a b s
/-- R229: mma.e4m3.rop. -/
def execMmaE4m3Rop (acc sh : Fin 16) (a b : Src) (s : State) : Host.Outcome State Fault Refusal := mmaIssue .e4m3 2 acc sh a b s
/-- R229: mma.e5m2. -/
def execMmaE5m2 (acc sh : Fin 16) (a b : Src) (s : State) : Host.Outcome State Fault Refusal := mmaIssue .e5m2 0 acc sh a b s
/-- R229: mma.e5m2.mc. -/
def execMmaE5m2Mc (acc sh : Fin 16) (a b : Src) (s : State) : Host.Outcome State Fault Refusal := mmaIssue .e5m2 1 acc sh a b s
/-- R229: mma.e5m2.rop. -/
def execMmaE5m2Rop (acc sh : Fin 16) (a b : Src) (s : State) : Host.Outcome State Fault Refusal := mmaIssue .e5m2 2 acc sh a b s
/-- R229: mma.f4x. -/
def execMmaF4x (acc sh : Fin 16) (a b : Src) (s : State) : Host.Outcome State Fault Refusal := mmaIssue .f4x 0 acc sh a b s
/-- R229: mma.f4x.mc. -/
def execMmaF4xMc (acc sh : Fin 16) (a b : Src) (s : State) : Host.Outcome State Fault Refusal := mmaIssue .f4x 1 acc sh a b s
/-- R229: mma.f4x.rop. -/
def execMmaF4xRop (acc sh : Fin 16) (a b : Src) (s : State) : Host.Outcome State Fault Refusal := mmaIssue .f4x 2 acc sh a b s

/-! ### Accumulator control at issue (R236 to R242) -/

/-- R237. -/
def azeroIssue (vis work : Bool) (fn : Nat) (acc : Fin 16) (a : Src) (s : State) : Host.Outcome State Fault Refusal :=
  s.issue 4 a.scalarOk do
    s.meFree
    let x ← s.scalar 4 0 a
    s.accNeed acc
    if vis then s.visFree acc
    return s.meIssue acc.val 8 fn 2 false (.azero vis work (x.extractLsb' 0 16))

/-- R237: azero. -/
def execAzero (acc : Fin 16) (a : Src) (s : State) : Host.Outcome State Fault Refusal := azeroIssue false true 0 acc a s
/-- R237: azero.v. -/
def execAzeroV (acc : Fin 16) (a : Src) (s : State) : Host.Outcome State Fault Refusal := azeroIssue true false 1 acc a s
/-- R237: azero.b. -/
def execAzeroB (acc : Fin 16) (a : Src) (s : State) : Host.Outcome State Fault Refusal := azeroIssue true true 2 acc a s

/-- R238. -/
def asetxIssue (vis zero : Bool) (acc : Fin 16) (a b : Src) (s : State) : Host.Outcome State Fault Refusal :=
  s.issue 4 (a.scalarOk && b.scalarOk) do
    s.meFree
    let x ← s.scalar 4 0 a
    let y ← s.scalar 4 1 b
    s.accNeed acc
    if vis then s.visFree acc
    return s.meIssue acc.val 9 ((if vis then 1 else 0) + if zero then 2 else 0) 6 false
      (.asetx vis zero (x.extractLsb' 0 16) (y.extractLsb' 0 32))

/-- R238: asetx. -/
def execAsetx (acc : Fin 16) (a b : Src) (s : State) : Host.Outcome State Fault Refusal := asetxIssue false false acc a b s
/-- R238: asetx.v. -/
def execAsetxV (acc : Fin 16) (a b : Src) (s : State) : Host.Outcome State Fault Refusal := asetxIssue true false acc a b s
/-- R238: asetx.z. -/
def execAsetxZ (acc : Fin 16) (a b : Src) (s : State) : Host.Outcome State Fault Refusal := asetxIssue false true acc a b s
/-- R238: asetx.z.v. -/
def execAsetxZV (acc : Fin 16) (a b : Src) (s : State) : Host.Outcome State Fault Refusal := asetxIssue true true acc a b s

/-- R239. -/
def anormIssue (vis : Bool) (acc : Fin 16) (a b : Src) (s : State) : Host.Outcome State Fault Refusal :=
  s.issue 4 (a.scalarOk && b.scalarOk) do
    s.meFree
    let x ← s.scalar 4 0 a
    let y ← s.scalar 4 1 b
    s.accNeed acc
    if vis then s.visFree acc
    return s.meIssue acc.val 10 (if vis then 1 else 0) 8 true (.anorm vis (min x.toNat 38) (y.extractLsb' 0 32))

/-- R239: anorm. -/
def execAnorm (acc : Fin 16) (a b : Src) (s : State) : Host.Outcome State Fault Refusal := anormIssue false acc a b s
/-- R239: anorm.v. -/
def execAnormV (acc : Fin 16) (a b : Src) (s : State) : Host.Outcome State Fault Refusal := anormIssue true acc a b s

/-- R240: aswap. -/
def execAswap (acc : Fin 16) (s : State) : Host.Outcome State Fault Refusal :=
  s.issue 4 true do
    s.meFree
    s.accNeed acc
    s.visFree acc
    return s.meIssue acc.val 11 0 4 false .aswap

/-- R241: ardout. -/
def execArdout (acc : Fin 16) (a : Src) (b : BitVec 8) (s : State) : Host.Outcome State Fault Refusal :=
  s.issue 4 (a.scalarOk && modeReadoutOk b) do
    s.meFree
    let x ← s.scalar 4 0 a
    s.accNeed acc
    let rows := 2048 / (64 * (modeTy b).width)
    need (decide (x.toNat < 32) && x.toNat % rows = 0) 4 kMatrix
    let rc ← if (modeRound b).toNat = 4 then s.rndCtx 4 else Except.ok ⟨0, 0, 0, 0, 0⟩
    return s.meIssue acc.val 12 0 16 true (.ardout x.toNat b (BitVec.ofNat 64 rc.key) (BitVec.ofNat 64 rc.stream))

/-- R242: ardout.s and ardout.sf. -/
def ardoutTo (fill : Bool) (acc sh : Fin 16) (a : Src) (b : BitVec 8) (s : State) : Host.Outcome State Fault Refusal :=
  s.issue 4 (a.scalarOk && modeStoreOk b) do
    s.meFree
    let x ← s.scalar 4 0 a
    s.accNeed acc
    let h ← s.shape 4 1 (.sh sh)
    need (shapeOk h && fld (shAux0 h) 32 32 = 0) 4 kShape
    need ([0, 8, 16, 24].contains x.toNat && shSpace h = 1) 4 kMatrix
    let rc ← if (modeRound b).toNat = 4 then s.rndCtx 4 else Except.ok ⟨0, 0, 0, 0, 0⟩
    let addr := (upTo 8).map (vecAddrOf h)
    let bytes := fun a => 64 * bfBits (s.formatAt a) / 8
    firstStop addr fun a =>
      if s.rcd.gSp ≠ 0 ∧ s.spOk a 0 ∧ bfFmt (s.formatAt a) = 0 then some (Stop.trap ⟨kMatrix, 0, 4, 0, 0⟩) else none
    firstStop addr fun a =>
      if s.rcd.gSp ≠ 0 && s.spOk a (bytes a) && compOk (s.formatAt a) s.spBank (a % 2 ^ 22) (bytes a) then none
      else some (Stop.trap ⟨kScratch, 0, 4, a, 0⟩)
    firstStop addr fun a => if a % min (bytes a) 128 = 0 then none else some (Stop.trap ⟨kAlignment, 0, 4, a, 0⟩)
    return s.meIssue acc.val 12 (if fill then 2 else 1) 16 false
      (.ardoutS fill x.toNat b (addr.map fun a => (spKeyOf s.place a, s.formatAt a)) (BitVec.ofNat 64 rc.key) (BitVec.ofNat 64 rc.stream))

/-- R242: ardout.s. -/
def execArdoutS (acc sh : Fin 16) (a : Src) (b : BitVec 8) (s : State) : Host.Outcome State Fault Refusal := ardoutTo false acc sh a b s
/-- R242: ardout.sf. -/
def execArdoutSf (acc sh : Fin 16) (a : Src) (b : BitVec 8) (s : State) : Host.Outcome State Fault Refusal := ardoutTo true acc sh a b s

/-! ### The engine -/

/-- A result of an M operation lands in lat.m of its context (R223). -/
def Mach.landM (m : Mach) (c x : Nat) (sv : Bool) (v : VecReg) : Mach :=
  m.onCtx c x fun k =>
    if sv = k.saved.isSome then { k with bank := k.bank.setLat 4 v, poison := k.poison.filter (· ≠ WReg.lat 4) }
    else if sv then k else k.onUser fun b => b.setLat 4 v

/-- The first operation of the engine of core c is replaced, or leaves. -/
def Mach.setHead (m : Mach) (c : Nat) (o : Option MeOp) : Mach :=
  m.onCore c fun k => { k with meq := o.toList ++ k.meq.drop 1 }

/-- R94: an accumulator-overflow fault when the issuing context has set ovtrap (Table 15-5). DESIGN CHOICE, log 30: an operation
issued from the supervisor bank is judged by the ovtrap of the user bank too. -/
def Mach.overflow (m : Mach) (c : Nat) (o : MeOp) (low : Option Nat) (vis : Bool) : Mach :=
  match low with
  | none => m
  | some row =>
    let rec' := BitVec.ofNat 256 (o.acc + row * 2 ^ 8 + (if vis then 2 ^ 13 else 0) + o.pc.toNat * 2 ^ 64)
    m.onCtx c o.ctx fun k =>
      if k.user.flag statusOvtrap then { k with faults := k.faults ++ [⟨kOverflow, 0, rec', m.mod.tick, 0, none, o.sv⟩] } else k

/-- The operation at the head completes; its result, if any, lands. -/
def Mach.meDone (m : Mach) (c : Nat) (o : MeOp) (lat : Option VecReg) (low : Option Nat) (vis : Bool) : Mach :=
  let m1 := (m.setHead c none).overflow c o low vis
  match lat with
  | some v => m1.landM c o.ctx o.sv v
  | none => m1

/-- A matrix fault of the operation at the head, which leaves the engine (R235, Table 15-5); a consumption of poison is logged. -/
def Mach.meFault (m : Mach) (c : Nat) (o : MeOp) (kind cause obj off : Nat) : Mach :=
  let rec' := if kind = kDomain then trapRecord ⟨kDomain, cause, 4, off, obj⟩ o.pc.toNat
    else BitVec.ofNat 256 (cause + o.major * 2 ^ 8 + o.fn % 4 * 2 ^ 14 + o.pc.toNat * 2 ^ 64 + obj % 2 ^ 24 * 2 ^ 128 + off % 2 ^ 64 * 2 ^ 192)
  let k := m.coreAt c
  let m1 : Mach := if kind = kMatrixFault ∧ cause = 2 then
      { m with mod := m.mod.logError (errorRecord 4 (c / 64) (if obj = 0 then 1 else 5) k.lcore 1 off (k.launch.getD 0).toNat) }
    else m
  (m1.setHead c none).onCtx c o.ctx fun k => { k with faults := k.faults ++ [⟨kind, cause, rec', m.mod.tick, 0, none, o.sv⟩] }

/-- Update the accumulator pair of an operation. -/
def Mach.onAcc (m : Mach) (c acc : Nat) (f : AccPair → AccPair) : Mach :=
  m.onCore c fun k => { k with accs := tmod AccPair.zero acc f k.accs }
def AccPair.bank (p : AccPair) (vis : Bool) : AccBank := if vis then p.vis else p.work
def AccPair.setBank (p : AccPair) (vis : Bool) (k : AccBank) : AccPair := if vis then { p with vis := k } else { p with work := k }

/-- What a step's read of an operand finds: its elements, load, page and translation requests to send, or a fault. -/
inductive MeGot where
  | elems (xs : List Num)
  | ask (keys : List Nat) (packets : List Packet) (pages : List PageReq) (ats : List AtsReq)
  | wait
  | fault (kind cause obj off : Nat)

/-- The operation as a reader of global memory. -/
def MeOp.reader (o : MeOp) : EngOp :=
  { EngOp.new 0 0 0 none (.accept 0) [] [] [] none o.sv 0 o.ctx [] with rdata := o.rdata, asked := o.asked }

/-- Waiting reads of scratchpad bytes by key: none while a line is empty; with them the first that is poisoned (R232). -/
def Mach.meRead (m : Mach) (draw c : Nat) (keys : List Nat) : Option (List Byte × Option Nat) :=
  if !keys.all fun k => m.lineFull c (k / 128) then none
  else some (keys.map (m.spByteAt draw c), keys.find? (m.spBadAt c))

/-- The scratchpad address of a byte, by key, of an operand that was addressed by `addr` (Table 02-5). -/
def spAddrLike (addr key : Nat) : Nat := addr / 2 ^ 22 * 2 ^ 22 + key % 2 ^ 22

/-- n global bytes of a .rop read (R234, R235, spec/15 R373). -/
def Mach.ropLoad (m : Mach) (c : Nat) (o : MeOp) (cap : Cap) (d : Int) (n : Nat) : Except MeGot (List Byte) :=
  match m.engLoad o.reader cap d n (m.partOf c) with
  | .bytes data _ => .ok data
  | .ask keys pks => .error (.ask keys pks [] [])
  | .ats rs => .error (.ask [] [] [] rs)
  | .stop .wait => .error .wait
  | .stop (.fault f) =>
    match f.cause with
    | 2 => .error (.fault kMatrixFault 1 f.obj f.off)
    | 3 => .error (.fault kMatrixFault 2 f.obj f.off)
    | 1 =>
      match m.mod.entry f.obj with
      | some e =>
        if entType e = 2 ∧ !entNpr e ∧ !m.mod.noRequests (entHp e) ∧ !o.failed.contains (f.obj, pageOf f.off) then
          .error (.ask [] [] [⟨entHp e, BitVec.ofNat 24 f.obj, pageOf f.off, false, 0⟩] [])
        else .error (.fault kMatrixFault 3 f.obj f.off)
      | none => .error (.fault kMatrixFault 1 f.obj f.off)
    | _ =>
      let sub := (m.mod.domainFault (m.mod.moduleOf f.obj)).getD 3
      .error (.fault kDomain sub f.obj f.off)

/-- The elements of one operand vector. -/
def Mach.mmaRead (m : Mach) (draw c : Nat) (o : MeOp) (ty : MmaTy) (cap : Cap) (v : MmaVec) : MeGot :=
  match v with
  | .reg d => .elems (ty.codes d.toNat)
  | .sp addr key f =>
    let place := key / 2 ^ 22 * 2 ^ 22
    let comps := (compOffsets f (m.spBankOf c) (key % 2 ^ 22) 64).map (place + ·)
    match m.meRead draw c ((upTo 64).map (key + ·)), m.meRead draw c comps with
    | some (data, p), some (comp, q) =>
      match p.or q with
      | some k => .fault kMatrixFault 2 0 (spAddrLike addr k)
      | none =>
        if bfBlock f = 0 then .elems (ty.codes (leNat data)) else .elems (decodeRun f data comp)
    | _, _ => .wait
  | .mem d comp =>
    match m.ropLoad c o cap d 64, (match comp with | some e => m.ropLoad c o cap e 8 | none => Except.ok []) with
    | .error g, _ => g
    | _, .error g => g
    | .ok data, .ok cs =>
      if ty = .f4x then .elems ((upTo 128).map fun i =>
        decodeF4X (cs.getD (2 * (i / 32)) 0).toNat (cs.getD (2 * (i / 32) + 1) 0).toNat (leNat data / 2 ^ (4 * i) % 16))
      else .elems (ty.codes (leNat data))

/-- Two requests in one. -/
def MeGot.also (a b : MeGot) : MeGot :=
  match a, b with
  | .ask k p g r, .ask k' p' g' r' => .ask (k ++ k') (p ++ p') (g ++ g') (r ++ r')
  | a, _ => a

/-- Read a list of operand vectors: the first that is not there decides; the requests of the others go with its own (R373). -/
def Mach.mmaReadAll (m : Mach) (draw c : Nat) (o : MeOp) (ty : MmaTy) (cap : Cap) (vs : List MmaVec) : Except MeGot (List (List Num)) :=
  vs.foldr (fun v r => match m.mmaRead draw c o ty cap v, r with
    | .elems xs, .ok t => .ok (xs :: t)
    | .elems _, .error g => .error g
    | g, .ok _ => .error g
    | g, .error g' => .error (g.also g')) (.ok [])

/-- One step of an mma (R231, R232, R235). -/
def Mach.mmaStep (m : Mach) (draw c : Nat) (o : MeOp) (ty : MmaTy) (g : Nat) (cap : Cap) (steps : List (List MmaVec × List MmaVec))
    (lat : VecReg) : Mach :=
  match steps[o.step]? with
  | none => m.meDone c o (some lat) o.clamp false
  | some (av, bv) =>
    let pair := (m.coreAt c).acc o.acc
    match m.mmaReadAll draw c o ty cap (av ++ bv) with
    | .ok xs =>
      let r := pair.work.mulStep o.clamp g (xs.take av.length) (xs.drop av.length)
      let m1 := m.onAcc c o.acc fun p => { p with work := r.1 }
      let o1 := { o with step := o.step + 1, clamp := r.2, before := o.before.or (some pair.work) }
      if o1.step = steps.length then m1.meDone c o1 (some lat) r.2 false else m1.setHead c (some o1)
    | .error (.ask keys pks pages ats) =>
      let m1 : Mach := { m with mod := ((pks.eraseDups.foldl Mod.send m.mod).request pages).askAts ats }
      m1.setHead c (some { o with
        asked := keys.foldl (fun l k => if l.contains k then l else k :: l) o.asked
        pages := pages.foldl (fun l r => if l.contains (r.obj.toNat, r.page) then l else (r.obj.toNat, r.page) :: l) o.pages })
    | .error (.fault kind cause obj off) =>
      let m1 := m.meFault c o kind cause obj off
      let m2 := if kind = kMatrixFault ∧ (cause = 1 ∨ cause = 2) then
          (m1.onAcc c o.acc fun p => { p with work := p.work.nanRows (groupRows g) }).overflow c o o.clamp false
        else m1.onAcc c o.acc fun p => { p with work := o.before.getD p.work }
      m2.landM c o.ctx o.sv lat
    | .error _ => m

/-- R242: row k of a readout reaches the scratchpad. -/
def Mach.readoutRow (m : Mach) (c : Nat) (xs : List Num) (rnd : Nat → Rnd) (sat : Bool) (row : Nat × W32) : Mach :=
  let (data, comp) := encodeRun row.2 xs rnd (sat || bfSat row.2) false
  let place := row.1 / 2 ^ 22 * 2 ^ 22
  let offs := (compOffsets row.2 (m.spBankOf c) (row.1 % 2 ^ 22) data.length).map (place + ·)
  (offs.zip comp).foldl (fun (mm : Mach) e => mm.engWrite c e.1 [e.2]) (m.engWrite c row.1 data)

/-- Values of a row of a bank (R96). -/
def AccBank.nums (k : AccBank) (row : Nat) : List Num := (upTo 64).map (k.num row)

/-- The accumulator-control operations and readouts run as one step (R237 to R242). -/
def Mach.accStep (m : Mach) (c : Nat) (o : MeOp) : Mach :=
  let k := m.coreAt c
  let pair := k.acc o.acc
  let masked := fun (mask : W32) => (upTo 32).filter fun r => mask.getLsbD r
  match o.body with
  | .azero vis work e =>
    let z : AccBank := ⟨[], (upTo 32).foldl (fun t r => tput 0 r e t) [], false⟩
    (m.onAcc c o.acc fun p => ⟨if vis then z else p.vis, if work then z else p.work⟩).meDone c o none none false
  | .asetx vis zero e mask =>
    let r := (masked mask).foldl (fun (r : AccBank × Option Nat) i =>
      if zero then ((r.1.setRow i (List.replicate 64 0)).setExp i e.toInt, r.2) else r.1.rescale r.2 i e.toInt) (pair.bank vis, none)
    (m.onAcc c o.acc fun p => p.setBank vis r.1).meDone c o none r.2 vis
  | .anorm vis h mask =>
    let r := (masked mask).foldl (fun (r : AccBank × Option Nat) i =>
      let big := ((r.1.row i).filter (· ≠ acxNan)).foldl (fun b n => max b n.natAbs) 0
      if big = 0 then r
      else r.1.rescale r.2 i (clampInt (r.1.exp i + (bitLen big : Int) - (39 - h : Int)) (-32768) 32767)) (pair.bank vis, none)
    (m.onAcc c o.acc fun p => p.setBank vis r.1).meDone c o
      (some (ofLanes 16 ((upTo 32).map fun i => lowBits 16 (r.1.exp i)))) r.2 vis
  | .aswap => (m.onAcc c o.acc fun p => ⟨p.work, p.vis⟩).meDone c o none none false
  | .ardout r0 mode key stream =>
    let t := modeTy mode
    let rnd := rndOf ⟨key.toNat, stream.toNat, 4, o.ctx, k.lcore⟩ (modeRound mode).toNat
    let xs := (upTo (2048 / (64 * t.width))).flatMap fun i => pair.vis.nums (r0 + i)
    m.meDone c o (some (ofLanes t.width (xs.mapIdx fun i x => encodeNum t x (rnd i) (modeSat mode)))) none false
  | .ardoutS fill r0 mode rows key stream =>
    let rnd := fun j i => rndOf ⟨key.toNat, stream.toNat, 4, o.ctx, k.lcore⟩ (modeRound mode).toNat (64 * j + i)
    let m1 := (rows.mapIdx fun j r => (j, r)).foldl (fun (mm : Mach) e =>
      mm.readoutRow c (pair.vis.nums (r0 + e.1)) (rnd e.1) (modeSat mode) e.2) m
    let lines := if fill then lineSet (rows.map fun r => ⟨1, r.1 / 2 ^ 22, r.1 % 2 ^ 22, 64 * bfBits r.2 / 8⟩) else []
    (lines.foldl (fun (mm : Mach) l => mm.setLine c l true) m1).meDone c o none none false
  | _ => m

end Sys2Proof.Machine
end

