-- ==== Sys2Proof/Machine/Attention.lean ====
section
/-! DEFINITION. The attention instructions (spec/08 R243 to R253): score, value, merge, mask load and key-value append, at issue and as
the one step each of them runs as; and the engine's cycle. -/

namespace Sys2Proof.Machine

/-! ### Issue -/

/-- A scratchpad operand of an attention form: range, then alignment (R52). -/
def State.attRange (s : State) (a n : Nat) : Except Stop Unit := do
  firstStop [a] fun a => if s.rcd.gSp ≠ 0 && s.spOk a n then none else some (Stop.trap ⟨kScratch, 0, 4, a, 0⟩)
  firstStop [a] fun a => if a % min n 128 = 0 then none else some (Stop.trap ⟨kAlignment, 0, 4, a, 0⟩)

/-- Rows of BF16 elements in raw or BF16 banks: format, range, alignment. -/
def State.bf16Rows (s : State) (rows : List Nat) (n : Nat) (keep : Nat → Bool) : Except Stop Unit := do
  firstStop rows fun a =>
    if s.rcd.gSp ≠ 0 ∧ s.spOk a 0 ∧ bfFmt (s.formatAt a) ≠ 0 ∧ bfFmt (s.formatAt a) ≠ 2 then some (Stop.trap ⟨kMatrix, 0, 4, 0, 0⟩) else none
  firstStop rows fun a => if s.rcd.gSp ≠ 0 && s.spOk a n && keep a then none else some (Stop.trap ⟨kScratch, 0, 4, a, 0⟩)
  firstStop rows fun a => if a % min n 128 = 0 then none else some (Stop.trap ⟨kAlignment, 0, 4, a, 0⟩)

/-- R248 at issue. DESIGN CHOICE, log 69: query rows and the state line may lie on any launch core of the cluster (R51, R52). -/
def scoreIssue (gm : Bool) (acc sh : Fin 16) (a b : Src) (s : State) : Host.Outcome State Fault Refusal :=
  s.issue 4 (a.scalarOk && b.scalarOk && s.att) do
    s.meFree
    let x ← s.scalar 4 0 a
    let y ← s.scalar 4 1 b
    s.accNeed acc
    let h ← s.shape 4 2 (.sh sh)
    need (shapeOk h && aShapeOk h) 4 kShape
    need (x.toNat % 64 = 0 && shSpace h = 1) 4 kMatrix
    let rows := (upTo 8).map (vecAddrOf h)
    s.bf16Rows rows 128 fun r => r / 2 ^ 22 = shBase h / 2 ^ 22
    s.attRange y.toNat 128
    return s.meIssue acc.val 0x10 (if gm then 1 else 0) 32 false (.ascore gm rows x.toNat y.toNat)

/-- R248: ascore, in wait mode. -/
def execAscore (acc sh : Fin 16) (a b : Src) (s : State) : Host.Outcome State Fault Refusal := scoreIssue false acc sh a b s
/-- R248: ascore.gm, in gap-mask mode. -/
def execAscoreGm (acc sh : Fin 16) (a b : Src) (s : State) : Host.Outcome State Fault Refusal := scoreIssue true acc sh a b s

/-- R249 at issue. -/
def valueIssue (hi : Bool) (acc : Fin 16) (a b : Src) (s : State) : Host.Outcome State Fault Refusal :=
  s.issue 4 (a.scalarOk && b.scalarOk && s.att) do
    s.meFree
    let x ← s.scalar 4 0 a
    let y ← s.scalar 4 1 b
    s.accNeed acc
    need (x.toNat % 64 = 0) 4 kMatrix
    s.attRange y.toNat 128
    return s.meIssue acc.val 0x11 (if hi then 1 else 0) 32 false (.avalue hi x.toNat y.toNat)

/-- R249: avalue. -/
def execAvalue (acc : Fin 16) (a b : Src) (s : State) : Host.Outcome State Fault Refusal := valueIssue false acc a b s
/-- R249: avalue.hi. -/
def execAvalueHi (acc : Fin 16) (a b : Src) (s : State) : Host.Outcome State Fault Refusal := valueIssue true acc a b s

/-- R251 at issue. -/
def mergeIssue (fn : Nat) (acc : Fin 16) (a b : Src) (s : State) : Host.Outcome State Fault Refusal :=
  s.issue 4 (a.scalarOk && b.scalarOk && s.att) do
    s.meFree
    let x ← s.scalar 4 0 a
    let y ← s.scalar 4 1 b
    s.accNeed acc
    s.attRange x.toNat 3072
    s.attRange y.toNat 128
    return s.meIssue acc.val 0x12 fn 12 false (.smerge fn x.toNat y.toNat)

/-- R251: smerge. -/
def execSmerge (acc : Fin 16) (a b : Src) (s : State) : Host.Outcome State Fault Refusal := mergeIssue 0 acc a b s
/-- R251: smerge.x. -/
def execSmergeX (acc : Fin 16) (a b : Src) (s : State) : Host.Outcome State Fault Refusal := mergeIssue 1 acc a b s
/-- R251: smerge.i. -/
def execSmergeI (acc : Fin 16) (a b : Src) (s : State) : Host.Outcome State Fault Refusal := mergeIssue 2 acc a b s

/-- R247: mskld. -/
def execMskld (a b : Src) (s : State) : Host.Outcome State Fault Refusal :=
  s.issue 4 (a.scalarOk && b.scalarOk && s.att) do
    s.meFree
    let x ← s.scalar 4 0 a
    let y ← s.scalar 4 1 b
    need (decide (y.toNat ≤ 3)) 4 kMatrix
    s.attRange x.toNat 64
    return s.meIssue 0 0x13 0 8 true (.mskld x.toNat y.toNat)

/-- R252: kvapp. -/
def execKvapp (sh : Fin 16) (a b : Src) (s : State) : Host.Outcome State Fault Refusal :=
  s.issue 4 (a.scalarOk && b.scalarOk && s.att) do
    s.meFree
    let x ← s.scalar 4 0 a
    let y ← s.scalar 4 1 b
    let h ← s.shape 4 2 (.sh sh)
    let count := fld (shAux1 h) 40 4
    let rstride := fld (shAux0 h) 0 32
    let voff := sgn 32 (fld (shAux1 h) 0 32)
    need (s.start.mod.kvLive s.part y).isSome 4 kKvHandle
    need (((s.start.mod.kvLive s.part y).map Seq.capacity).all fun n => decide (x.toNat + count ≤ n)) 4 kKvRange
    need (shapeOk h && decide (1 ≤ count) && decide (count ≤ 8) && fld (shAux0 h) 32 32 = 0 && fld (shAux1 h) 45 19 = 0 &&
      rstride % 128 = 0 && voff % 128 = 0) 4 kShape
    need (shSpace h = 1) 4 kMatrix
    let n := if (shAux1 h).getLsbD 44 then 256 else 128
    let key := fun r => sliceAddr (shapeAddr h) ((r * rstride : Nat) : Int)
    let used := (upTo count).map fun r => if (shAux1 h).getLsbD (32 + r) then some (key r, sliceAddr (key r) voff) else none
    s.bf16Rows ((used.filterMap id).flatMap fun p => [p.1, p.2]) n fun _ => true
    return s.meIssue 0 0x14 0 16 true (.kvapp used n x.toNat y)

/-! ### The query state line (Table 08-6) -/

structure QState where
  /-- Row maxima; none: −∞. -/
  m : List (Option Int)
  l : List Num
  handle : W64
  scale : Num
  ptile : Nat
  g : Nat
  dh : Bool
  tree : Bool
  mslot : Nat
  vrows : Nat
  qnode : Nat
  qpos : List Int

/-- A row maximum as stored. -/
def rowMax (x : Nat) : Option Int := if x = 0x80000000 then none else some (sgn 32 x)
def rowMaxCode (m : Option Int) : Nat := match m with
  | none => 0x80000000
  | some x => lowBits 32 x

/-- A state line is valid when its reserved bytes are zero (R244). -/
def qStateOk (x : Nat) : Bool := bitsAt x 0x286 2 = 0 && bitsAt x 0x290 16 = 0 && bitsAt x 0x2C0 64 = 0

def qState (x : Nat) : QState :=
  { m := (upTo 8).map fun r => rowMax (bitsAt x (32 * r) 32), l := (upTo 8).map fun r => f32At x (0x100 + 32 * r)
    handle := BitVec.ofNat 64 (bitsAt x 0x200 64), scale := f32At x 0x240, ptile := bitsAt x 0x260 32, g := bitsAt x 0x280 2
    dh := x.testBit 0x282, tree := x.testBit 0x283, mslot := bitsAt x 0x284 2, vrows := bitsAt x 0x288 8, qnode := bitsAt x 0x2A0 32
    qpos := (upTo 8).map fun r => sgn 32 (bitsAt x (0x300 + 32 * r) 32) }

/-- Maxima and sums as they are written back. -/
def qBytes (m : List (Option Int)) (l : List Num) : List Byte :=
  leBytes 64 (joinLanes 32 (m.map rowMaxCode ++ l.map fun x => encodeNum .f32 x .rne false))

/-- n bytes from a scratchpad address, read with waiting reads. DESIGN CHOICE, log 70: poison in any of them, a query row, a P
tile, a record, a mask block or a source row as well as the state line, is a matrix fault with cause 2. -/
def Mach.attRead (m : Mach) (draw c addr n : Nat) : Except MeGot Nat :=
  match m.meRead draw c ((upTo n).map (spKeyOf (m.lplace c) addr + ·)) with
  | none => .error .wait
  | some (data, none) => .ok (leNat data)
  | some (_, some k) => .error (.fault kMatrixFault 2 0 (spAddrLike addr k))

/-- The state line of an operation, at an address word, as it was when the step started (R244). -/
def Mach.stateLine (m : Mach) (draw c : Nat) (o : MeOp) (addr : Nat) : Except MeGot Nat :=
  match o.line with
  | some x => .ok x
  | none => m.attRead draw c addr 128

def Mach.qLine (m : Mach) (draw c : Nat) (o : MeOp) (addr : Nat) : Except MeGot QState := do
  let x ← m.stateLine draw c o addr
  if qStateOk x then .ok (qState x) else .error (.fault kMatrixFault 4 0 addr)

/-- The launch of core c. -/
def Mach.rcdOf (m : Mach) (c : Nat) : LaunchRec := (m.mod.launch ((m.coreAt c).launch.getD 0)).record

/-- The sequence of a handle, captured when the operation starts (R243). -/
def Mach.capture (m : Mach) (c : Nat) (o : MeOp) (h : W64) (addr : Nat) : Except MeGot (Nat × Nat × Seq) :=
  match o.capt with
  | some k => .ok k
  | none =>
    match m.mod.kvLive (m.partOf c) h with
    | some e => .ok (kvDie h, m.partOf c, e)
    | none => .error (.fault kMatrixFault 5 0 addr)

/-- Rows of the P tile: addresses of its 8 lines (R248). -/
def Mach.pTile (m : Mach) (c ptile : Nat) : Except MeGot (List Nat) :=
  let as := (upTo 8).map fun r => ptile + 128 * r
  if as.all fun a => (m.rcdOf c).spOk a 128 && a % 128 = 0 then .ok as
  else .error (.fault kMatrixFault 4 0 ptile)

/-! ### Keys and values in memory -/

/-- BF16 elements of a key or value: n elements from element `lo`; bytes past the entry are open, and poisoned ones decode as
NaN (spec/15 R385). -/
def Mod.kvElems (m : Mod) (draw width addr lo n : Nat) : List Num :=
  (upTo n).map fun d =>
    let o := 2 * (lo + d)
    if width < o + 2 then decodeNum .bf16 (Config.undef 16 draw 4 (16 + d)).toNat
    else if m.poison.contains ((addr + o) / 128) then .nan
    else decodeNum .bf16 (m.word (addr + o) 2)

/-- Whether bytes of memory are poisoned. -/
def Mod.bytesBad (m : Mod) (addr n : Nat) : Bool := m.poison.any fun g => decide (addr / 128 ≤ g) && decide (g ≤ (addr + n - 1) / 128)

/-- A record for poisoned keys or values that an operation has read (R385, R387). -/
def Mach.logKv (m : Mach) (c die : Nat) (bad : List Nat) : Mach :=
  match bad with
  | [] => m
  | a :: _ => { m with mod := m.mod.logError (errorRecord 4 die 5 die 1 (a % 2 ^ 48) ((m.coreAt c).launch.getD 0).toNat) }

/-! ### Score (R245, R248) -/

/-- R245 without the gap bit. -/
def QState.visible (q : QState) (slot : MaskSlot) (len r p : Nat) : Bool :=
  q.vrows.testBit r && decide (p < len) &&
    (if q.tree then
      decide (p < slot.p0.toNat) ||
        (slot.valid && decide (p < slot.p0.toNat + slot.n) && (vat 0 slot.av (q.qnode / 16 ^ r % 16)).getLsbD (p - slot.p0.toNat))
     else decide ((p : Int) ≤ q.qpos.getD r 0))

/-- The least integer that is no less, kept in ±2^30; none for −∞. -/
def numCeil : Num → Option Int
  | .inf true => none
  | .inf false | .nan => some (2 ^ 30)
  | .fin n m e =>
    let x : Int := if 0 ≤ e then (if n then -1 else 1) * (m * 2 ^ e.toNat : Nat)
      else if n then -((m / 2 ^ (-e).toNat : Nat) : Int) else ceilDiv m (2 ^ (-e).toNat)
    some (clampInt x (-(2 ^ 30)) (2 ^ 30))

/-- The larger of two maxima. -/
def maxOpt : Option Int → Option Int → Option Int
  | none, b => b
  | a, none => a
  | some a, some b => some (max a b)

/-- Rescale (R248). -/
def AccBank.shift (k : AccBank) (row : Nat) (d : Int) : AccBank :=
  let e := k.exp row
  if -32768 ≤ e + d then k.setExp row (e + d)
  else (k.setRow row ((k.row row).map fun n => if n = acxNan then n else alignAcx (decide (n < 0)) n.natAbs (e + d) (-32768))).setExp row (-32768)

/-- What a row of ascore has: its maximum, sum, P codes and the bank. -/
structure ScoreRow where
  m : Option Int
  l : Num
  p : List Nat
  bank : AccBank

/-- One row of AScore. -/
def scoreRow (k : AccBank) (row : Nat) (m : Option Int) (l : Num) (s : List Num) : ScoreRow :=
  if s.any Num.isNan then ⟨m, .nan, List.replicate 64 0x7FC0, k.setRow row (List.replicate 64 acxNan)⟩
  else
    match maxOpt m (numCeil (s.foldl Num.max (.inf true))) with
    | none => ⟨m, l, List.replicate 64 0, k⟩
    | some mn =>
      let (k1, l1) := match m with
        | some old => if old < mn then (k.shift row (old - mn), (l.scale (old - mn)).inFmt .f32) else (k, l)
        | none => (k, l)
      let p := s.map fun x => encodeNum .bf16 (exp2F32 ((x.sub (.ofInt mn)).inFmt .f32)) .rne false
      ⟨some mn, (l1.add (sumInOrder .f32 .rne (p.map (decodeNum .bf16)))).inFmt .f32, p, k1⟩

/-- The exact dot product. -/
def dotNum (a b : List Num) : Num := (List.zipWith Num.mul a b).foldl Num.add (.fin false 0 0)

/-- The step of ascore: what it writes, or why it does not act yet. -/
def Mach.scoreStep (m : Mach) (draw c : Nat) (o : MeOp) (gm : Bool) (rows : List Nat) (p0 addr : Nat) : Except MeGot Mach := do
  let q ← m.qLine draw c o addr
  let (die, _, e) ← m.capture c o q.handle addr
  let place := m.lplace c
  let d := if q.dh then 128 else 64
  if q.dh && !rows.all fun a => (m.rcdOf c).spOk a 256 then throw (.fault kMatrixFault 4 0 addr)
  let tile ← m.pTile c q.ptile
  let qs ← rows.mapM fun a => do
    let x ← m.attRead draw c a (2 * d)
    return (upTo d).map fun i => decodeNum .bf16 (bitsAt x (16 * i) 16)
  let slot := vat MaskSlot.empty (m.coreAt c).masks q.mslot
  let seen := (upTo 64).filter fun j => (upTo 8).any fun r => q.visible slot e.length r (p0 + j)
  let at' ← seen.mapM fun j => match e.translate (p0 + j) with
    | some t => Except.ok (j, t)
    | none => .error (.fault kMatrixFault 6 0 addr)
  if !gm && at'.any fun t => m.mod.gap die t.2 then throw .wait
  let keys := (at'.filter fun t => !m.mod.gap die t.2).map fun t => (t.1, e.keyAddr die t.2)
  let elems := keys.map fun t => (t.1, m.mod.kvElems draw e.width t.2 0 d)
  let bank := ((m.coreAt c).acc o.acc).work
  let out := (upTo 8).foldl (fun (r : AccBank × List ScoreRow) i =>
    let s := (upTo 64).map fun j => match elems.find? (·.1 = j) with
      | some (_, k) => if q.visible slot e.length i (p0 + j) then (((dotNum (qs.getD i []) k).inFmt .f32).mul q.scale).inFmt .f32 else .inf true
      | none => .inf true
    let w := scoreRow r.1 (8 * q.g + i) (q.m.getD i none) (q.l.getD i .nan) s
    (w.bank, r.2 ++ [w])) (bank, [])
  let m1 := m.onAcc c o.acc fun p => { p with work := out.1 }
  let m2 := (tile.zip out.2).foldl (fun (mm : Mach) t => mm.engFill c (spKeyOf place t.1) (leBytes 128 (joinLanes 16 t.2.p))) m1
  return (m2.engWrite c (spKeyOf place addr) (qBytes (out.2.map (·.m)) (out.2.map (·.l)))).logKv c die
    ((keys.filter fun t => m.mod.bytesBad t.2 (2 * d)).map (·.2))

/-! ### Value (R249) -/

/-- The step of avalue: the machine, and the lowest row that clamped. -/
def Mach.valueStep (m : Mach) (draw c : Nat) (o : MeOp) (hi : Bool) (p0 addr : Nat) : Except MeGot (Mach × Option Nat) := do
  let q ← m.qLine draw c o addr
  let (die, _, e) ← m.capture c o q.handle addr
  let tile ← m.pTile c q.ptile
  let ps ← tile.mapM fun k => do
    let x ← m.attRead draw c k 128
    return (upTo 64).map fun i => decodeNum .bf16 (bitsAt x (16 * i) 16)
  let used := if hi && !q.dh then [] else (upTo 64).filter fun j => decide (p0 + j < e.length)
  let at' ← used.mapM fun j => match e.translate (p0 + j) with
    | some t => Except.ok (j, t)
    | none => .error (.fault kMatrixFault 6 0 addr)
  let vals := (at'.filter fun t => !m.mod.gap die t.2).map fun t =>
    (t.1, e.valAddr die t.2, m.mod.kvElems draw e.width (e.valAddr die t.2) (if hi then 64 else 0) 64)
  let bank := ((m.coreAt c).acc o.acc).work
  let out := (upTo 8).foldl (fun (r : AccBank × Option Nat) i =>
    let row := 8 * q.g + i
    let p := ps.getD i []
    r.1.putRow r.2 row ((upTo 64).map fun col => acxStep (bank.get row col) (bank.exp row)
      (vals.map fun v => (p.getD v.1 .nan).mul (v.2.2.getD col .nan)))) (bank, none)
  let m1 := m.onAcc c o.acc fun p => { p with work := out.1 }
  return (m1.logKv c die ((vals.filter fun v => m.mod.bytesBad (v.2.1 + if hi then 128 else 0) 128).map (·.2.1)), out.2)

/-! ### Merge (R250, R251) -/

/-- A row of a triple: integers, exponent, maximum, sum. -/
structure Triple where
  n : List Int
  e : Int
  m : Option Int
  l : Num

/-- Row r of a triple record. -/
def recordRow (x r : Nat) : Triple :=
  ⟨(upTo 64).map fun c => sgn 40 (bitsAt x (2048 * r + 32 * c) 32 + bitsAt x (0x4000 + 512 * r + 8 * c) 8 * 2 ^ 32),
    sgn 16 (bitsAt x (0x5000 + 16 * r) 16), rowMax (bitsAt x (0x5100 + 32 * r) 32), f32At x (0x5200 + 32 * r)⟩

/-- Row 8g + r of an accumulator with the state line's m and l. -/
def QState.tripleRow (q : QState) (k : AccBank) (r : Nat) : Triple :=
  ⟨k.row (8 * q.g + r), k.exp (8 * q.g + r), q.m.getD r none, q.l.getD r .nan⟩

/-- The merge of one row (R251): the elements with whether each clamped, exponent, maximum and sum. -/
def mergeRow (a b : Triple) : List (Int × Bool) × Int × Option Int × Num :=
  match maxOpt a.m b.m with
  | none => (a.n.map fun n => (n, false), a.e, none, (a.l.add b.l).inFmt .f32)
  | some m =>
    let sides := [a, b].filterMap fun t => t.m.map fun x => (t, x - m)
    let l := (sides.foldl (fun (s : Num) (t : Triple × Int) => s.add (t.1.l.scale t.2)) (Num.fin true 0 0)).inFmt .f32
    let e := sides.foldl (fun e t => max e (t.1.e + t.2)) (-32768)
    let col := fun c =>
      let ns := sides.map fun t => (t.1.n.getD c 0, t.1.e + t.2)
      if ns.any fun x => x.1 = acxNan then (acxNan, false)
      else
        let t := (ns.map fun x => alignAcx (decide (x.1 < 0)) x.1.natAbs x.2 e).foldl (· + ·) 0
        let k := clampInt t (-acxMax) acxMax
        (k, decide (t ≠ k))
    ((upTo 64).map col, e, some m, l)

/-- The bytes of a triple record (Table 08-8). -/
def recordBytes (q : QState) (k : AccBank) (line : Nat) : List Byte :=
  let rows := (upTo 8).map (q.tripleRow k)
  let mant := joinLanes 32 (rows.flatMap fun t => t.n.map (lowBits 32))
  let guard := joinLanes 8 (rows.flatMap fun t => t.n.map fun n => lowBits 40 n / 2 ^ 32)
  let exps := joinLanes 16 (rows.map fun t => lowBits 16 t.e)
  leBytes 3072 (mant + guard * 2 ^ 0x4000 + exps * 2 ^ 0x5000 + bitsAt line 0 512 * 2 ^ 0x5100)

/-- The step of smerge: the machine, and the lowest row that clamped. -/
def Mach.mergeStep (m : Mach) (draw c : Nat) (o : MeOp) (fn rec addr : Nat) : Except MeGot (Mach × Option Nat) := do
  let place := m.lplace c
  let line ← m.stateLine draw c o addr
  let q ← if qStateOk line then Except.ok (qState line) else .error (.fault kMatrixFault 4 0 addr)
  let bank := ((m.coreAt c).acc o.acc).work
  if fn = 1 then return (m.engFill c (spKeyOf place rec) (recordBytes q bank line), none)
  else
    let x ← m.attRead draw c rec 3072
    if bitsAt x 0x5080 128 ≠ 0 ∨ bitsAt x 0x5300 3328 ≠ 0 then throw (.fault kMatrixFault 4 0 rec)
    let out := (upTo 8).foldl (fun (r : (AccBank × Option Nat) × List (Option Int × Num)) i =>
      let row := 8 * q.g + i
      let t := recordRow x i
      if fn = 2 then (((r.1.1.setRow row t.n).setExp row t.e, r.1.2), r.2 ++ [(t.m, t.l)])
      else
        let w := mergeRow (q.tripleRow bank i) t
        let k := r.1.1.putRow r.1.2 row w.1
        ((k.1.setExp row w.2.1, k.2), r.2 ++ [w.2.2])) ((bank, none), [])
    let m1 := m.onAcc c o.acc fun p => { p with work := out.1.1 }
    let state := if fn = 2 then leBytes 64 (bitsAt x 0x5100 512) else qBytes (out.2.map (·.1)) (out.2.map (·.2))
    return (m1.engWrite c (spKeyOf place addr) state, out.1.2)

/-! ### Mask load and append -/

/-- Set bits of a number below 2^16. -/
def bitCount (x : Nat) : Nat := ((upTo 16).filter x.testBit).length

/-- The step of mskld (R247): the machine and its result. -/
def Mach.maskStep (m : Mach) (draw c addr slot : Nat) : Except MeGot (Mach × VecReg) := do
  let x ← m.attRead draw c addr 64
  let p0 := bitsAt x 0 32
  let n := bitsAt x 32 16
  let av := fun i => bitsAt x (64 + 16 * i) 16
  let ms : MaskSlot := ⟨maskOk x, true, BitVec.ofNat 32 p0, n, Vector.ofFn fun i => BitVec.ofNat 16 (av i)⟩
  let pos := (upTo 16).map fun i => if i < n then lowBits 32 ((p0 : Int) + bitCount (av i) - 1) else 0
  return (m.onCore c fun k => { k with masks := vmod k.masks slot fun _ => ms },
    ofLanes 32 (pos ++ [if maskOk x then 0 else 1]))

/-- The step of kvapp (R252): every copy is made before any position is written, and positions translate under the captured
version, or under the step's own copies of it. -/
def Mach.appendStep (m : Mach) (draw c : Nat) (o : MeOp) (rows : List (Option (Nat × Nat))) (n p0 : Nat) (h : W64) :
    Except MeGot (Mach × VecReg) := do
  let (die, part, e) ← m.capture c o h p0
  let data ← rows.mapM fun r => match r with
    | none => Except.ok none
    | some (k, v) => do
      let x ← m.attRead draw c k n
      let y ← m.attRead draw c v n
      return some (leBytes n x, leBytes n y)
  let i := kvIndex h
  let live := (m.mod.kvLive part h).getD e
  if live.length < p0 ∨ e.capacity < p0 + rows.length then throw (.fault kMatrixFault 6 0 p0)
  match m.mod.ownAll die part i ((upTo rows.length).map (p0 + ·)) with
  | none => .error (.fault kMatrixFault 7 0 p0)
  | some m1 =>
    let dest := if live.version = e.version then (m1.kvSlice die part).seq i else e
    let w := e.width
    let m2 := (data.mapIdx fun j d => (j, d)).foldl (fun (mo : Mod) d =>
      mo.kvPutAt die dest (p0 + d.1) (d.2.map fun kv => (kv.1.take w, kv.2.take w)) []) m1
    let len := max live.length (p0 + rows.length)
    let m3 := if (m.mod.kvLive part h).isNone then m2
      else m2.onSlice die part fun s => s.setSeq i { s.seq i with length := len }
    return ({ m with mod := m3 }, BitVec.ofNat 2048 len)

/-! ### The engine's cycle -/

/-- The operation at the head as its step starts: the state line read (R244), the sequence captured (R243). Neither changes again. -/
def Mach.begun (m : Mach) (draw c : Nat) (o : MeOp) : MeOp :=
  let reads := fun (addr : Nat) => { o with line := (m.stateLine draw c o addr).toOption }
  let holds := fun (o : MeOp) (h : W64) => { o with capt := (m.capture c o h 0).toOption }
  match o.body with
  | .ascore _ _ _ addr | .avalue _ _ addr =>
    let o1 := reads addr
    match o1.line with
    | some x => holds o1 (qState x).handle
    | none => o1
  | .smerge _ _ addr => reads addr
  | .kvapp _ _ _ h => holds o h
  | _ => o

/-- What the step of an attention operation leads to. -/
def Mach.attDone (m : Mach) (c : Nat) (o : MeOp) (r : Except MeGot (Mach × Option VecReg × Option Nat)) : Mach :=
  match r with
  | .ok (m1, lat, low) => m1.meDone c o lat low false
  | .error (.fault kind cause obj off) => m.meFault c o kind cause obj off
  | .error _ => m.setHead c (some o)

/-- One cycle of the matrix engine of a core (R222): at most one step of the oldest operation. -/
def Mach.meCycle (m : Mach) (draw c : Nat) : Mach :=
  match (m.coreAt c).meq with
  | [] => m
  | head :: _ =>
    let o := m.begun draw c head
    match o.body with
    | .mma ty g cap steps lat => m.mmaStep draw c o ty g cap steps lat
    | .ascore gm rows p0 addr => m.attDone c o ((fun m => (m, none, none)) <$> m.scoreStep draw c o gm rows p0 addr)
    | .avalue hi p0 addr => m.attDone c o ((fun r => (r.1, none, r.2)) <$> m.valueStep draw c o hi p0 addr)
    | .smerge fn rec addr => m.attDone c o ((fun r => (r.1, none, r.2)) <$> m.mergeStep draw c o fn rec addr)
    | .mskld addr slot => m.attDone c o ((fun r => (r.1, some r.2, none)) <$> m.maskStep draw c addr slot)
    | .kvapp rows n p0 h => m.attDone c o ((fun r => (r.1, some r.2, none)) <$> m.appendStep draw c o rows n p0 h)
    | _ => m.accStep c o

end Sys2Proof.Machine
end

