-- ==== Sys2Proof/Machine/Registers.lean ====
section
/-! DEFINITION. System control registers (spec/13 R320, R321, R323, R330, R334 to R336, Tables 13-3 to 13-8; spec/16 Tables 16-8, 16-10;
spec/17 Table 17-2): what each reads as, when a write is refused, what it changes; the semaphore. -/

namespace Sys2Proof.Machine

/-- A word with bit i set where a list holds base + i. -/
def setBits (ns : List Nat) (base n : Nat) : W64 :=
  BitVec.ofNat 64 (((upTo n).filter fun i => ns.contains (base + i)).foldl (fun x i => x ||| 2 ^ i) 0)

/-! ### Reading -/

/-- wqcfg (Table 13-4). -/
def WorkQueue.word (w : WorkQueue) : W64 :=
  BitVec.ofNat 64 (w.cap + w.mode * 2 ^ 16 + w.grant.toNat * 2 ^ 18 + (if w.win then 2 ^ 26 else 0) + (if w.closed then 2 ^ 27 else 0) +
    w.ring * 2 ^ 28 + w.recs.length * 2 ^ 32)

/-- dinfo (Table 13-3). -/
def Mod.dieInfo (m : Mod) (die : Nat) : W64 :=
  BitVec.ofNat 64 (die + (if 8 ≤ die then 16 else 0) + if m.rdy.getLsbD (1 + die) then 32 else 0)

/-- A register of a die. -/
def Mod.dieReg (m : Mod) (die n : Nat) : W64 :=
  let d := m.die die
  if n = 0 then m.dieInfo die
  else if !m.rdy.getLsbD (1 + die) then 0
  else if n = 1 ∧ die < 8 then d.dpart.setWidth 64
  else if n = 2 then flagBit d.strict
  else if n = 8 then d.svcode.extractLsb' 0 64
  else if n = 9 then d.svcode.extractLsb' 64 64
  else if n = 0xA then d.tvec
  else if n = 0xC then d.psave.extractLsb' 0 64
  else if n = 0xD then d.psave.extractLsb' 64 64
  else if 0x40 ≤ n ∧ n < 0x80 then (m.queue die (n - 0x40)).word
  else if 8 ≤ die ∧ 0x80 ≤ n ∧ n < 0x88 then
    BitVec.ofNat 64 ((m.kvSlice die (n - 0x80)).first + (m.kvSlice die (n - 0x80)).pages * 2 ^ 24)
  else if 8 ≤ die ∧ 0x90 ≤ n ∧ n < 0x98 then
    BitVec.ofNat 64 ((m.kvSlice die (n - 0x90)).reserve + (m.kvSlice die (n - 0x90)).free * 2 ^ 24)
  else 0

/-- sema (Table 13-7). -/
def Mod.semaWord (m : Mod) : W64 :=
  BitVec.ofNat 64 (m.semaOwner + m.semaLast * 4 + (if m.werr[0] then 16 else 0) + (if m.werr[1] then 32 else 0) +
    (if m.expired then 64 else 0) + m.since % 2 ^ 48 * 2 ^ 16)

/-- A register of an event ring (Table 13-8). -/
def Ring.reg (r : Ring) (i : Nat) : W64 :=
  match i with
  | 0 => r.base
  | 1 => BitVec.ofNat 64 (r.size.toNat + (if r.en then 16 else 0) + (if r.ien then 32 else 0) + (if r.port then 64 else 0) +
      r.vec.toNat * 2 ^ 8 + r.ccount.toNat * 2 ^ 16 + r.ctime.toNat * 2 ^ 32)
  | 2 => BitVec.ofNat 64 (r.head.toNat + r.tail.toNat * 2 ^ 32)
  | _ => BitVec.ofNat 64 (r.pasid.toNat + if r.pv then 2 ^ 20 else 0)

def DomState.code : DomState → Nat
  | .outside => 0
  | .attesting => 1
  | .member => 2
  | .fenced => 3

/-- dstat (Table 16-8). -/
def Domain.word (d : Domain) : W64 :=
  BitVec.ofNat 64 (d.state.code + d.epoch.toNat * 4 + (d.keys.filter (·.1 ≠ d.epoch.toNat)).length * 2 ^ 4 +
    (if d.newKeys.isSome then 2 ^ 6 else 0) + (if d.scrub then 2 ^ 7 else 0) + (if d.rekey = .draining then 2 ^ 8 else 0) +
    d.leader.toNat * 2 ^ 9 + if d.leads then 2 ^ 22 else 0)

/-- A register of an Ethernet port (Table 16-10). -/
def EthPort.reg (e : EthPort) (n : Nat) : W64 :=
  if n = 0 then BitVec.ofNat 64 ((if e.en then 1 else 0) + e.split.toNat * 2 + (if e.msec then 8 else 0) + e.mtu.toNat * 2 ^ 4 + e.part.toNat * 2 ^ 18)
  else if n = 1 then BitVec.ofNat 64 (e.up.toNat + e.drops.toNat * 2 ^ 8)
  else if 8 ≤ n ∧ n < 24 then
    let p := vat EthPair.reset e.pairs ((n - 8) / 2)
    if n % 2 = 0 then BitVec.ofNat 64 (p.obj.toNat + p.size.toNat * 2 ^ 24 + (if p.qen then 2 ^ 28 else 0) + p.ering.toNat * 2 ^ 32)
    else BitVec.ofNat 64 (p.ttail.toNat + p.thead.toNat * 2 ^ 16 + p.rtail.toNat * 2 ^ 32 + p.rhead.toNat * 2 ^ 48)
  else 0

def Mod.ethPort (m : Mod) (p : Nat) : EthPort := vat EthPort.reset m.eth p
def Mod.setEth (m : Mod) (p : Nat) (f : EthPort → EthPort) : Mod := { m with eth := vmod m.eth p f }

/-- A register of the module; a read of take does more and is done apart. -/
def Mod.modReg (m : Mod) (n : Nat) : W64 :=
  if n = 0 then if m.rdy.getLsbD 29 then BitVec.ofNat 64 (m.addr.toNat + if m.dom.state = .member then 2 ^ 13 else 0) else 0
  else if n = 1 then m.semaWord
  else if n = 2 then m.lease.setWidth 64
  else if n = 4 then m.rdy.setWidth 64
  else if n = 5 then m.plim.setWidth 64
  else if n = 6 then m.pwr.setWidth 64
  else if 0x10 ≤ n ∧ n < 0x50 then (m.ring ((n - 0x10) / 4)).reg ((n - 0x10) % 4)
  else if 0x50 ≤ n ∧ n < 0x54 then
    let p := m.port ((n - 0x50) / 2)
    if n % 2 = 0 then p.ahd else p.ahi
  else if n = 0x100 then m.dom.word
  else if n = 0x101 then BitVec.ofNat 64 (m.gapt.toNat + if m.idereq then 2 ^ 32 else 0)
  else if n = 0x102 then m.lstat.setWidth 64
  else if n = 0x103 then m.gstat
  else if 0x180 ≤ n ∧ n < 0x200 then setBits (m.dom.quar.map (·.toNat)) (64 * (n - 0x180)) 64
  else if 0x200 ≤ n ∧ n < 0x280 then setBits (m.dom.fence.map (·.toNat)) (64 * (n - 0x200)) 64
  else if 0x280 ≤ n ∧ n < 0x2C0 then (tget 0 (n - 0x280) m.glen).setWidth 64
  else if 0x300 ≤ n ∧ n < 0x380 then (m.ethPort ((n - 0x300) / 0x20)).reg ((n - 0x300) % 0x20)
  else 0

/-- The value of a register by its 16-bit number (R320); 0 where Table 13-3 assigns none. -/
def Mod.readReg (m : Mod) (num : Nat) : W64 :=
  let die := num / 2 ^ 12
  if die < 10 then m.dieReg die (num % 2 ^ 12) else if die = 15 then m.modReg (num % 2 ^ 12) else 0

/-- The number of take. -/
def takeReg : Nat := 0xF003

/-- A register counts as a supervisor's own (R323). -/
def Mod.ownReg (m : Mod) (part num : Nat) : Bool :=
  let die := num / 2 ^ 12
  let n := num % 2 ^ 12
  if die = 15 then true
  else if die < 8 then m.inPart die part
  else die < 10 && (n = 0x80 + part || n = 0x90 + part)

/-! ### The semaphore (R336) -/

/-- Who a claimant is to the semaphore: 1 port 0, 2 port 1, 3 a supervisor. -/
def claimCode : Claimant → Nat
  | .port p => p + 1
  | .supervisor .. => 3
  | .monitor => 0

/-- What a take returns. -/
def Mod.takeWord (m : Mod) (granted : Bool) : W64 := BitVec.ofNat 64 ((if granted then 1 else 0) + m.semaOwner * 2)

/-- One take, granted or not. -/
def Mod.takeOne (m : Mod) (who : Nat) (granted : Bool) : Mod × W64 :=
  if !m.rdy.getLsbD 0 then (m, 0)
  else if granted then
    let m1 := { m with semaOwner := who, semaLast := who, since := m.tick }
    (m1, m1.takeWord true)
  else (m, m.takeWord false)

/-- The rank of a claimant behind the last owner, in the cyclic order port 0, port 1, supervisor; among supervisors the lower die,
then the lower logical core. -/
def claimRank (last : Nat) (c : Claimant) : List Nat :=
  let at' := match c with | .supervisor die lcore => [die, lcore] | _ => []
  (claimCode c + 2 - last) % 3 :: at'

/-- The takes that reach the semaphore in one cycle, with what each returns: a free semaphore goes to the first of them; a held one
stays its owner's, who takes it again. -/
def Mod.takeAll (m : Mod) (cs : List Claimant) : Mod × List (Claimant × W64) :=
  (sortBy (claimRank m.semaLast) (cs.filter fun c => claimCode c ≠ 0)).foldl (fun (r : Mod × List (Claimant × W64)) c =>
    let a := r.1.takeOne (claimCode c) (if m.semaOwner = 0 then decide (r.2 = []) else m.semaOwner = claimCode c)
    (a.1, r.2 ++ [(c, a.2)])) (m, [])

/-- Decide the takes of the cycle: those of supervisors that wait, and others that arrive with them. -/
def Mach.decideTakes (m : Mach) (others : List Claimant) : Mach :=
  let sup := fun (t : TakeReq) => Claimant.supervisor (t.core / 64) (m.coreAt t.core).lcore
  let r := m.mod.takeAll (others ++ m.mod.takes.map sup)
  let mod1 := r.2.foldl (fun (mo : Mod) e => match e.1 with
    | .port p => mo.setPort p fun q => { q with answer := leBytes 8 e.2.toNat }
    | _ => mo) { r.1 with takes := [] }
  m.mod.takes.foldl (fun (mm : Mach) t => match r.2.find? fun e => e.1 = sup t with
    | some e => mm.answer t.core t.ctx t.req (e.2.setWidth 2048)
    | none => mm) { m with mod := mod1 }

/-- A write to sema: the owner releases by writing 0 to owner; any party changes only its own werr bit besides. -/
def Mod.semaWrite (m : Mod) (who : Claimant) (v : W64) : Mod :=
  let code := claimCode who
  let m1 := if m.semaOwner = code ∧ code ≠ 0 ∧ fld v 0 2 = 0 then { m with semaOwner := 0 } else m
  match who with
  | .port p => if v.getLsbD (4 + p) then m1 else { m1 with werr := vmod m1.werr p fun _ => false }
  | _ => m1

/-! ### Writing -/

/-- What a write of a die's or the module's register does: refused for its value (none), or the module after it. -/
def Mod.writeDpart (m : Mod) (die : Nat) (v : W64) : Option Mod :=
  let held := m.launches.any fun l => l.2.die = die || l.2.cores.any (· / 64 = die)
  let recs := (m.die die).wq.any fun w => w.2.recs ≠ []
  let joins := (upTo 256).any fun i => (m.joinSlot (die * 256 + i)).join.isSome
  if held || recs || joins then none else some (m.setDie die fun d => { d with dpart := v.extractLsb' 0 4 })

/-- wqcfg (Table 13-4, R330). -/
def Mod.writeWqcfg (m : Mod) (die q : Nat) (v : W64) : Option Mod :=
  let w := m.queue die q
  let cap := fld v 0 16
  let mode := fld v 16 2
  let grant : BitVec 8 := v.extractLsb' 18 8
  let others := ((m.die die).wq.map fun (e : Nat × WorkQueue) => if e.1 = q then 0 else e.2.cap).sum
  let reopen := w.closed && !v.getLsbD 27
  if 4096 < cap ∨ 8192 < others + cap ∨ cap < w.recs.length ∨ mode = 3 ∨ (mode = 1 ∧ ((upTo 8).filter fun i => grant.getLsbD i).length ≠ 1) ∨
      (reopen ∧ w.recs ≠ []) then none
  else some (m.setQueue die q fun w =>
    { w with cap := cap, mode := mode, grant := grant, win := v.getLsbD 26, closed := w.closed && !reopen, ring := fld v 28 4 })

/-- kvslice and kvrsv (Table 13-5, R335). -/
def Mod.writeSlice (m : Mod) (die p : Nat) (v : W64) : Option Mod :=
  let first := fld v 0 24
  let pages := fld v 24 24
  let outside := (upTo 8).any fun k =>
    let s := m.kvSlice die k
    k ≠ p && decide (0 < pages) && decide (0 < s.pages) && decide (first < s.first + s.pages) && decide (s.first < first + pages)
  let live := (m.kvSlice die p).seqs.any fun e => e.2.live
  if outside || live || decide (6291456 < first + pages) then none
  else some (m.onSlice die p fun s => { s with first := first, pages := pages })
def Mod.writeReserve (m : Mod) (die p : Nat) (v : W64) : Option Mod :=
  if (m.kvSlice die p).pages < fld v 0 24 then none else some (m.onSlice die p fun s => { s with reserve := fld v 0 24 })

/-- Registers of an event ring. -/
def Mod.writeRing (m : Mod) (r i : Nat) (v : W64) : Option Mod :=
  let x := m.ring r
  match i with
  | 0 => if x.en ∨ v.toNat % (32 * x.entries) ≠ 0 then none else some (m.setRing r fun x => { x with base := v })
  | 1 =>
    let size : BitVec 4 := v.extractLsb' 0 4
    if 12 < size.toNat ∨ (x.en ∧ size ≠ x.size) ∨ x.base.toNat % (32 * 2 ^ (size.toNat + 4)) ≠ 0 then none
    else some ((m.setRing r fun x =>
      { x with size := size, en := v.getLsbD 4, ien := v.getLsbD 5, port := v.getLsbD 6, vec := v.extractLsb' 8 8
               ccount := v.extractLsb' 16 16, ctime := v.extractLsb' 32 32 }).interrupt r)
  | 2 =>
    let head : W32 := v.extractLsb' 0 32
    if (x.tail - x.head).toNat < (head - x.head).toNat then none else some (m.setRing r fun x => { x with head := head })
  | _ => if x.en then none else some (m.setRing r fun x => { x with pasid := v.extractLsb' 0 20, pv := v.getLsbD 20 })

/-- Registers of an Ethernet port. -/
def Mod.writeEth (m : Mod) (p n : Nat) (v : W64) : Option Mod :=
  if n = 0 then
    if fld v 4 14 < 64 ∨ 9216 < fld v 4 14 then none
    else some (m.setEth p fun e => { e with en := v.getLsbD 0, split := v.extractLsb' 1 2, msec := v.getLsbD 3, mtu := v.extractLsb' 4 14, part := v.extractLsb' 18 3 })
  else
    let k := (n - 8) / 2
    let x := vat EthPair.reset (m.ethPort p).pairs k
    let put := fun (f : EthPair → EthPair) => some (m.setEth p fun e => { e with pairs := vmod e.pairs k f })
    if n % 2 = 0 then
      let obj : BitVec 24 := v.extractLsb' 0 24
      let size : BitVec 4 := v.extractLsb' 24 4
      if 8 < size.toNat ∨ (x.qen ∧ (obj ≠ x.obj ∨ size ≠ x.size)) then none
      else put fun x => { x with obj := obj, size := size, qen := v.getLsbD 28, ering := v.extractLsb' 32 4 }
    else put fun x => { x with ttail := v.extractLsb' 0 16, rtail := v.extractLsb' 32 16 }

/-- A host push to the admission heap (R294): 0 pushed, 1 full, 2 refused. -/
def Mod.ahiPush (m : Mod) (p : Nat) (v : W64) : Mod :=
  let d := (m.port p).ahd
  let part := fld v 32 3
  let r := if fld v 35 29 ≠ 0 ∨ !(upTo 8).any fun die => m.inPart die part then (m, 2)
    else m.heapPush (hostRank p) part (fld d 0 48) (fld d 48 16) (v.extractLsb' 0 32)
  r.1.setPort p fun q => { q with ahi := BitVec.ofNat 64 r.2 }

/-- Why a write is refused, as swr reports it. -/
inductive RegRefusal where
  | access | value | semaphore
deriving DecidableEq, Repr

/-- What a register's write asks of a writer and does: whether a supervisor, a host and the monitor may write it, whether the first
two need the semaphore, and its effect. -/
structure RegWrite where
  sup : Bool
  host : Bool
  mon : Bool
  sem : Bool
  act : Option Mod

/-- Bits [127:64] of a capability without its res0 bits (spec/02 Table 02-8). -/
def capHigh (v : W64) : W64 := v &&& ~~~(3#64 <<< 30)

/-- The write that a register number names; none where nobody may write. -/
def Mod.regWrite (m : Mod) (who : Claimant) (num : Nat) (v : W64) : Option RegWrite :=
  let die := num / 2 ^ 12
  let n := num % 2 ^ 12
  let set := fun (f : Die → Die) => some (m.setDie die f)
  let own := fun (p : Nat) => who = .port p
  if die < 10 then
    if n = 1 ∧ die < 8 then some ⟨false, true, true, true, m.writeDpart die v⟩
    else if n = 2 then some ⟨true, true, false, true, set fun d => { d with strict := v.getLsbD 0 }⟩
    else if n = 8 then some ⟨false, true, true, true, set fun d => { d with svcode := d.svcode.extractLsb' 64 64 ++ v }⟩
    else if n = 9 then some ⟨false, true, true, true, set fun d => { d with svcode := capHigh v ++ d.svcode.extractLsb' 0 64 }⟩
    else if n = 0xA then some ⟨false, true, true, true, if v.toNat % 256 = 0 then set fun d => { d with tvec := v } else none⟩
    else if n = 0xC then some ⟨true, true, false, true, set fun d => { d with psave := d.psave.extractLsb' 64 64 ++ v }⟩
    else if n = 0xD then some ⟨true, true, false, true, set fun d => { d with psave := capHigh v ++ d.psave.extractLsb' 0 64 }⟩
    else if 0x40 ≤ n ∧ n < 0x80 then some ⟨true, true, false, true, m.writeWqcfg die (n - 0x40) v⟩
    else if 8 ≤ die ∧ 0x80 ≤ n ∧ n < 0x88 then some ⟨false, true, true, true, m.writeSlice die (n - 0x80) v⟩
    else if 8 ≤ die ∧ 0x90 ≤ n ∧ n < 0x98 then some ⟨true, true, false, true, m.writeReserve die (n - 0x90) v⟩
    else none
  else if die ≠ 15 then none
  else if n = 1 then some ⟨true, true, false, false, some (m.semaWrite who v)⟩
  else if n = 2 then some ⟨true, true, false, true, some { m with lease := v.extractLsb' 0 32 }⟩
  else if n = 5 then some ⟨false, true, true, true, if 600 ≤ fld v 0 12 ∧ fld v 0 12 ≤ 2400 then some { m with plim := v.extractLsb' 0 12 } else none⟩
  else if 0x10 ≤ n ∧ n < 0x50 then some ⟨true, true, false, true, m.writeRing ((n - 0x10) / 4) ((n - 0x10) % 4) v⟩
  else if n = 0x50 ∨ n = 0x52 then
    some ⟨false, own ((n - 0x50) / 2), false, false, some (m.setPort ((n - 0x50) / 2) fun p => { p with ahd := v })⟩
  else if n = 0x51 ∨ n = 0x53 then some ⟨false, own ((n - 0x50) / 2), false, false, some (m.ahiPush ((n - 0x50) / 2) v)⟩
  else if n = 0x101 then
    some ⟨false, true, true, true, if 600 ≤ fld v 0 32 then some { m with gapt := v.extractLsb' 0 32, idereq := v.getLsbD 32 } else none⟩
  else if 0x300 ≤ n ∧ n < 0x380 ∧ (n % 0x20 = 0 ∨ (8 ≤ n % 0x20 ∧ n % 0x20 < 24)) then
    some ⟨true, true, false, true, m.writeEth ((n - 0x300) / 0x20) ((n - 0x300) % 0x20) v⟩
  else none

/-- A write of a system control register (R321): the module after it, or why it is refused. `part`: the partition of a supervisor. -/
def Mod.writeReg (m : Mod) (who : Claimant) (part num : Nat) (v : W64) : Except RegRefusal Mod :=
  match m.regWrite who num v with
  | none => .error .access
  | some w =>
    let may := match who with
      | .port _ => w.host
      | .supervisor .. => w.sup && m.ownReg part num
      | .monitor => w.mon
    if !may then .error .access
    else if w.sem ∧ who ≠ .monitor ∧ (m.semaOwner ≠ claimCode who ∨ !m.rdy.getLsbD 0) then .error .semaphore
    else match w.act with
      | some m1 => .ok m1
      | none => .error .value

/-- A host write, which is posted: a refusal sets the port's sticky error bit. -/
def Mod.hostWriteReg (m : Mod) (port num : Nat) (v : W64) : Mod :=
  match m.writeReg (.port port) 0 num v with
  | .ok m1 => m1
  | .error _ => { m with werr := vmod m.werr port fun _ => true }

end Sys2Proof.Machine
end

