-- ==== Sys2Proof/Machine/Queues.lean ====
section
/-! DEFINITION. The work-queue instructions (spec/06 R188, R189, spec/01 R28 to R31, spec/13 R330, R338). -/

namespace Sys2Proof.Machine

/-- The die and queue that an operand names (Table 06-13), with the checks of R188. -/
def State.queueOf (s : State) (a : W64) : Except Stop (Nat × Nat) :=
  let q := fld a 0 6
  let die := if a.getLsbD 10 then s.die else fld a 6 4
  if fld a 11 53 ≠ 0 ∨ 10 ≤ die then trapOf 5 kWorkQueue
  else if !(s.now.mod.queue die q).grant.getLsbD s.part then trapOf 5 kWorkQueue
  else .ok (die, q)

/-- The place of a context among the blocked poppers of a queue, or their number (R29). -/
def WorkQueue.rank (w : WorkQueue) (c x : Nat) : Nat := w.poppers.findIdx fun p => p.core = c ∧ p.ctx = x

/-- What a pop finds (R29). -/
inductive PopFound where
  /-- The record at this index, in order. -/
  | record (i : Nat)
  | closed
  | empty
deriving DecidableEq, Repr

/-- A record held for the popper, else the first that is held for none; closed only when closed and empty. -/
def WorkQueue.find (w : WorkQueue) (c x : Nat) : PopFound :=
  let i := w.rank c x
  if i < w.reserved ∧ i < w.recs.length then .record i
  else if w.reserved < w.recs.length then .record w.reserved
  else if w.closed ∧ w.recs = [] then .closed
  else .empty

/-- The queue once a context's pop has issued: its record, if any, is taken and the context no longer waits. -/
def WorkQueue.take (w : WorkQueue) (c x : Nat) (f : PopFound) : WorkQueue :=
  let waits := decide (w.rank c x < w.reserved)
  let w1 := { w with poppers := w.poppers.filter fun p => !(p.core = c && p.ctx = x), reserved := if waits then w.reserved - 1 else w.reserved }
  match f with
  | .record i => { w1 with recs := w1.recs.eraseIdx i, seq := w1.seq + 1 }
  | _ => w1

/-- A task handle (R31). -/
def taskHandle (die q seq : Nat) : W32 := BitVec.ofNat 32 (seq % 2 ^ 22 + q * 2 ^ 22 + die * 2 ^ 28)

/-- Delivery of a task: handle, held, effect clear, and the record kept (R189). -/
def Bank.deliver (b : Bank) (handle : W32) (r : Rec) : Bank :=
  { b with status := setFld b.status 0 34 (handle.toNat + 2 ^ 32), task := r }

/-- A 2048-bit X result (R295 counts it). -/
def State.retXV (s : State) (l : Nat) (d : Option (Fin 32)) (v : VecReg) : State := (s.retV 5 l d v).onBank Bank.newX

/-- The pop of wqpop and wqtry: the outcome of Table 06-14; a delivery is an acquire (R28). -/
def State.pop (s : State) (block : Bool) (d : Option (Fin 32)) (a : Src) : Act := do
  let x ← s.scalar 5 0 a
  let (die, q) ← s.queueOf x
  let w := s.now.mod.queue die q
  need (decide (w.mode ≠ 1) && decide (w.mode ≠ 2)) 5 kWorkQueue
  need (!s.start.ctx.user.flag statusHeld) 5 kTaskState
  let f := w.find s.now.cid s.now.xid
  let s1 := s.onMod fun m => m.setQueue die q fun w => w.take s.now.cid s.now.xid f
  match f with
  | .record i =>
    let r := w.recs.getD i 0
    let h := taskHandle die q w.seq
    let s2 : State := { s1 with now := (s1.onCtx fun c => c.onUser fun b => b.deliver h r).now.refresh .mod }
    return s2.retXV 32 d (BitVec.ofNat 2048 (h.toNat * 2 ^ 64 + r.toNat * 2 ^ 128))
  | .closed => return s1.retXV 32 d 2
  | .empty => if block then .error (.hold { waitq := some (die * 64 + q) }) else return s1.retXV 32 d 1

/-- R188: wqpop. -/
def execWqpop (d : Option (Fin 32)) (a : Src) (s : State) : Host.Outcome State Fault Refusal := s.issue 5 a.scalarOk (s.pop true d a)

/-- R188: wqtry. -/
def execWqtry (d : Option (Fin 32)) (a : Src) (s : State) : Host.Outcome State Fault Refusal := s.issue 5 a.scalarOk (s.pop false d a)

/-- The status of a push: 3 refused, 2 closed, 1 full, 0 pushed (Table 06-12, Table 13-4). -/
def WorkQueue.pushStatus (w : WorkQueue) : Nat :=
  if w.cap = 0 ∨ w.mode = 3 then 3
  else if w.closed then 2
  else if w.mode ≠ 2 ∧ w.full then 1
  else 0

/-- The push of a context once its publish is complete: a successful one sets the effect bit (R188). -/
def Mach.queuePush (m : Mach) (die q : Nat) (r : Rec) : Mach × W64 :=
  let st := (m.mod.queue die q).pushStatus
  (if st = 0 then { m with mod := m.mod.push die q m.selfRank r, ctx := m.ctx.setEffect } else m, BitVec.ofNat 64 st)

/-- R188: wqpush, a release at .mod; a record whose handler bit or a res0 bit is set is refused. -/
def execWqpush (d : Fin 32) (a : Src) (s : State) : Host.Outcome State Fault Refusal :=
  s.issue 5 a.scalarOk do
    let x ← s.scalar 5 0 a
    let v ← s.dataV 5 1 d
    let (die, q) ← s.queueOf x
    let r : Rec := v.setWidth 512
    if fld r 49 15 ≠ 0 then return s.retX 8 none 3
    else
      let p := s.now.publish .mod (.push die q r 0)
      if p.2 then
        let g := p.1.queuePush die q r
        return { s with now := g.1 }.retX 8 none g.2
      else
        let (rq, s0) := s.newReq
        return ({ s0 with now := { p.1 with ctx := { p.1.ctx with
            reqNext := s0.now.ctx.reqNext, pending := p.1.ctx.pending ++ [Pending.publish .mod (.push die q r rq)] } } }.expect 5 8
          none rq).onBank Bank.newX

/-- R188: wqclose; every close sets the effect bit. -/
def execWqclose (d : Option (Fin 64)) (a : Src) (s : State) : Host.Outcome State Fault Refusal :=
  s.issue 5 a.scalarOk do
    let x ← s.scalar 5 0 a
    let (die, q) ← s.queueOf x
    let was := (s.now.mod.queue die q).closed
    return ((s.onMod fun m => m.setQueue die q fun w => { w with closed := true }).onCtx Ctx.setEffect).retX 8 d (flagBit was)

end Sys2Proof.Machine
end

