-- ==== Sys2Proof/Machine/Privileged.lean ====
section
/-! DEFINITION. The privileged instructions (spec/13 R322 to R328): registers, user banks, launch control, object-table
caches, the monitor's mailbox and event-ring posts. -/

namespace Sys2Proof.Machine

/-- The level that an operation of Table 13-2 marked S needs (R322). -/
def State.privileged (s : State) : Except Stop Unit := if s.sv then .ok () else trapAt 6 kPrivilege 6 0 0

/-! ### System control registers (R323) -/

/-- R323: srd; a register that is not the supervisor's own reads as 0, and take takes: the takes of a cycle are decided at its end
(R336). -/
def execSrd (d : Option (Fin 64)) (a : Src) (s : State) : Host.Outcome State Fault Refusal :=
  s.issue 6 a.scalarOk do
    s.privileged
    let x ← s.scalar 6 0 a
    let num := fld x 0 16
    if num = takeReg then
      let (rq, s0) := s.newReq
      return (s0.onMod fun m => { m with takes := m.takes ++ [⟨s.now.cid, s.now.xid, rq⟩] }).expect 6 4 (d.map .s) rq
    else return s.retS 6 4 d (if s.now.mod.ownReg s.part num then s.now.mod.readReg num else 0)

/-- The result of a write (Table 13-2). -/
def refusalCode : RegRefusal → W64
  | .access => 1
  | .value => 2
  | .semaphore => 3

/-- R323: swr. -/
def execSwr (d : Option (Fin 64)) (a b : Src) (s : State) : Host.Outcome State Fault Refusal :=
  s.issue 6 (a.scalarOk && b.scalarOk) do
    s.privileged
    let x ← s.scalar 6 0 a
    let v ← s.scalar 6 1 b
    match s.now.mod.writeReg (.supervisor s.die s.start.core.lcore) s.part (fld x 0 16) v with
    | .ok m => return (s.onMod fun _ => m).retS 6 4 d 0
    | .error r => return s.retS 6 4 d (refusalCode r)

/-! ### User banks (R324, spec/02 Table 02-2, Table 02-3) -/

/-- 8 bytes at a byte offset into a wide register. -/
def part64 {w : Nat} (x : BitVec w) (o : Nat) : W64 := x.extractLsb' (8 * o) 64

/-- A loop level as its two words. -/
def LoopLevel.lo (l : LoopLevel) : W64 := BitVec.ofNat 64 (l.remain.toNat + l.blen.toNat * 2 ^ 32 + if l.lrform then 2 ^ 39 else 0)

/-- 8 bytes of a bank image at an offset that is a multiple of 8; res0 areas read as zero. -/
def Bank.image (b : Bank) (strict : Bool) (o : Nat) : W64 :=
  if o < 0x200 then vat 0 b.s (o / 8)
  else if o < 0x300 then part64 (vat 0 b.a ((o - 0x200) / 16)) (o % 16)
  else if o < 0x310 then BitVec.allOnes 64
  else if o < 0x480 then part64 (vat 0 b.p ((o - 0x300) / 16)) (o % 16)
  else if o < 0x500 then 0
  else if o < 0x600 then
    if o = 0x500 then b.link
    else if o = 0x508 then b.lrc.setWidth 64
    else if o = 0x510 then (b.status.setWidth 37).setWidth 64
    else if o = 0x520 then b.ptick
    else if o = 0x528 then BitVec.ofNat 64 (b.misses.toNat + if strict then 2 ^ 16 else 0)
    else if o = 0x530 then b.depth.setWidth 64
    else if 0x540 ≤ o ∧ o < 0x580 then
      let k := (o - 0x540) / 16
      let l := vat ⟨0, 0, false, 0⟩ b.loops k
      if b.depth.toNat ≤ k then 0 else if o % 16 = 0 then l.lo else l.bstart
    else if o = 0x580 then b.pc
    else if o = 0x588 then b.target
    else if o = 0x590 then b.delay.setWidth 64
    else 0
  else if o < 0xA00 then part64 (vat 0 b.sh ((o - 0x600) / 64)) (o % 64)
  else if o < 0xE00 then part64 (b.lat ((o - 0xA00) / 256 + 2)) (o % 256)
  else if o = 0xE00 then b.latS0
  else if o = 0xE08 then b.latS1
  else if o = 0xE10 then b.latC
  else if 0x1000 ≤ o ∧ o < 0x3000 then part64 (vat 0 b.v ((o - 0x1000) / 256)) (o % 256)
  else 0

/-- Replace 8 bytes at a byte offset of a wide register. -/
def putPart {w : Nat} (x : BitVec w) (o : Nat) (v : W64) : BitVec w := setFld x (8 * o) 64 v.toNat

/-- A shape register with 8 bytes written; bits [383:326] are res0 (spec/06 Table 06-3, spec/00 R8). -/
def putShape (x : Shape) (o : Nat) (v : W64) : Shape := setFld (putPart x o v) 326 58 0

/-- A bank with 8 bytes of its image written; p0, the res0 areas and strict ignore writes. -/
def Bank.putImage (b : Bank) (o : Nat) (v : W64) : Bank :=
  if o < 0x200 then { b with s := vmod b.s (o / 8) fun _ => v }
  else if o < 0x300 then { b with a := vmod b.a ((o - 0x200) / 16) fun x => putPart x (o % 16) v }
  else if o < 0x310 then b
  else if o < 0x480 then { b with p := vmod b.p ((o - 0x300) / 16) fun x => putPart x (o % 16) v }
  else if o < 0x500 then b
  else if o < 0x600 then
    if o = 0x500 then { b with link := v &&& ~~~31 }
    else if o = 0x508 then { b with lrc := v.setWidth 16 }
    else if o = 0x510 then { b with status := (v.setWidth 37).setWidth 64 }
    else if o = 0x520 then { b with ptick := v }
    else if o = 0x528 then { b with misses := v.setWidth 16 }
    else if o = 0x530 then { b with depth := v.setWidth 3 }
    else if 0x540 ≤ o ∧ o < 0x580 then
      { b with loops := vmod b.loops ((o - 0x540) / 16) fun l =>
          if o % 16 = 0 then { l with remain := v.setWidth 32, blen := v.extractLsb' 32 7, lrform := v.getLsbD 39 } else { l with bstart := v } }
    else if o = 0x580 then { b with pc := v }
    else if o = 0x588 then { b with target := v }
    else if o = 0x590 then { b with delay := v.setWidth 2 }
    else b
  else if o < 0xA00 then { b with sh := vmod b.sh ((o - 0x600) / 64) fun x => putShape x (o % 64) v }
  else if o < 0xE00 then b.setLat ((o - 0xA00) / 256 + 2) (putPart (b.lat ((o - 0xA00) / 256 + 2)) (o % 256) v)
  else if o = 0xE00 then { b with latS0 := v }
  else if o = 0xE08 then { b with latS1 := v }
  else if o = 0xE10 then { b with latC := v }
  else if 0x1000 ≤ o ∧ o < 0x3000 then { b with v := vmod b.v ((o - 0x1000) / 256) fun x => putPart x (o % 256) v }
  else b

/-- The register that an image offset lies in, when reads of it can be open or poisoned. -/
def imageReg (o : Nat) : Option WReg :=
  if o < 0x200 then some (.s (Fin.ofNat 64 (o / 8)))
  else if o < 0x300 then some (.a (Fin.ofNat 16 ((o - 0x200) / 16)))
  else if o < 0x310 then none
  else if o < 0x480 then some (.p (Fin.ofNat 24 ((o - 0x300) / 16)))
  else if o = 0x500 then some .link
  else if o = 0x508 then some .lrc
  else if 0x600 ≤ o ∧ o < 0xA00 then some (.sh (Fin.ofNat 16 ((o - 0x600) / 64)))
  else if 0xA00 ≤ o ∧ o < 0xE00 then some (.lat ((o - 0xA00) / 256 + 2))
  else if o = 0xE00 then some (.lat 0)
  else if o = 0xE08 then some (.lat 1)
  else if o = 0xE10 then some (.lat 6)
  else if 0x1000 ≤ o ∧ o < 0x3000 then some (.v (Fin.ofNat 32 ((o - 0x1000) / 256)))
  else none

/-- The context and bank offset that ubrd and ubwr name: the trapped context, or a Parked one (R324). -/
def State.bankAt (s : State) (a b : W64) : Except Stop (Nat × Nat) :=
  let x := fld a 0 3
  if s.rcd.gReg ≤ x then trapOf 6 kContextState
  else if x = s.start.xid ∨ (s.start.core.ctxs.getD x Ctx.idle).st = .parked then .ok (x, 8 * fld b 3 11)
  else trapOf 6 kContextState

/-- The user bank's windows and poisoned registers, whichever bank is active. -/
def Ctx.userWindows (c : Ctx) : List Window := if c.saved.isSome then c.savedWin else c.windows
def Ctx.userPoison (c : Ctx) : List WReg := if c.saved.isSome then c.savedPoison else c.poison

/-- R324: ubrd; a register that nothing has written yet reads as a free value, a poisoned one traps (spec/15 R388). -/
def execUbrd (d : Option (Fin 64)) (a b : Src) (s : State) : Host.Outcome State Fault Refusal :=
  s.issue 6 (a.scalarOk && b.scalarOk) do
    s.privileged
    let x ← s.scalar 6 0 a
    let y ← s.scalar 6 1 b
    let (k, o) ← s.bankAt x y
    let c := if k = s.start.xid then s.start.ctx else s.start.core.ctxs.getD k Ctx.idle
    let poisoned := (imageReg o).any fun r => c.userPoison.contains r
    let unwritten := (imageReg o).any fun r => c.userWindows.any fun w => w.reg = r
    if poisoned then trapAt 6 kPoison 2 o 0
    else return s.retS 6 2 d (if unwritten then s.free? 64 6 2 else c.user.image s.strict o)

/-- The user bank of a context with 8 bytes of its image written. -/
def Ctx.putUser (c : Ctx) (o : Nat) (v : W64) : Ctx :=
  let c1 := c.onUser fun b => b.putImage o v
  let whole := fun (r : WReg) => match r with | .s _ => true | .lat k => latWidth k = 64 | _ => false
  let ws := fun (l : List Window) => l.filter fun w => !((imageReg o = some w.reg))
  let ps := fun (l : List WReg) => l.filter fun r => !(imageReg o = some r && whole r)
  if c.saved.isSome then { c1 with savedWin := ws c1.savedWin, savedPoison := ps c1.savedPoison }
  else { c1 with windows := ws c1.windows, poison := ps c1.poison }

/-- R324: ubwr. -/
def execUbwr (d : Fin 64) (a b : Src) (s : State) : Host.Outcome State Fault Refusal :=
  s.issue 6 (a.scalarOk && b.scalarOk) do
    s.privileged
    let x ← s.scalar 6 0 a
    let y ← s.scalar 6 1 b
    let v ← s.dataS 6 2 d
    let (k, o) ← s.bankAt x y
    return { s with now := s.now.onCtx s.now.cid k fun c => c.putUser o v }

/-! ### Parks and resumption (R325, spec/14 R355 to R362) -/

/-- A park that has been asked for begins once no context of the launch holds a supervisor bank (R355). -/
def Mach.beginPark (m : Mach) (id : W32) : Mach :=
  let l := m.mod.launch id
  if l.asked ∧ l.state = .running ∧ (m.launchCores id).all fun e => e.2.svHolder.isNone then
    { m with mod := m.mod.setLaunch id fun l => { l with asked := false, state := .draining, parkTick := m.mod.tick } }
  else m

/-- Ask for a park; a request while an earlier one waits for the supervisor bank waits with it (log 72). -/
def Mach.requestPark (m : Mach) (id : W32) (src : ParkSource) (waiter : Option (Nat × Nat × Nat)) : Mach :=
  ({ m with mod := m.mod.setLaunch id fun l =>
      { l with asked := true, source := if l.asked then l.source else src, waiters := l.waiters ++ waiter.toList } }).beginPark id

/-- A parked launch enters the candidate set of its die (spec/14 R359). -/
def Mod.enterParked (m : Mod) (id : W32) : Mod :=
  let l := m.launch id
  m.setDie l.die fun d => { d with
    cands := d.cands ++ [⟨l.record, l.img, m.tick, d.order, none, some id⟩], order := d.order + 1 }

/-- An operation whose writes carry a join's tag. -/
def EngOp.tagged (o : EngOp) : Bool :=
  match o.body with
  | .move _ _ _ _ _ _ tag => tag.isSome
  | _ => false

/-- A kill drops the join-tagged writes of its context at their source, those of a faulted operation too (spec/12 R313). -/
def Ctx.dropTagged (c : Ctx) : Ctx :=
  { c with
    engine := c.engine.filter fun o => !o.tagged
    faults := c.faults.map fun f => { f with op := f.op.filter fun o => !o.tagged } }

/-- The cycles from t0 on do not count towards O (spec/14 R353, R363). -/
def Ctx.skipTime (c : Ctx) (t0 now : Nat) : Ctx :=
  { c with overSince := c.overSince.map fun t => if t < t0 then t + (now - t0) else now }

/-- A context resumes: Ready, or Blocked when it was (its held bundle is looked at again at once); its engine operations reissued,
but for tagged ones when a kill has reached it (spec/14 R362, R363). -/
def Ctx.resume (t0 now : Nat) (c : Ctx) : Ctx :=
  let c1 := if c.kills = [] then c else c.dropTagged
  { c1.skipTime t0 now with
    st := if c1.st = .parked then (if c1.wasBlocked then .blocked else .ready) else c1.st, age := 0
    engine := c1.engine.map fun o => { o with parked := false } }

/-- A launch that holds its cores runs again. -/
def Mach.resumeLaunch (m : Mach) (id : W32) : Mach :=
  let l := m.mod.launch id
  let m1 : Mach := l.cores.foldl (fun mm c => mm.onCore c fun k => { k with ctxs := k.ctxs.map (Ctx.resume l.parkTick m.mod.tick) }) m
  { m1 with mod := (m1.mod.setLaunch id fun l => { l with state := .running }).setDie l.die fun d =>
      { d with cands := d.cands.filter fun c => c.parked ≠ some id } }

/-- The launch that lctl names: its result when it may not act (R325). -/
def State.lctl (s : State) (id : W32) : Except Nat Launch :=
  match tfind id.toNat s.now.mod.launches with
  | none => .error 1
  | some l => if l.record.part ≠ s.part then .error 3 else .ok l

/-- R325, spec/14 R355: lctl.park; the next bundle is held until the park has completed or been abandoned. -/
def execLctlPark (d : Option (Fin 64)) (a : Src) (s : State) : Host.Outcome State Fault Refusal :=
  s.issue 6 a.scalarOk do
    s.privileged
    let x ← s.scalar 6 0 a
    let id : W32 := x.setWidth 32
    match s.lctl id with
    | .error r => return s.retS 6 16 d (BitVec.ofNat 64 r)
    | .ok l =>
      if l.state ≠ .running ∨ id = s.launchId then return s.retS 6 16 d 2
      else
        let (rq, s0) := s.newReq
        let s1 := (s0.expect 6 16 (d.map .s) rq).onCtx fun c => { c with pending := c.pending ++ [Pending.park id rq d] }
        return { s1 with now := s1.now.requestPark id .lctl (some (s.now.cid, s.now.xid, rq)) }

/-- R325, spec/14 R359: lctl.res resumes a launch that lctl.park parked; a saved one waits for its cores. -/
def execLctlRes (d : Option (Fin 64)) (a : Src) (s : State) : Host.Outcome State Fault Refusal :=
  s.issue 6 a.scalarOk do
    s.privileged
    let x ← s.scalar 6 0 a
    let id : W32 := x.setWidth 32
    match s.lctl id with
    | .error r => return s.retS 6 16 d (BitVec.ofNat 64 r)
    | .ok l =>
      if l.source ≠ .lctl then return s.retS 6 16 d 2
      else match l.state with
        | .parked => return ({ s with now := s.now.resumeLaunch id } : State).retS 6 16 d 0
        | .saving | .saved =>
          return (s.onMod fun m => (m.setLaunch id fun l => { l with source := .scheduler }).enterParked id).retS 6 16 d 0
        | _ => return s.retS 6 16 d 2

/-- R325: lctl.abort; an abort of the own launch ends the issuing context with it. -/
def execLctlAbort (d : Option (Fin 64)) (a : Src) (s : State) : Host.Outcome State Fault Refusal :=
  s.issue 6 a.scalarOk do
    s.privileged
    let x ← s.scalar 6 0 a
    let id : W32 := x.setWidth 32
    match s.lctl id with
    | .error r => return s.retS 6 16 d (BitVec.ofNat 64 r)
    | .ok _ =>
      let t := s.retS 6 16 d 0
      return { t with now := t.now.endLaunch id 3 }

/-! ### Object-table caches (R326, spec/15 R369) -/

/-- Host physical addresses that a port's decoders map to a device address. -/
def HostPort.hostOf (p : HostPort) (a : Nat) : List Nat :=
  p.decoders.flatMap fun d =>
    let n := d.targets.length
    let o := a % 2 ^ 48 - d.dbase
    (upTo n).filterMap fun i =>
      let h := d.base + o / 4096 * 4096 * n + 4096 * i + o % 4096
      if d.map h = some a then some h else none

/-- A physical byte is one that some of the n virtual addresses from va of a port and PASID name, or have named. -/
def Mod.readThrough (m : Mod) (port : Nat) (pasid : Option (BitVec 20)) (va n a : Nat) : Bool :=
  let hs := if hostBase ≤ a then [a - hostBase] else (m.port port).hostOf a
  (m.xlates ++ m.pastXlates).any fun t => t.port = port && t.pasid = pasid &&
    hs.any fun h => decide (t.pa ≤ h) && decide (h < t.pa + t.size) && decide (va ≤ t.va + (h - t.pa)) && decide (t.va + (h - t.pa) < va + n)

/-- A physical byte belongs to an object under an entry. -/
def Mod.entryHolds (m : Mod) (id : Nat) (e : Entry) (a : Nat) : Bool :=
  if entType e = 1 then
    if entPaged e then
      (upTo ((entLen e + 2 ^ 21 - 1) / 2 ^ 21)).any fun k => match m.place id e (k * 2 ^ 21) false with
        | .phys b => decide (b ≤ a) && decide (a < b + 2 ^ 21)
        | _ => false
    else decide (dieBase (entDie e) + entBase e ≤ a) && decide (a < dieBase (entDie e) + entBase e + entLen e)
  else if entType e = 2 then
    m.readThrough (entHp e) (entPid e) (entBase e) (entLen e) a
  else false

/-- Clean copies of an object's bytes leave every core: its bytes are read anew (R369). -/
def Mach.dropObject (m : Mach) (id : Nat) (es : List Entry) : Mach :=
  m.everyCtxAt fun b c =>
    { c.reread m.mod b fun a => es.any fun e => m.mod.entryHolds id e a with
      l1 := c.l1.filter fun x => x.1 / 2 ^ 64 ≠ id
      rcache := c.rcache.filter fun x => !es.any fun e =>
        entType e = 3 && x.1 / 2 ^ 64 = (entModule e).toNat * 2 ^ 24 + (entRid e).toNat }

/-- R326: otinv of one object. -/
def execOtinv (a : Src) (s : State) : Host.Outcome State Fault Refusal :=
  s.issue 6 a.scalarOk do
    s.privileged
    let x ← s.scalar 6 0 a
    let id := fld x 0 24
    let m1 := s.now.mod.entry id
    let s1 := s.onMod fun m => { m with entries := tdel id m.entries }
    return { s1 with now := s1.now.dropObject id (m1.toList ++ (s1.now.mod.entry id).toList) }

/-- R326: otinv.all; every clean sector is read anew. -/
def execOtinvAll (s : State) : Host.Outcome State Fault Refusal :=
  s.issue 6 true do
    s.privileged
    let s1 := s.onMod fun m => { m with entries := [] }
    return { s1 with now := s1.now.everyCtxAt fun b c => { c.reread s1.now.mod b fun _ => true with l1 := [], rcache := [] } }

/-! ### The monitor's mailbox (R327, spec/15 R387, spec/16 R393) -/

/-- What the monitor answers to a request: an error-log word, the domain status, otherwise all ones. -/
def Mod.monitorAnswer (m : Mod) (a b : W64) : W64 :=
  if fld a 0 8 = 2 ∧ fld a 10 54 = 0 then m.logWord (fld a 8 2) b.toNat
  else if a = 0x20 then m.dom.word
  else BitVec.allOnes 64

/-- Answer a request of the mailbox; a number that no request has does nothing. -/
def Mach.mailAnswer (m : Mach) (num : W64) (v : W64) : Mach :=
  match m.mod.mail.find? fun r => BitVec.ofNat 64 r.num = num with
  | none => m
  | some r => ({ m with mod := { m.mod with mail := m.mod.mail.filter (· ≠ r) } }).answer r.core r.ctx r.req (v.setWidth 2048)

/-- R327: mcall; a full mailbox holds the bundle, and the next bundle waits for the answer. -/
def execMcall (d : Option (Fin 64)) (a b : Src) (s : State) : Host.Outcome State Fault Refusal :=
  s.issue 6 (a.scalarOk && b.scalarOk) do
    s.privileged
    let x ← s.scalar 6 0 a
    let y ← s.scalar 6 1 b
    waitFor (decide (s.now.mod.mail.length < 64))
    let (rq, s0) := s.newReq
    let s1 := s0.onMod fun m =>
      { m with mail := m.mail ++ [⟨m.mailNext, s.now.cid, s.now.xid, rq, d, x, y⟩], mailNext := m.mailNext + 1 }
    return (s1.expect 6 1 (d.map .s) rq).onCtx fun c => { c with pending := c.pending ++ [Pending.monitor rq] }

/-- R327: mans, which needs monitor privilege. Brosy, which has it, runs on no core: its step is one with no launch in the
issue stage. -/
def execMans (a b : Src) (s : State) : Host.Outcome State Fault Refusal :=
  s.issue 6 (a.scalarOk && b.scalarOk) do
    if s.start.core.launch.isSome then trapAt 6 kPrivilege 6 0 0
    let x ← s.scalar 6 0 a
    let y ← s.scalar 6 1 b
    return { s with now := s.now.mailAnswer x y }

/-! ### Event rings (R328) -/

/-- Post a record for erpost: 0 posted, 1 ring disabled, 2 pending list full. -/
def Mod.erpost (m : Mod) (r : Nat) (rec : BitVec 256) : Mod × Nat :=
  if !(m.ring r).en then (m, 1)
  else if !(m.ringOpen r && !m.pendRecs.any (·.1 = r)) && m.pendFull then (m, 2)
  else (m.post r (setFld rec 32 8 0x20), 0)

/-- R328: erpost; a push to an event ring sets the effect bit (spec/01 R32). -/
def execErpost (d : Option (Fin 64)) (a b : Src) (s : State) : Host.Outcome State Fault Refusal :=
  s.issue 6 (a.scalarOk && b.vectorOk) do
    s.privileged
    let x ← s.scalar 6 0 a
    let v ← s.vector 6 1 .z64 b
    let r := s.now.mod.erpost (fld x 0 4) (v.setWidth 256)
    let s1 := s.onMod fun _ => r.1
    return (if r.2 = 0 then s1.onCtx Ctx.setEffect else s1).retS 6 8 d (BitVec.ofNat 64 r.2)

end Sys2Proof.Machine
end

