-- ==== Sys2Proof/Machine/Images.lean ====
section
/-! DEFINITION. Save images of a launch's cores (spec/14 R360, R361, Table 14-3; spec/02 Tables 02-2, 02-4; spec/08 Table
08-7; spec/07 Table 07-11; spec/09 Table 09-3), and the save slots of a die's scheduler page. -/

namespace Sys2Proof.Machine

/-- A piece of an image: its offset and bytes. -/
abbrev Piece := Nat × List Byte

/-- A word of n bytes at an offset. -/
def piece (o n v : Nat) : Piece := (o, leBytes n v)

/-- The sum of bits 2^i over the positions that a test accepts. -/
def bitsOf {α : Type} (l : List α) (f : α → Bool) : Nat := joinLanes 1 (l.map fun x => if f x then 1 else 0)

/-- A register bank image (Table 02-2). -/
def Bank.pieces (b : Bank) (strict : Bool) (o : Nat) : List Piece :=
  (upTo 2048).map fun i => piece (o + 8 * i) 8 (b.image strict (8 * i)).toNat

/-- An accumulator bank image (Table 02-4). -/
def AccBank.pieces (k : AccBank) (o : Nat) : List Piece :=
  (((upTo 32).flatMap fun i => (upTo 64).flatMap fun j =>
    let x := lowBits 40 (k.get i j)
    [piece (o + 256 * i + 4 * j) 4 (x % 2 ^ 32), piece (o + 0x2000 + 64 * i + j) 1 (x / 2 ^ 32)]) ++
  ((upTo 32).map fun i => piece (o + 0x2800 + 2 * i) 2 (lowBits 16 (k.exp i)))) ++
  [piece (o + 0x2840) 8 (if k.sticky then 1 else 0), (o + 0x2848, List.replicate 6072 0)]

/-- A mask slot as its parameter block (Table 08-7). -/
def MaskSlot.pieces (s : MaskSlot) (o : Nat) : List Piece :=
  [piece o 4 s.p0.toNat, piece (o + 4) 4 (s.n % 2 ^ 16), (o + 0x28, List.replicate 24 0)] ++
    (upTo 16).map fun i => piece (o + 8 + 2 * i) 2 (vat 0 s.av i).toNat

/-- A map: header, entries and fill-slot table. -/
def FMap.pieces (f : FMap) (o : Nat) : List Piece :=
  [piece o 8 f.header] ++ ((upTo 256).map fun j => piece (o + 0x100 + 2 * j) 2 (f.entry j)) ++
    ((upTo 256).map fun j => piece (o + 0x300 + j) 1 ((f.fill.getD []).getD j 0))

/-- The record of a parked operation, at its first element not yet written (R357); its cause is open (log 3). -/
def EngOp.parkRecord (o : EngOp) (draw : Nat) : BitVec 256 :=
  let cause := (Config.undef 8 draw 5 14).toNat
  let f : EngFault := match o.body with
    | .move src dst .. =>
      ⟨cause, true, moveCoords src dst true o.at', dst.positions - o.at', if shSpace dst.shape = 0 then capObject dst.cap else 0,
        if shSpace dst.shape = 0 then lowBits 64 (dst.offset o.at') else dst.addr o.at' % 2 ^ 22⟩
    | .fillw _ _ items => ⟨cause, true, [o.at', 0, 0, 0], items.length - o.at', 0, 0⟩
    | .lines _ moves => ⟨cause, true, [o.at', 0, 0, 0], moves.length - o.at', 0, 0⟩
    | _ => ⟨cause, true, [0, 0, 0, 0], 1, 0, 0⟩
  engRecord o true f

/-- State codes of contexts in an image. -/
def Ctx.stateCode (c : Ctx) : Nat :=
  match c.st with
  | .ending => 2
  | .ended => 3
  | .blocked => 1
  | .parked => if c.wasBlocked then 1 else 0
  | _ => 0

/-- The cluster blocks of a launch's image: threshold registers, row table and the fill list in the engine's own encoding
(log 3). -/
def Cluster.pieces (k : Cluster) (rows draw : Nat) : List Piece :=
  ((upTo 4).map fun i => piece (0x100 + 8 * i) 8 (vat 0 k.thr i).toNat) ++
    ((upTo rows).map fun r => piece (0x2000 + 4 * r) 4 (k.row r).toNat) ++
    ((upTo (8 * rows)).map fun i => piece (0x3000 + i) 1 (Config.undef 8 draw 5 (16 + i)).toNat)

/-- The image of a core of a launch (Table 14-3): its pieces, over zeros. -/
def Core.pieces (k : Core) (id : W32) (l : Launch) (strict : Bool) (draw : Nat) : List Piece :=
  let r := l.record
  let n := k.lcore
  let header := [piece 0 4 0x45564153, piece 4 4 id.toNat, piece 8 4 n, piece 0xC 4 r.pword.toNat,
    piece 0x10 8 (joinLanes 8 (k.queues.toList.map (·.length))),
    piece 0x18 4 (bitsOf k.maps.toList (·.full) + bitsOf k.masks.toList (·.loaded) * 2 ^ 4 + bitsOf k.masks.toList (fun s => !s.valid) * 2 ^ 8),
    piece 0x20 8 (joinLanes 5 (k.ctxs.map fun c => (c.engine.filter (·.parked)).length)),
    piece 0x28 8 (joinLanes 8 (k.ctxs.map Ctx.stateCode))]
  let formats := (upTo 32).map fun b => piece (0x80 + 4 * b) 4 (vat 0 k.bfmt b).toNat
  let masks := (upTo 4).flatMap fun i => (vat MaskSlot.empty k.masks i).pieces (0x200 + 64 * i)
  let maps := (upTo 4).flatMap fun i => (vat FMap.empty k.maps i).pieces (0x1000 + 0x400 * i)
  let cluster :=
    if n % 8 = 0 then (tget Cluster.fresh (if r.n < 8 then 0 else n / 8) l.clusters).pieces (if r.n < 8 then 128 * r.n else 1024) draw
    else []
  let records := (k.ctxs.mapIdx fun c x => (x.engine.filter (·.parked)).mapIdx fun j o =>
    piece (0x5000 + 512 * c + 32 * j) 32 (o.parkRecord draw).toNat).flatten
  let queues := (k.queues.toList.mapIdx fun i q => q.mapIdx fun j e => piece (0x6000 + 0x1000 * i + 256 * j) 256 e.data.toNat).flatten
  let bits := [piece 0xE000 4096 (bitsOf (upTo (128 * r.gSp)) k.full.contains)]
  let banks := (k.ctxs.mapIdx fun i c => c.user.pieces strict (0xF000 + 0x4000 * i)).flatten
  let accs := (upTo (r.gAcc / 2)).flatMap fun j =>
    let p := tget AccPair.zero j k.accs
    let o := 0xF000 + 0x4000 * (r.gReg + 2 * j)
    p.vis.pieces o ++ p.work.pieces (o + 0x4000)
  let sp := [(0xF000 + 0x4000 * (r.gReg + r.gAcc), k.spBytesAt draw 0 (16384 * r.gSp))]
  (header ++ formats ++ masks ++ maps ++ cluster ++ records ++ queues ++ bits ++ banks ++ accs ++ sp)

/-- Image size, rounded up to pages of 4 KiB. -/
def LaunchRec.imageBytes (r : LaunchRec) : Nat := 0xF000 + 16384 * (r.gReg + r.gAcc + r.gSp)

/-! ### Save slots -/

/-- Offset and length in bytes of a save slot, and its owner (Table 14-1). -/
def Mod.saveSlot (m : Mod) (die s : Nat) : Option (Nat × Nat × Nat) := do
  let off ← m.pageWord die (0x100 + 16 * s) 8
  let len ← m.pageWord die (0x100 + 16 * s + 8) 4
  let owner ← m.pageWord die (0x100 + 16 * s + 12) 4
  return (off, 4096 * len, owner)

/-- A slot number with its die, as a launch holds it. -/
def saveSlotNo (die s : Nat) : Nat := 16 * die + s

/-- The lowest-numbered free slot of a die that holds a launch's images and is not in use (R360). -/
def Mod.freeSlot (m : Mod) (die : Nat) (r : LaunchRec) (used : List Nat) : Option Nat :=
  (upTo 16).find? fun s =>
    !used.contains (saveSlotNo die s) && !(m.launches.any fun e => e.2.slot = some (saveSlotNo die s)) &&
      match m.saveSlot die s with
      | some (off, len, owner) => owner = 0 && decide (0x1000 ≤ off) && off % 4096 = 0 && decide (r.n * r.imageBytes ≤ len)
      | none => false

/-- Image offsets whose bytes are poisoned: those of poisoned registers, queue entries and scratchpad granules (spec/15 R384). -/
def Core.badOffsets (k : Core) (r : LaunchRec) : List (Nat × Nat) :=
  (k.ctxs.mapIdx fun i c => ((upTo 2048).filter fun w => (imageReg (8 * w)).any c.userPoison.contains).map fun w =>
      (0xF000 + 0x4000 * i + 8 * w, 8)).flatten ++
    (k.queues.toList.mapIdx fun i q => ((q.mapIdx fun j e => (j, e)).filter (·.2.poison)).map fun e => (0x6000 + 0x1000 * i + 256 * e.1, 256)).flatten ++
    k.spPoison.map fun g => (0xF000 + 0x4000 * (r.gReg + r.gAcc) + 8 * g, 8)

/-- Write the pieces of an image at an offset of a die's pool save area; poison goes with them. -/
def Mod.writePieces (m : Mod) (die off : Nat) (ps : List Piece) (bad : List (Nat × Nat)) : Mod :=
  let at' := fun o => (m.areaAddr die (off + o) true).map (·.1)
  let cells := ps.flatMap fun p => (p.2.mapIdx fun i b => (at' (p.1 + i)).map fun a => (a, b)).filterMap id
  m.writeBytes none cells (bad.flatMap fun x => (upTo x.2).filterMap fun i => at' (x.1 + i))

/-- Write the images of a launch's cores into its slot and name it as owner. With each core its physical number. -/
def Mod.writeImages (m : Mod) (id : W32) (slot draw : Nat) (cores : List (Nat × Core)) : Mod :=
  let die := slot / 16
  let l := m.launch id
  match m.saveSlot die (slot % 16) with
  | none => m
  | some (off, _, _) =>
    let z := l.record.imageBytes
    let m1 := cores.foldl (fun mo e =>
      (mo.writePieces die (off + e.2.lcore * z) [(0, List.replicate z 0)] []).writePieces die (off + e.2.lcore * z)
        (e.2.pieces id l (m.die (e.1 / 64)).strictOn draw) (e.2.badOffsets l.record)) m
    m1.pageWrite die (0x100 + 16 * (slot % 16) + 12) 4 id.toNat

/-! ### Reading back (R361, R362) -/

/-- Words of an image: n bytes at an offset, and whether they are poisoned; none where they cannot be read. -/
abbrev ImageRead := Nat → Nat → Option (Nat × Bool)

/-- The image at an offset of a die's pool save area. -/
def Mod.imageAt (m : Mod) (die base : Nat) : ImageRead := fun o n =>
  ((upTo n).mapM fun i => m.areaAddr die (base + o + i) false).map fun as => (leNat (as.map fun a => m.byte a.1), as.any (·.2))

/-- A word, or what stood there. -/
def ImageRead.word (rd : ImageRead) (o n old : Nat) : Nat := ((rd o n).map (·.1)).getD old

/-- A register bank read back; a poisoned word poisons its register. -/
def Ctx.readBank (c : Ctx) (strict : Bool) (rd : ImageRead) (o : Nat) : Ctx :=
  (upTo 2048).foldl (fun (c : Ctx) i => match rd (o + 8 * i) 8 with
    | none => c
    | some (v, bad) =>
      let c1 := if v = (c.user.image strict (8 * i)).toNat then c else c.putUser (8 * i) (BitVec.ofNat 64 v)
      match imageReg (8 * i) with
      | some r => if bad && !c1.poison.contains r then { c1 with poison := r :: c1.poison } else c1
      | none => c1) c

/-- An accumulator bank read back; a poisoned element is the NaN marker (log 24). -/
def AccBank.readBack (k : AccBank) (rd : ImageRead) (o : Nat) : AccBank :=
  let elem := fun (t : Tab (BitVec 40)) (n : Nat) => match rd (o + 4 * n) 4, rd (o + 0x2000 + n) 1 with
    | some (x, p), some (g, q) => tput 0 n (if p || q then BitVec.ofInt 40 acxNan else BitVec.ofNat 40 (x + g * 2 ^ 32)) t
    | _, _ => t
  { elems := (upTo 2048).foldl elem k.elems
    exps := (upTo 32).foldl (fun t i => tput 0 i (BitVec.ofNat 16 (rd.word (o + 0x2800 + 2 * i) 2 (tget 0 i t).toNat)) t) k.exps
    sticky := match rd (o + 0x2840) 8 with
      | some (w, _) => w % 2 = 1
      | none => k.sticky }

/-- A map read back: header, entries and fill-slot table. -/
def FMap.readBack (f : FMap) (rd : ImageRead) (o : Nat) (full : Bool) : FMap :=
  let h := rd.word o 8 f.header
  let count := h / 2 ^ 19 % 2 ^ 9
  { f with
    row0 := h % 2 ^ 10, n := h / 2 ^ 10 % 2 ^ 9, count := count, full := full
    entries := (upTo count).map fun j => rd.word (o + 0x100 + 2 * j) 2 (f.entry j) % 2 ^ 10
    fill := f.fill.map fun t => t.mapIdx fun j x => rd.word (o + 0x300 + j) 1 x }

/-- A mask slot read back. -/
def MaskSlot.readBack (s : MaskSlot) (rd : ImageRead) (o : Nat) (loaded valid : Bool) : MaskSlot :=
  { valid := valid, loaded := loaded, p0 := BitVec.ofNat 32 (rd.word o 4 s.p0.toNat), n := rd.word (o + 4) 2 s.n
    av := Vector.ofFn fun i => BitVec.ofNat 16 (rd.word (o + 8 + 2 * i.val) 2 (s.av[i]).toNat) }

/-- Elements that an operation goes through in all. -/
def EngOp.total (o : EngOp) : Nat :=
  match o.body with
  | .move _ dst .. => dst.positions
  | .fillw _ _ items => items.length
  | .lines _ moves => moves.length
  | _ => 1

/-- A parked operation goes on at the element that its record names (R362 step 2). -/
def EngOp.readBack (o : EngOp) (rd : ImageRead) (at' : Nat) : EngOp :=
  match rd at' 32 with
  | some (x, _) =>
    let rest := bitsAt x 128 32
    if 1 ≤ rest ∧ rest ≤ o.total ∧ o.total ≠ 1 then { o with at' := o.total - rest } else o
  | none => o

/-- A context read back: its state, bank and parked operations. -/
def Ctx.readBack (c : Ctx) (strict : Bool) (rd : ImageRead) (x : Nat) : Ctx :=
  let state := rd.word (0x28 + x) 1 c.stateCode
  let c1 := c.readBank strict rd (0xF000 + 0x4000 * x)
  let ops := c.engine.foldl (fun (r : Nat × List EngOp) o =>
    if o.parked then (r.1 + 1, r.2 ++ [o.readBack rd (0x5000 + 512 * x + 32 * r.1)]) else (r.1, r.2 ++ [o])) (0, [])
  { c1 with
    st := if state = 2 then .ending else if state = 3 then .ended else .parked
    wasBlocked := state = 1, engine := ops.2 }

/-- A core read back from its image. -/
def Core.readBack (k : Core) (r : LaunchRec) (strict : Bool) (rd : ImageRead) : Core :=
  let flags := rd.word 0x18 4 (bitsOf k.maps.toList (·.full) + bitsOf k.masks.toList (·.loaded) * 2 ^ 4 + bitsOf k.masks.toList (fun s => !s.valid) * 2 ^ 8)
  let sp := 0xF000 + 0x4000 * (r.gReg + r.gAcc)
  let bytes := (upTo (16384 * r.gSp)).filterMap fun i => (rd (sp + i) 1).map fun b => (i, b)
  { k with
    bfmt := Vector.ofFn fun b => BitVec.ofNat 32 (rd.word (0x80 + 4 * b.val) 4 (k.bfmt[b]).toNat)
    maps := Vector.ofFn fun i => (k.maps[i]).readBack rd (0x1000 + 0x400 * i.val) (flags.testBit i.val)
    masks := Vector.ofFn fun i => (k.masks[i]).readBack rd (0x200 + 64 * i.val) (flags.testBit (4 + i.val)) (!flags.testBit (8 + i.val))
    queues := Vector.ofFn fun i =>
      let q := k.queues[i]
      (upTo (min 16 (rd.word (0x10 + i.val) 1 q.length))).map fun j => match rd (0x6000 + 0x1000 * i.val + 256 * j) 256 with
        | some (v, bad) => ⟨BitVec.ofNat 2048 v, bad⟩
        | none => q.getD j ⟨0, false⟩
    full := match rd 0xE000 4096 with
      | some (v, _) => (upTo (128 * r.gSp)).filter v.testBit
      | none => k.full
    ctxs := k.ctxs.mapIdx fun x c => c.readBack strict rd x
    accs := (upTo (r.gAcc / 2)).foldl (fun t j =>
      let o := 0xF000 + 0x4000 * (r.gReg + 2 * j)
      let p := tget AccPair.zero j t
      tput AccPair.zero j ⟨p.vis.readBack rd o, p.work.readBack rd (o + 0x4000)⟩ t) k.accs
    sp := bytes.foldl (fun t e => tset e.1 (BitVec.ofNat 8 e.2.1) t) k.sp
    spPoison := (bytes.filter (·.2.2)).foldl (fun t e => sins (e.1 / 8) t) k.spPoison }

/-- The cluster blocks of an image read back: thresholds and row table (R361). -/
def Cluster.readBack (k : Cluster) (rd : ImageRead) (rows : Nat) : Cluster :=
  { k with
    thr := Vector.ofFn fun i => BitVec.ofNat 64 (rd.word (0x100 + 8 * i.val) 8 (k.thr[i]).toNat)
    rows := (upTo rows).foldl (fun t r => tput 0 r (BitVec.ofNat 32 (rd.word (0x2000 + 4 * r) 4 (k.row r).toNat)) t) k.rows }

/-- The image of logical core n of a launch in its slot; without the slot nothing can be read. -/
def Mod.imageOf (m : Mod) (l : Launch) (n : Nat) : ImageRead :=
  match l.slot with
  | none => fun _ _ => none
  | some sl => match m.saveSlot (sl / 16) (sl % 16) with
    | some (off, _, _) => m.imageAt (sl / 16) (off + n * l.record.imageBytes)
    | none => fun _ _ => none

/-- The cores and clusters of a saved launch as its images have them, on its new cores. -/
def Mod.readImages (m : Mod) (l : Launch) : List (Nat × Core) × Tab Cluster :=
  let r := l.record
  ((l.cores.zip l.images).map fun (e : Nat × Core) => (e.1, e.2.readBack r (m.die (e.1 / 64)).strictOn (m.imageOf l e.2.lcore)),
    (upTo (max 1 (r.n / 8))).foldl (fun t c =>
      tput Cluster.fresh c ((tget Cluster.fresh c t).readBack (m.imageOf l (8 * c)) (if r.n < 8 then 128 * r.n else 1024)) t) l.clusters)

/-- The slot of a launch is free again. -/
def Mod.freeOwner (m : Mod) (slot : Nat) : Mod := m.pageWrite (slot / 16) (0x100 + 16 * (slot % 16) + 12) 4 0

end Sys2Proof.Machine
end

