-- ==== Sys2Proof/Machine/Schedule.lean ====
section
/-! DEFINITION. The launch schedulers' events (spec/14 R342 to R363, spec/01 R11 to R15, spec/13 R332, R333): candidates,
placement, pre-emption, parks, saving and resumption, and the gang pacer's overrun. -/

namespace Sys2Proof.Machine

/-! ### Launch records and kernel images -/

/-- A launch record (Table 13-6) of a queue that grants a partition. -/
def launchRecord (r : Rec) (part : Nat) : LaunchRec :=
  { tag := r.extractLsb' 0 32, n := fld r 32 16, att := r.getLsbD 48, pword := r.extractLsb' 64 32
    hq := if r.getLsbD 106 then some (fld r 102 4, fld r 96 6) else none
    dl := r.getLsbD 107, pclass := fld r 108 2, ring := fld r 110 4, image := r.extractLsb' 128 128
    arg := r.extractLsb' 256 64, acap := r.extractLsb' 320 128, deadline := fld r 448 48, part := part }

/-- The legs, formats and jump tables of an image header (Table 13-9). -/
def Mod.image (m : Mod) (c : Cap) : Option Image := do
  let w := fun o n => m.capWord c o n
  let legs ← w 0x18 4
  let tables ← w 0x1C 4
  if 8 < legs ∨ 16 < tables then none
  else
    let ls ← (upTo legs).mapM fun i => do
      let e ← w (0x20 + 16 * i) 4
      let masks ← w (0x24 + 16 * i) 2
      let k ← w (0x28 + 16 * i) 4
      return (⟨e, BitVec.ofNat 8 masks, BitVec.ofNat 8 (masks / 256), k⟩ : Leg)
    let fs ← (upTo 32).mapM fun b => w (0xA0 + 4 * b) 4
    let js ← (upTo tables).mapM fun t => do
      let o ← w (0x120 + 8 * t) 4
      let n ← w (0x124 + 8 * t) 2
      return (o, n)
    return {
      codeOff := ← w 8 4, codeLen := ← w 0xC 4, dataOff := ← w 0x10 4, dataLen := ← w 0x14 4, legs := ls
      formats := Vector.ofFn fun b => BitVec.ofNat 32 (fs.getD b.val 0), jtabs := js }

/-- The capability of an image can be read and executed by a partition. -/
def Mod.imageReadable (m : Mod) (c : Cap) (part : Nat) : Bool :=
  (checkCap c 0 512 (rLd ||| rEx)).isNone && (m.protect (capObject c) (capOffset c) 512 (rLd ||| rEx) (capRights c) part true).isNone

/-- Sections and jump tables lie inside the image, with the alignment of Table 13-9. -/
def imageInside (c : Cap) (i : Image) : Bool :=
  let n := capLength c - capOffset c
  i.codeOff % 32 == 0 && i.codeLen % 32 == 0 && i.dataOff % 64 == 0 && decide (i.codeOff + i.codeLen ≤ n) &&
    decide (i.dataOff + i.dataLen ≤ n) && i.jtabs.all fun t => decide (i.dataOff + t.1 + 4 * t.2 ≤ n)

/-- N and the core class (Table 01-1). -/
def countOk (n : Nat) (att : Bool) : Bool :=
  [1, 2, 4, 8].contains n || (n % 8 = 0 && decide (16 ≤ n) && decide (n ≤ (if att then 64 else 512)))

/-- The reasons (Table 13-10) for which a record is refused before placement (R12, R332, R333), and its image. -/
def Mod.refusals (m : Mod) (raw : Rec) (r : LaunchRec) : List Nat × Image :=
  let bits := if fld raw 49 15 ≠ 0 ∨ fld raw 114 14 ≠ 0 ∨ fld raw 496 16 ≠ 0 then [6] else []
  let pw := if fld r.pword 24 8 ≠ 0 ∨ r.gReg = 0 ∨ 8 < r.gReg ∨ r.gAcc % 2 = 1 ∨ 32 < r.gAcc ∨ r.gSp % 2 = 1 ∨ 256 < r.gReg + r.gAcc + r.gSp
    then [1] else []
  let count := if countOk r.n r.att then [] else [4]
  let dies := if !r.att ∧ 64 * ((upTo 8).filter fun d => m.inPart d r.part).length < r.n then [7] else []
  let hq := match r.hq with
    | some (d, q) => if 10 ≤ d ∨ !(m.queue d q).grant.getLsbD r.part then [7] else []
    | none => []
  match m.image r.image with
  | none => (bits ++ pw ++ count ++ dies ++ hq ++ [3], Launch.none.img)
  | some i =>
    let c := r.image
    let image := if !m.imageReadable c r.part ∨ m.capWord c 0 4 ≠ some 0x44585831 ∨ !imageInside c i ∨
        i.formats.toList.any (fun f => !bankFormatOk r.gSp f) then [3] else []
    let same := if m.capWord c 4 4 = some r.pword.toNat then [] else [1]
    let legs := if i.legs.length ≠ r.gReg then [2, 3] else []
    let entries := if i.legs.any fun l => decide (i.codeLen < l.entry + 32) || decide (i.codeLen < l.kill + 32) then [2] else []
    (bits ++ pw ++ count ++ dies ++ hq ++ image ++ same ++ legs ++ entries, i)

/-- A refused launch creates nothing and posts a record; of several reasons that apply, which one is open (log 3). -/
def Mod.refuse (m : Mod) (r : LaunchRec) (reasons : List Nat) (draw : Nat) : Mod :=
  let reason := reasons.getD ((Config.undef 16 draw 7 3).toNat % reasons.length) 0
  m.post r.ring (completion r.tag.toNat 1 0 reason 0 0 0)

/-! ### Candidates (R342 to R345) -/

/-- The next launch queue that holds a record, in ascending index after the queue popped last. -/
def Mod.nextQueue (m : Mod) (die : Nat) : Option Nat :=
  let d := m.die die
  ((upTo 64).map fun i => (d.lastq + 1 + i) % 64).find? fun q => (m.queue die q).mode = 1 && (m.queue die q).recs ≠ []

/-- The one partition that a launch queue grants. -/
def WorkQueue.part (w : WorkQueue) : Nat := ((upTo 8).find? fun p => w.grant.getLsbD p).getD 0

/-- The oldest record of a launch queue leaves it. -/
def Mod.dequeue (m : Mod) (die q : Nat) : Mod :=
  (m.setQueue die q fun w => { w with recs := w.recs.drop 1, seq := w.seq + 1 }).setDie die fun d => { d with lastq := q }

/-- R342: one visit: a record leaves its queue and enters the candidate set, or is refused. -/
def Mod.popLaunch (m : Mod) (die draw : Nat) : Mod :=
  match m.nextQueue die with
  | none => m
  | some q =>
    let w := m.queue die q
    let raw := w.recs.getD 0 0
    let r := launchRecord raw w.part
    let m1 := m.dequeue die q
    match m1.refusals raw r with
    | ([], i) => m1.setDie die fun d => { d with cands := d.cands ++ [⟨r, i, m.tick, d.order, none, none⟩], order := d.order + 1 }
    | (rs, _) => m1.refuse r rs draw

/-- R342: LAUNCH_QUEUE_POP. -/
def execLaunchQueuePop (die : Nat) (s : State) : Host.Outcome State Fault Refusal :=
  s.event (decide (die < 10) && decide ((s.now.mod.die die).cands.length < 64)) (s.onMod fun m => m.popLaunch die s.free)

/-- A deadline as a tick (R343). -/
def Mod.deadline (m : Mod) (r : LaunchRec) : Nat := m.tick / 2 ^ 48 * 2 ^ 48 + r.deadline

/-- A candidate is in tier 0. -/
def Mod.urgent (m : Mod) (die : Nat) (c : Cand) : Bool :=
  c.record.dl && decide ((m.deadline c.record : Int) - m.tick ≤ m.urgency die)

def Mod.tierOf (m : Mod) (die : Nat) (c : Cand) : Nat :=
  if m.urgent die c then 0 else if c.aged.isSome then 1 else 1 + c.record.pclass

/-- The rank of a candidate: its tier, then its place in it. -/
def Mod.rank (m : Mod) (die : Nat) (c : Cand) : List Nat :=
  let t := m.tierOf die c
  if t = 0 then [0, m.deadline c.record, c.order]
  else match c.aged with
    | some n => [t, 1, n]
    | none => [t, if c.parked.isSome then 0 else 1, c.order]

/-- Candidates of a partition in rank order. -/
def Mod.ranked (m : Mod) (die part : Nat) : List Cand := sortBy (m.rank die) ((m.die die).cands.filter (·.record.part = part))

/-- R344: CANDIDATE_AGING: a candidate whose wait has reached its aging limit joins tier 1 behind its members. -/
def execCandidateAging (die idx : Nat) (s : State) : Host.Outcome State Fault Refusal :=
  let m := s.now.mod
  match (m.die die).cands[idx]? with
  | none => s.event false s
  | some c =>
    let limit := m.aging die c.record.pclass
    s.event (c.record.pclass ≠ 0 && c.aged.isNone && limit ≠ 0 && decide (c.entered + limit ≤ m.tick)) (s.onMod fun m =>
      (m.judgePage die).setDie die fun d => { d with cands := lmod d.cands idx fun c => { c with aged := some d.order }, order := d.order + 1 })

/-- R343: URGENCY_WINDOW_ENTRY: a deadline record within U ticks of its deadline takes its place in tier 0. -/
def execUrgencyWindowEntry (die idx : Nat) (s : State) : Host.Outcome State Fault Refusal :=
  let m := s.now.mod
  match (m.die die).cands[idx]? with
  | none => s.event false s
  | some c => s.event (m.urgent die c) (s.onMod fun m =>
      (m.judgePage die).setDie die fun d => { d with cands := sortBy (m.rank die) d.cands })

/-- R345: PLACEMENT_WAIT_LIMIT: a candidate unplaced for W ticks is refused; one parked by the scheduler never is. -/
def execPlacementWaitLimit (die part : Nat) (s : State) : Host.Outcome State Fault Refusal :=
  let m := s.now.mod
  let w := m.wlimit die
  match (m.ranked die part).find? fun c => c.parked.isNone && decide (c.entered + w ≤ m.tick) with
  | none => s.event false s
  | some c => s.event (w ≠ 0) (s.onMod fun m =>
      (((m.judgePage die).setDie die fun d => { d with cands := d.cands.filter (· ≠ c), wrefused := d.wrefused + 1 }).refuse c.record [5] s.free).report die)

/-! ### Placement (R347, R348) -/

/-- Clusters of a die. -/
def clustersOf (die : Nat) : Nat := if die < 8 then 8 else 4

/-- A core is free: no launch holds it; cores in `given` count as free. -/
def Mod.coreFree (m : Mod) (given : List Nat) (c : Nat) : Bool :=
  given.contains c || !m.launches.any fun l => l.2.cores.contains c

/-- Free cores of a cluster, ascending. -/
def Mod.freeCores (m : Mod) (given : List Nat) (die cl : Nat) : List Nat :=
  ((upTo 8).map fun p => die * 64 + cl * 8 + p).filter (m.coreFree given)

/-- Dies that a launch may be placed on: ready ones of its class and partition. -/
def Mod.placeDies (m : Mod) (r : LaunchRec) : List Nat :=
  (if r.att then [8, 9] else (upTo 8).filter fun d => m.inPart d r.part).filter fun d => m.rdy.getLsbD (1 + d)

/-- The cores that a launch takes, by logical index; `partly`: only from a cluster that is not wholly free (R348). -/
def Mod.fit (m : Mod) (die : Nat) (r : LaunchRec) (given : List Nat) (partly : Bool) : Option (List Nat) :=
  let clusters := (m.placeDies r).flatMap fun d => (upTo (clustersOf d)).map fun k => (d, k)
  if r.n < 8 then
    let ok := clusters.filter fun e => decide (r.n ≤ (m.freeCores given e.1 e.2).length) && !(partly && (m.freeCores given e.1 e.2).length = 8)
    (sortBy (fun (e : Nat × Nat) => [(m.freeCores given e.1 e.2).length, if e.1 = die then 0 else 1, e.1, e.2]) ok).head?.map fun e =>
      (m.freeCores given e.1 e.2).take r.n
  else
    let whole := (sortBy (fun (e : Nat × Nat) => [if e.1 = die then 0 else 1, dieHops die e.1, e.1, e.2]) clusters).filter fun e =>
      (m.freeCores given e.1 e.2).length = 8
    if whole.length < r.n / 8 then none else some ((whole.take (r.n / 8)).flatMap fun e => m.freeCores given e.1 e.2)

/-! ### The state of a launch's cores at entry (R15, Table 01-2) -/

/-- Windows of the registers that are undefined until first written: link and the latches. -/
def entryWindows : List Window := ⟨.link, none, none⟩ :: (upTo 7).map fun k => ⟨.lat k, none, none⟩

/-- A context at entry. Its first snapshot is memory as the launch is accepted (log 58). -/
def entryCtx (r : LaunchRec) (leg : Leg) (lcore x : Nat) (snap : List Host.Cell) : Ctx :=
  let lcl := if r.n < 8 then 0 else lcore / 8
  let b := Bank.zero
  { Ctx.idle with
    st := .ready, snap := snap
    windows := entryWindows
    bank := { b with
      s := ((((b.s.set 0 (BitVec.ofNat 64 x)).set 1 (BitVec.ofNat 64 lcore)).set 2 (BitVec.ofNat 64 r.n)).set 3 (BitVec.ofNat 64 lcl)).set 4 r.arg
      a := b.a.set 0 r.acap, pc := BitVec.ofNat 64 leg.entry } }

/-- A core at entry. -/
def entryCore (id : W32) (r : LaunchRec) (i : Image) (lcore : Nat) (snap : List Host.Cell) : Core :=
  { Core.idle with
    launch := some id, lcore := lcore, bfmt := i.formats
    ctxs := i.legs.mapIdx fun x leg => entryCtx r leg lcore x snap }

/-- A core as a launch enters it: the contexts start from what has reached the homes of memory (log 58). -/
def Mod.entered (m : Mod) (id : W32) (r : LaunchRec) (i : Image) (lcore c : Nat) : Core :=
  let k := entryCore id r i lcore m.mem
  { k with ctxs := k.ctxs.mapIdx fun x y => y.reread m (m.source c k x) fun _ => true }

/-- Accept a candidate on the cores chosen (R329, R347). -/
def Mod.accept (m : Mod) (die : Nat) (c : Cand) (cores : List Nat) : Mod :=
  let n := ((m.die die).accepted + 1) % 2 ^ 28
  let id : W32 := BitVec.ofNat 32 (die + n * 16)
  let l : Launch := { Launch.none with
    record := c.record, img := c.img, die := die, tier := 1 + c.record.pclass, accepted := m.tick, cores := cores }
  let m1 := m.setDie die fun d => { d with accepted := n, cands := d.cands.filter (· ≠ c) }
  let m2 := { m1 with launches := tset id.toNat l m1.launches }
  { m2 with cores := (cores.mapIdx fun i p => (p, i)).foldl (fun t e => tset e.1 (m2.entered id c.record c.img e.2 e.1) t) m2.cores }

/-- The ring of a record is waiting while the pending list is full: such a launch is not accepted (spec/13 R337). -/
def Mod.ringWaits (m : Mod) (r : Nat) : Bool := m.pendFull && m.pendRecs.any (·.1 = r)

/-- Victims in their order: the highest tier first, then the most recently accepted. -/
def victimRank (e : Nat × Launch) : List Nat := [8 - e.2.tier, 2 ^ 64 - e.2.accepted, 2 ^ 32 - e.1]

/-- Cores of launches that the scheduler has parked, with the launches, most pressing victim first. -/
def Mod.parkedVictims (m : Mod) (part : Nat) : List (Nat × Launch) :=
  sortBy victimRank (m.launches.filter fun e =>
    e.2.record.part = part && e.2.state = .parked && e.2.source = .scheduler)

/-- The shortest run of victims whose cores let a launch fit. -/
def Mod.enough (m : Mod) (die : Nat) (r : LaunchRec) : List Nat → List (Nat × Launch) → List (Nat × Launch) → Option (List (Nat × Launch))
  | given, taken, vs =>
    if (m.fit die r given false).isSome then some taken
    else match vs with
      | [] => none
      | v :: t => m.enough die r (given ++ v.2.cores) (taken ++ [v]) t

/-- Parked launches whose cores the scheduler gives away begin to be saved, each into its slot (R360). -/
def Mod.beginSaves (m : Mod) (die : Nat) (vs : List (Nat × Launch)) : Mod :=
  vs.foldl (fun mo v => match mo.freeSlot die v.2.record [] with
    | some s => mo.setLaunch (BitVec.ofNat 32 v.1) fun l => { l with state := .saving, slot := some (saveSlotNo die s) }
    | none => mo) m

/-- The candidate that R348 lets the scheduler place, with its cores. -/
def Mod.placeable (m : Mod) (die part : Nat) : Option (Cand × List Nat) :=
  match m.ranked die part with
  | [] => none
  | c :: rest =>
    match m.fit die c.record [] false with
    | some cores => some (c, cores)
    | none =>
      if c.record.n < 8 then none
      else rest.findSome? fun x =>
        if x.record.n < 8 ∧ x.parked.isNone then (m.fit die x.record [] true).map fun cores => (x, cores) else none

/-- R347: PLACEMENT: the scheduler of a die places the top candidate of a partition on free cores and accepts it; when only
the cores of launches it has parked let it fit, it begins to save those (R358). -/
def execPlacement (die part : Nat) (s : State) : Host.Outcome State Fault Refusal :=
  let m := s.now.mod
  match m.placeable die part with
  | some (c, cores) =>
    s.event (decide (die < 10) && c.parked.isNone && !m.ringWaits c.record.ring) (s.onMod fun m => (m.judgePage die).accept die c cores)
  | none =>
    match m.ranked die part with
    | c :: _ =>
      match m.enough die c.record [] [] (m.parkedVictims part) with
      | some vs => s.event (decide (die < 10) && c.parked.isNone) (s.onMod fun m => (m.judgePage die).beginSaves die vs)
      | none => s.event false s
    | [] => s.event false s

/-! ### Pre-emption (R356) -/

/-- Running launches of a partition that a candidate of a tier may displace, the first victim first. -/
def Mod.victims (m : Mod) (part tier : Nat) : List (Nat × Launch) :=
  sortBy victimRank (m.launches.filter fun e =>
    e.2.record.part = part && e.2.state = .running && !e.2.asked && decide (tier < e.2.tier))

/-- Victims that have a free slot of sufficient length, each slot counted once. -/
def Mod.slotted (m : Mod) (die : Nat) : List Nat → List (Nat × Launch) → List (Nat × Launch)
  | _, [] => []
  | used, v :: t =>
    match m.freeSlot die v.2.record used with
    | some s => v :: m.slotted die (saveSlotNo die s :: used) t
    | none => m.slotted die used t

/-- Cores that pre-emption already under way will free. -/
def Mod.pledged (m : Mod) (part : Nat) : List Nat :=
  (m.launches.filter fun e => e.2.record.part = part && e.2.source = .scheduler &&
    (e.2.asked || e.2.state = .draining || e.2.state = .parked || e.2.state = .saving)).flatMap fun e => e.2.cores

/-- R356: PREEMPTION_DECISION. -/
def execPreemptionDecision (die part : Nat) (s : State) : Host.Outcome State Fault Refusal :=
  let m := s.now.mod
  match m.ranked die part with
  | [] => s.event false s
  | c :: _ =>
    let t := m.tierOf die c
    let cls := if t = 0 then 0 else c.record.pclass
    let due := decide (c.entered + m.ptime die ≤ m.tick) && (m.preMask die).testBit cls && (m.fit die c.record (m.pledged part) false).isNone
    match m.enough die c.record (m.pledged part) [] (m.slotted die [] (m.victims part t)) with
    | none => s.event false s
    | some vs => s.event due (let s1 := s.onMod fun m => m.judgePage die
        { s1 with now := vs.foldl (fun mm v => mm.requestPark (BitVec.ofNat 32 v.1) .scheduler none) s1.now })

/-! ### Parks (R357) -/

/-- Every result that the launch has issued has landed, and its matrix engines are idle. -/
def Mach.launchLanded (m : Mach) (id : W32) : Bool :=
  (m.launchCores id).all fun e => e.2.meq = [] && e.2.reqs = [] && e.2.ctxs.all fun c => c.windows.all fun w => w.req.isNone

/-- A context of a launch being parked: its engine operations that have not left the module park where they are. -/
def Ctx.park (c : Ctx) : Ctx :=
  { c with
    st := (match c.st with | .ready | .running | .blocked => .parked | x => x)
    wasBlocked := c.st = .blocked, windows := c.settle.windows
    engine := c.engine.map fun o => { o with parked := o.status = 0, gw := [] } }

/-- Everything that a park's completion does (R357 steps 4 and 5): writes made stand, contexts become Parked. -/
def Mach.completePark (m : Mach) (id : W32) : Mach :=
  let l := m.mod.launch id
  let m1 : Mach := l.cores.foldl (fun mm c =>
    let flushed : Mach := { mm with mod := (mm.mod.flushEngines (mm.coreAt c).ctxs).dropPoppers c none }
    flushed.onCore c fun k => { k with running := none, ctxs := k.ctxs.map Ctx.park }) m
  let mod1 := (m1.mod.setLaunch id fun l => { l with state := .parked, waiters := [], parkOrder := (m.mod.die l.die).order }).setDie l.die
    fun d => { d with parks := d.parks + 1, order := d.order + 1 }
  let mod2 := (if l.source = .scheduler then mod1.enterParked id else mod1).report l.die
  l.waiters.foldl (fun (mm : Mach) w => mm.answer w.1 w.2.1 w.2.2 0) { m1 with mod := mod2 }

/-- R357: PARK_COMPLETE, up to the deadline. -/
def execParkComplete (launch : W32) (s : State) : Host.Outcome State Fault Refusal :=
  let l := s.now.mod.launch launch
  s.event (l.state = .draining && s.now.launchLanded launch && decide (s.now.mod.tick ≤ l.parkTick + s.now.mod.drainLimit l.die)) { s with now := s.now.completePark launch }

/-- Issue resumes after a park that could not drain. -/
def Mach.abandonPark (m : Mach) (id : W32) : Mach :=
  let l := m.mod.launch id
  let m1 : Mach := l.cores.foldl (fun mm c => mm.onCore c fun k => { k with ctxs := k.ctxs.map (Ctx.skipTime · l.parkTick m.mod.tick) })
    { m with mod := m.mod.setLaunch id fun l => { l with state := .running, waiters := [] } }
  l.waiters.foldl (fun (mm : Mach) w => mm.answer w.1 w.2.1 w.2.2 2) m1

/-- R357: PARK_ABANDON. -/
def execParkAbandon (launch : W32) (s : State) : Host.Outcome State Fault Refusal :=
  let l := s.now.mod.launch launch
  let limit := l.parkTick + s.now.mod.drainLimit l.die
  s.event (l.state = .draining && decide (limit ≤ s.now.mod.tick) && (!s.now.launchLanded launch || decide (limit < s.now.mod.tick)))
    { s with now := s.now.abandonPark launch }

/-! ### Saving and resumption (R360 to R363) -/

/-- R360: SAVE_COMPLETE: the images are in the slot, the slot has its owner, and the cores are free. -/
def Mach.completeSave (m : Mach) (id : W32) (draw : Nat) : Mach :=
  let u := m.unload
  let l := u.mod.launch id
  let cores := l.cores.map fun c => tget Core.idle c u.mod.cores
  let mod1 := u.mod.writeImages id (l.slot.getD 0) draw (l.cores.zip cores)
  { u with mod := { (mod1.setLaunch id fun l => { l with state := .saved, images := cores, cores := [] }) with
      cores := l.cores.foldl (fun t c => tdel c t) mod1.cores } }

def execSaveComplete (launch : W32) (s : State) : Host.Outcome State Fault Refusal :=
  let quiet := (s.now.launchCores launch).all fun e => e.2.ctxs.all fun c => c.acks = [] && c.engine.all (·.parked)
  s.event ((s.now.mod.launch launch).state = .saving && quiet) { s with now := s.now.completeSave launch s.free }

/-- Every die of an overrun launch has a ceiling at least equal to the greatest duty of its contexts (R353). -/
def Mach.ceilingsRisen (m : Mach) (id : W32) : Bool :=
  let ks := m.launchCores id
  let duty := (ks.flatMap fun e => e.2.ctxs.filterMap (·.duty)).foldl max 0
  ks.all fun e => decide (duty ≤ (m.mod.die (e.1 / 64)).ceil)

/-- A saved launch takes new cores and is read back (R358). -/
def Mod.beginRestore (m : Mod) (id : W32) (cores : List Nat) : Mod :=
  let l := m.launch id
  (m.setLaunch id fun l => { l with state := .restoring, cores := cores }).setDie l.die fun d =>
    { d with cands := d.cands.filter fun c => c.parked ≠ some id }

/-- R361, R362: RESUMPTION of a launch that the scheduler or an overrun has parked, or of a saved one; when only the cores of
launches that the scheduler has parked let a saved one fit, those begin to be saved (R358). -/
def execResumption (launch : W32) (s : State) : Host.Outcome State Fault Refusal :=
  let m := s.now.mod
  let l := m.launch launch
  let top := match m.ranked l.die l.record.part with | c :: _ => c.parked = some launch | [] => false
  match l.state, l.source with
  | .parked, .scheduler => s.event top (let s1 := s.onMod fun m => m.judgePage l.die
      { s1 with now := s1.now.resumeLaunch launch })
  | .parked, .overrun => s.event (s.now.ceilingsRisen launch) { s with now := s.now.resumeLaunch launch }
  | .saved, _ =>
    match m.fit l.die l.record [] false with
    | some cores => s.event top (s.onMod fun m => (m.judgePage l.die).beginRestore launch cores)
    | none => match m.enough l.die l.record [] [] (m.parkedVictims l.record.part) with
      | some vs => s.event top (s.onMod fun m => (m.judgePage l.die).beginSaves l.die vs)
      | none => s.event false s
  | _, _ => s.event false s

/-- R362: RESTORE_COMPLETE: the images are read back onto the new cores, the launch runs, and its slot is free. -/
def Mach.completeRestore (m : Mach) (id : W32) : Mach :=
  let l := m.mod.launch id
  let back := m.mod.readImages l
  let mod1 := { m.mod with cores := back.1.foldl (fun t (e : Nat × Core) => tput Core.idle e.1 e.2 t) m.mod.cores }
  let mod2 := mod1.setLaunch id fun l => { l with images := [], slot := none, clusters := back.2 }
  ({ m with mod := match l.slot with | some sl => mod2.freeOwner sl | none => mod2 } : Mach).resumeLaunch id

def execRestoreComplete (launch : W32) (s : State) : Host.Outcome State Fault Refusal :=
  s.event ((s.now.mod.launch launch).state = .restoring) { s with now := s.now.completeRestore launch }

/-! ### The pacer (R353) and the arbiter's hold (R21) -/

/-- A context of a launch on a die has had a duty above the die's ceiling for O ticks, with no boundary in them. -/
def Mach.overCeiling (m : Mach) (die : Nat) (id : W32) : Bool :=
  (m.launchCores id).any fun e => e.1 / 64 = die && e.2.ctxs.any fun c =>
    c.duty.any (fun d => decide ((m.mod.die die).ceil < d)) && c.overSince.any fun t => decide (t + m.mod.overrunLimit die ≤ m.mod.tick)

/-- R353: PACER_OVERRUN. -/
def execPacerOverrun (die : Nat) (launch : W32) (s : State) : Host.Outcome State Fault Refusal :=
  let m := s.now.mod
  let l := m.launch launch
  s.event (m.overrunLimit die ≠ 0 && l.state = .running && !l.asked && s.now.overCeiling die launch)
    (let counted : Mach := { s.now with mod := (m.setDie die fun d => { d with overruns := d.overruns + 1 }).report die }
     { s with now := counted.requestPark launch .overrun none })

/-- The run of the Running context ends: it is Ready. -/
def Core.endRun (k : Core) : Core :=
  match k.running with
  | none => k
  | some x => { k with running := none, ctxs := lmod k.ctxs x fun c => (if c.st = .running then { c with st := .ready, age := 0 } else c : Ctx) }

/-- Another Ready context has reached age 48 (R21). -/
def Core.aged (k : Core) : Bool :=
  (k.ctxs.mapIdx fun i c => (i, c)).any fun e => k.running ≠ some e.1 && e.2.st = .ready && decide (48 ≤ e.2.age)

/-- R21: AGING_HOLD. -/
def execAgingHold (core : Nat) (s : State) : Host.Outcome State Fault Refusal :=
  let k := s.now.coreAt core
  s.event (k.running.isSome && k.aged) { s with now := s.now.onCore core Core.endRun }

end Sys2Proof.Machine
end

