-- ==== Sys2Proof/Machine/Turn.lean ====
section
/-! DEFINITION. What a core does beside issuing bundles: kills (spec/01 R34, spec/09 R273, spec/12 R312, R313), delivery of
pending faults (spec/15 R377, R382), what holds a context after a bundle (spec/04 R109, spec/01 R35, spec/15 R381), requests at
its banks (spec/02 R60, R61), contexts that end (R16, R27), and the choice of the arbiter (R21, spec/14 R350, R351). -/

namespace Sys2Proof.Machine

/-! ### Kills -/

/-- The record of a kill (Table 09-9); its number is the home's to give. -/
def killRecord (k : KillReq) (b : Bank) (lcore x tick : Nat) : BitVec 512 :=
  BitVec.ofNat 512 (k.handle.toNat + k.gen % 2 ^ 32 * 2 ^ 64 + k.member * 2 ^ 96 + (if b.flag statusEffect then 2 ^ 102 else 0) +
    (if b.flag statusHeld then 2 ^ 103 + b.handle.toNat * 2 ^ 112 else 0) + lcore * 2 ^ 144 + x * 2 ^ 160 +
    k.staged % 2 ^ 32 * 2 ^ 192 + tick * 2 ^ 256)

/-- The home of a join numbers a kill record and writes it to the kill log (R273). -/
def Mod.writeKill (m : Mod) (h : W64) (r : BitVec 512) : Mod :=
  let s := m.joinSlot (joinKey h)
  match s.join.or s.last with
  | none => m
  | some j =>
    if s.check ≠ joinCheck h then m
    else
      let upd := fun (j : Join) => { j with kills := j.kills + 1 }
      let m1 := if capLength j.klog = 0 then m else (m.capStore j.klog (64 * (j.kills % 16)) ((leBytes 64 (setFld r 224 32 j.kills).toNat).map fun b => (b, false)) none).1
      m1.setJoin (joinKey h) fun s => { s with join := s.join.map upd, last := if s.join.isSome then s.last else s.last.map upd }

/-- A kill record reaches its join. -/
def Mod.reportKill (m : Mod) (h : W64) (r : BitVec 512) : Mod :=
  if m.joinRemote h then m.joinSend (joinModule h) (.killed h r) [] else m.writeKill h r

/-- A kill can take effect on the context: no handling, and no hand-over or replay, is under way (R312, spec/13 R318). -/
def Ctx.killable (c : Ctx) : Bool :=
  c.kills ≠ [] && c.saved.isNone && !c.waitBank && c.st ≠ .ending && c.st ≠ .ended &&
    c.pending.all fun p => match p with | .handler _ => false | .replay .. => false | _ => true

/-- Remote reads that wait for the context are withdrawn (R61): their registers keep what they hold. -/
def Mach.withdraw (m : Mach) : Mach :=
  let reads := fun (r : RemoteReq) => r.core = m.cid && r.ctx = m.xid && (match r.act with | .read .. => true | .lines .. => true | _ => false)
  let cores := (m.mod.launch (m.core.launch.getD 0)).cores
  let gone := cores.flatMap fun c => ((m.coreAt c).reqs.filter reads).map (·.req)
  let m1 := cores.foldl (fun (mm : Mach) c => mm.onCore c fun k => { k with reqs := k.reqs.filter fun r => !reads r }) m
  { m1 with ctx := { m1.ctx with
      windows := m1.ctx.windows.map fun w => if w.req.any gone.contains then { w with req := none } else w } }

/-- Packets are dropped at their source: those that wait leave the queue; of one that is with the fabric nothing is left but its
number, which the receiver's window has to pass (R313; log 19). -/
def Mod.dropPackets (m : Mod) (which : Packet → Bool) : Mod :=
  let void := fun (p : Packet) =>
    let q := { p with payload := p.payload.take 3 ++ [0], len := 4, bmask := 0 }
    { q with hac := m.dom.hac q }
  { m with dom := { m.dom with
      queued := m.dom.queued.filter fun p => !which p
      sent := m.dom.sent.map fun p => if which p then void p else p } }

/-- The oldest kill of the context in the issue stage takes effect (R34, R273, R313): the task is dropped, tagged writes not yet
home are dropped, the killed flag is set, and the context goes on at its kill entry, ungrouped. -/
def Mach.killTake (m : Mach) : Mach :=
  match m.ctx.kills with
  | [] => m
  | k :: rest =>
    let m1 := m.withdraw
    let c := m1.ctx
    let serials := (c.engine.filter EngOp.tagged ++ (c.faults.filterMap (·.op)).filter EngOp.tagged).filterMap (·.serial)
    let c1 := serials.foldl Ctx.acked c.dropTagged
    let mod1 := m1.mod.dropPackets fun p => p.op = opTagged && fld (p.payload.getD 2 0) 0 48 = m1.memberOf m1.cid + m1.xid * 2 ^ 44 &&
      c.acks.contains (fld (p.payload.headD 0) 0 32 * 2 ^ 13 + p.dst.toNat)
    let rec' := killRecord k c.bank m1.core.lcore m1.xid m1.mod.tick
    let leg := (m1.mod.launch (m1.core.launch.getD 0)).leg m1.xid
    { m1 with
      mod := (mod1.dropPoppers m1.cid (some m1.xid)).reportKill k.handle rec'
      core := { m1.core with running := if m1.core.running = some m1.xid then none else m1.core.running }
      ctx := { c1 with
        kills := rest, bank := (c1.bank.dropTask.setFlag statusKilled true).restart leg.kill
        windows := c1.windows.filter (·.reg ≠ .lrc), st := .ready, age := 0, duty := none, overSince := none, joinWait := none, waitTick := none
        pending := c1.pending.filter Pending.outlives, pageFail := none, remoteFail := none, checked := [], lineGot := [], joinTold := none } }

/-! ### Pending faults -/

/-- The pending fault that comes first (R377): that of a user trap at once, else the oldest, the lower command index, M before
X. While the supervisor handles a fault only those of its own operations count. -/
def Ctx.firstFault (c : Ctx) : Option PendFault :=
  let mine := c.faults.filter fun f => c.saved.isNone || f.sv
  match mine.find? (·.kind = kUser) with
  | some f => some f
  | none => (sortBy (fun (f : PendFault) => [f.found, f.cmd, if f.op.isSome then 1 else 0]) mine).head?

/-- The fault that the context in the issue stage can deliver now: every operation has landed (spec/05 R148). -/
def Mach.dueFault (m : Mach) : Option PendFault :=
  if m.core.landed m.xid m.ctx then m.ctx.firstFault else none

/-- A record as delivered: that of a failed publish names the held bundle (R372). -/
def PendFault.delivered (f : PendFault) (pc : W64) : BitVec 256 :=
  if (f.kind = kPage ∨ f.kind = kDomain) ∧ fld f.record 16 3 = 7 then setFld f.record 64 64 pc.toNat else f.record

/-- Deliver a pending fault (R377); while another context holds the supervisor bank it stays pending (spec/13 R318). -/
def Mach.deliver (m : Mach) (f : PendFault) : Mach :=
  let r := f.delivered m.ctx.bank.pc
  if m.ctx.saved.isNone ∧ m.enterable f.kind ∧ m.bankTaken then m.exception f.kind f.sub r f.op
  else
    ({ m with
      mod := m.mod.dropPoppers m.cid (some m.xid)
      ctx := { m.ctx with faults := m.ctx.faults.erase f, joinWait := none, waitTick := none } } : Mach).exception f.kind f.sub r f.op

/-- The issue stage after a delivery: a context that waits for the supervisor bank has ended its run. -/
def Mach.afterTrap (m : Mach) : Mach :=
  if m.core.running = some m.xid ∧ m.ctx.st ≠ .running ∧ m.ctx.st ≠ .ending then { m with core := { m.core with running := none } } else m

/-! ### What holds a context after a bundle -/

/-- A value lands in what waits for it; bits above 64 of lat.x are open (spec/02 R45). -/
def Mach.landX (m : Mach) (draw rq : Nat) (v : W64) : Mach :=
  { m with ctx := m.ctx.land rq fun r => match r with | .lat 5 => latched64 draw v | _ => v.setWidth 2048 }

/-- What follows a publish that is complete (spec/04 Table 04-2). -/
def Mach.afterPublish (m : Mach) (draw : Nat) : After → Mach
  | .nothing => m
  | .refresh sc => m.refresh sc
  | .reads _ => m
  | .strong x =>
    match m.strongGo draw x with
    | (m1, some v) => if x.hasResult then m1.landX draw x.rq v else m1
    | (m1, none) => m1
  | .barrier sc key n => m.barrierArrive sc key n
  | .arrive h w _ rq =>
    match m.arriveGo h w rq with
    | (m1, some v) => m1.landX draw rq v
    | (m1, none) => m1
  | .push die q r rq => (m.queuePush die q r).1.landX draw rq (m.queuePush die q r).2
  | .heap a b rq => (m.heapGo a b).1.landX draw rq (m.heapGo a b).2

/-- The first of what the context waits for is over. -/
def Mach.dropPending (m : Mach) (p : Pending) : Mach := { m with ctx := { m.ctx with pending := m.ctx.pending.erase p } }

/-- A handler record that waits: pushed once its queue has room, which counts the fault as handed over; a queue that no longer takes
it ends the launch with that record's fault (R35). -/
def Mach.pushWaiting (m : Mach) (p : Pending) (r : Rec) : Mach × Bool :=
  let l := m.mod.launch (m.core.launch.getD 0)
  let lost := fun (_ : Unit) => (m.endLost (r.extractLsb' 96 32) (r.extractLsb' 64 32), true)
  match l.record.hq with
  | none => lost ()
  | some (die, q) =>
    if !(m.mod.queue die q).open then lost ()
    else if (m.mod.queue die q).full then (m, false)
    else
      let m1 := (m.pushHand die q r).dropPending p
      (if m1.ctx.pending.any fun p => match p with | .handler _ => true | _ => false then m1 else m1.restartFaulted (l.leg m.xid).entry, true)

/-- A replayed task that waits (R381): pushed once its queue has room; a queue that no longer takes it makes the fault handed
over instead. -/
def Mach.replayWaiting (m : Mach) (p : Pending) (r hand : Rec) : Mach × Bool :=
  let id := m.core.launch.getD 0
  let h := m.ctx.bank.handle
  let die := fld h 28 4
  let q := fld h 22 6
  if !(m.mod.queue die q).open then
    ({ m with
      mod := m.mod.noteFault id (hand.extractLsb' 96 32) h
      ctx := { m.ctx with pending := m.ctx.pending.map fun x => if x = p then Pending.handler hand else x } }, true)
  else if (m.mod.queue die q).full then (m, false)
  else ((({ m with mod := m.mod.push die q m.selfRank r } : Mach).dropPending p).restartFaulted ((m.mod.launch id).leg m.xid).entry, true)

/-- A spawned record that waits (spec/06 R191); a queue that no longer takes it makes it a task-state fault, whose record names slot
C (log 73). -/
def Mach.spawnWaiting (m : Mach) (p : Pending) (r : Rec) : Mach × Bool :=
  match (m.mod.launch (m.core.launch.getD 0)).record.hq with
  | none => (m.dropPending p, true)
  | some (die, q) =>
    if !(m.mod.queue die q).open then
      let f : PendFault := ⟨kTaskState, 0, trapRecord ⟨kTaskState, 0, 6, 0, 0⟩ m.ctx.bank.pc.toNat, m.mod.tick, 0, none, m.ctx.saved.isSome⟩
      (({ m with ctx := { m.ctx with faults := m.ctx.faults ++ [f] } } : Mach).dropPending p, true)
    else match m.mod.pushHandler die q m.selfRank r with
      | some mo => (({ m with mod := mo } : Mach).dropPending p, true)
      | none => (m, false)

/-- One attempt at the first of what the context in the issue stage waits for: the machine, and whether it went on. -/
def Mach.pendStep (m : Mach) (draw : Nat) : Mach × Bool :=
  match m.ctx.pending with
  | [] => (m, false)
  | p :: _ =>
    match p with
    | .publish sc after =>
      let r := m.publish sc after
      if r.2 then ((r.1.dropPending p).afterPublish draw after, true) else (r.1, false)
    | .acks [] => (m.dropPending p, true)
    | .spawn r => m.spawnWaiting p r
    | .handler r => m.pushWaiting p r
    | .replay r hand => m.replayWaiting p r hand
    | _ => (m, false)

/-- Attempts until the first of what it waits for stays. -/
def Mach.pendRun : Nat → Mach → Nat → Mach
  | 0, m, _ => m
  | n + 1, m, draw =>
    let r := m.pendStep draw
    if r.2 && r.1.core.launch.isSome then r.1.pendRun n draw else r.1

/-- An operation on context x of core c with it in the issue stage. -/
def Mach.within (m : Mach) (c x : Nat) (f : Mach → Mach) : Mach :=
  if (m.coreAt c).launch.isSome ∧ x < (m.coreAt c).ctxs.length then (f (m.unload.load c x)).unload else m

/-- The same for every context of a core, in index order. -/
def Mach.each (m : Mach) (c : Nat) (f : Mach → Mach) : Mach :=
  (upTo (m.coreAt c).ctxs.length).foldl (fun (mm : Mach) x => mm.within c x f) m

def Mach.pendCycle (m : Mach) (draw c : Nat) : Mach :=
  m.each c fun mm => if mm.ctx.pending = [] then mm else mm.pendRun 8 draw

/-! ### Requests at the banks of a core (R60, R61) -/

/-- A request whose data is poisoned is answered with Undefined(), and the poisoned-data trap of its bundle is pending (R61, spec/15
R385, R387; log 68). -/
def Mach.badAnswer (m : Mach) (draw c : Nat) (r : RemoteReq) : Mach :=
  let k := m.coreAt r.core
  let f : PendFault := ⟨kPoison, 3, trapRecord ⟨kPoison, 3, r.slot, r.addr, 0⟩ r.pc.toNat, m.mod.tick, 0, none, r.sv⟩
  let m1 := (m.answer r.core r.ctx r.req (Config.undef 2048 draw 7 13)).onCtx r.core r.ctx fun y => { y with faults := y.faults ++ [f] }
  { m1 with mod := m1.mod.logError (errorRecord 4 (c / 64) 1 k.lcore 1 r.addr (k.launch.getD 0).toNat) }

/-- Serve a request at its bank: none while a line that it reads is empty. -/
def Mach.serveOne (m : Mach) (draw c : Nat) (r : RemoteReq) : Option Mach :=
  let k := m.coreAt c
  match r.act with
  | .read cons n vec =>
    let comp := match vec with
      | some (_, f, _, _) => compOffsets f (m.spBankOf c) r.addr n
      | none => []
    if !k.linesFull (linesOf r.addr n ++ linesAt comp) then none
    else if k.spBad r.addr n ∨ comp.any fun o => k.spBad o 1 then some (m.badAnswer draw c r)
    else
      let data := k.spBytesAt draw r.addr n
      let v : VecReg := match vec with
        | none => BitVec.ofNat 2048 (leNat data)
        | some (mb, f, key, stream) =>
          loadLanes f (modeTy mb) data (k.spAt draw comp)
            (rndOf ⟨key.toNat, stream.toNat, r.slot, r.ctx, (m.coreAt r.core).lcore⟩ (modeRound mb).toNat) (modeSat mb)
      let m1 := if cons then m.onCore c fun k => k.setEmpty (linesOf r.addr n) else m
      some (m1.answer r.core r.ctx r.req v)
  | .lines n key =>
    if !k.linesFull (linesOf r.addr n) then none
    else some (m.onCtx r.core r.ctx fun y => { y with
      lineGot := y.lineGot ++ [(key, k.spBytesAt draw r.addr n, k.spBad r.addr n)]
      pending := y.pending.filter (· ≠ Pending.lines r.req key), savedPend := y.savedPend.filter (· ≠ Pending.lines r.req key) })
  | .write data comp fill =>
    some (m.onCore c fun k =>
      let k1 := k.runWrite r.addr data comp
      if fill then k1.setFull (linesOf r.addr data.length) else k1)
  | .drain => some (m.onCore c fun k => k.setEmpty (linesOf r.addr 8))
  | .strong x =>
    if x.op ≠ .st ∧ k.spBad r.addr x.bytes then some (m.badAnswer draw c r)
    else
      let w := k.homeOp draw r.addr x.bytes x.op x.v.toNat x.v2.toNat
      some ((m.putCore c w.1).answer r.core r.ctx r.req ((x.value w.2).setWidth 2048))

/-- Serve the requests that have reached a core, in arrival order; behind one that waits, those of its context to the same bank
wait too (spec/04 R110). -/
def Mach.serve (m : Mach) (draw c : Nat) : Mach :=
  let bank := max 1 (m.spBankOf c)
  ((m.coreAt c).reqs.foldl (fun (a : Mach × List (Nat × Nat × Nat)) r =>
    let key := (r.core, r.ctx, r.addr / bank)
    if r.issued = m.mod.tick ∨ a.2.contains key then (a.1, key :: a.2)
    else match a.1.serveOne draw c r with
      | some m1 => (m1.onCore c fun k => { k with reqs := k.reqs.erase r }, a.2)
      | none => (a.1, key :: a.2)) (m, [])).1

/-! ### Contexts that end (R16, R27, R33) -/

/-- A publish of the context is under way. -/
def Ctx.publishing (c : Ctx) : Bool := c.pending.any fun p => match p with | .publish .. => true | _ => false

/-- The last context of a core has ended: its queues are discarded; with the last core, the launch completes with status 0. -/
def Mach.coreEnds (m : Mach) (c : Nat) : Mach :=
  let k := m.coreAt c
  if k.launch.isNone ∨ k.ctxs.any fun x => x.st ≠ .ended then m
  else
    let m1 := m.onCore c fun k => { k with left := k.left || k.queues.toList.any (· ≠ []), queues := Vector.replicate 8 [] }
    let id := k.launch.getD 0
    if (m1.launchCores id).all fun e => e.2.ctxs.all fun x => x.st = .ended then m1.endLaunch id 0 else m1

/-- An Ending context delivers a fault at once (R382), and ends once its engine window is empty. -/
def Mach.endingStep (m : Mach) : Mach :=
  if m.ctx.st ≠ .ending ∨ m.ctx.saved.isSome then m
  else match m.dueFault with
    | some f => m.deliver f
    | none =>
      if m.ctx.faults = [] ∧ m.ctx.engine = [] ∧ !m.ctx.publishing then { m with ctx := { m.ctx with st := .ended, waitBank := false } } else m

def Mach.endingCycle (m : Mach) (c : Nat) : Mach := (m.each c Mach.endingStep).coreEnds c

/-! ### The arbiter (R21) and the pacer's duty (spec/14 R350, R351) -/

/-- The tick is an on cycle of a duty. -/
def onCycle (tick d : Nat) : Bool := (tick % 64 + 1) * d / 64 - tick % 64 * d / 64 = 1

/-- The duty of a context: fixed by its last boundary, else its arrival ceiling (spec/14 R352). -/
def Mach.dutyOf (m : Mach) (c : Nat) (x : Ctx) : Nat := x.duty.getD (m.mod.arrivalCeil (c / 64) ((m.coreAt c).launch.getD 0))

/-- A context can be selected: Ready, or Ending with its fault under handling, in an on cycle of its duty. -/
def Mach.selectable (m : Mach) (c : Nat) (x : Ctx) : Bool :=
  (x.st = .ready || (x.st = .ending && x.saved.isSome)) && onCycle m.mod.tick (m.dutyOf c x)

/-- Pressure of a leg: input occupancy and free output entries. -/
def Core.pressure (k : Core) (leg : Leg) : Nat :=
  ((upTo 8).map fun q =>
    let n := (vat [] k.queues q).length
    (if leg.inMask.getLsbD q then n else 0) + (if leg.outMask.getLsbD q then 16 - n else 0)).sum

/-- The choice among the Ready contexts of a core: the greatest age of 48 or more, else the greatest pressure, the larger age, the
lower index. -/
def Mach.select (m : Mach) (c : Nat) : Option Nat :=
  let k := m.coreAt c
  let l := m.mod.launch (k.launch.getD 0)
  let cs := (k.ctxs.mapIdx fun i x => (i, x)).filter fun e => m.selectable c e.2
  let better := fun (a b : Nat × Ctx) =>
    let pa := k.pressure (l.leg a.1)
    let pb := k.pressure (l.leg b.1)
    if 48 ≤ a.2.age ∨ 48 ≤ b.2.age then decide (b.2.age < a.2.age)
    else decide (pb < pa) || (pa == pb && decide (b.2.age < a.2.age))
  (cs.foldl (fun (r : Option (Nat × Ctx)) e => match r with
    | none => some e
    | some b => if better e b then some e else some b) none).map (·.1)

/-- The aging hold: another Ready context has reached age 48, or the cycle is an off cycle of the Running context's duty. -/
def Mach.agingHold (m : Mach) (c : Nat) : Mach :=
  let k := m.coreAt c
  match k.running with
  | none => m
  | some x => if k.aged || !onCycle m.mod.tick (m.dutyOf c (k.ctxs.getD x Ctx.idle)) then m.onCore c Core.endRun else m

/-- Copies of finish-order maps that a pack has sent become full (spec/07 R215). -/
def Core.mapsArrive (k : Core) : Core :=
  { k with maps := k.maps.map fun f => if f.coming then { f with coming := false, full := true } else f }

end Sys2Proof.Machine
end

