-- ==== Sys2Proof/Machine/CoreEvents.lean ====
section
/-! DEFINITION. The steps of cores, engines, joins, key-value managers and home units that come about by themselves
(spec/95): each happens when its condition holds, and otherwise changes nothing. The core's own cycle takes most of them too
(log 9). -/

namespace Sys2Proof.Machine

/-- A context of a launch that issues. -/
def Mach.live (m : Mach) (c x : Nat) : Bool :=
  (m.coreAt c).launch.isSome && decide (x < (m.coreAt c).ctxs.length) && (m.mod.launch ((m.coreAt c).launch.getD 0)).state = .running

/-- R377: FAULT_DELIVERY: at a selection a Ready context delivers its first pending fault; traps of its next bundle are found as
the bundle is selected. -/
def execFaultDelivery (core ctx : Nat) (s : State) : Host.Outcome State Fault Refusal :=
  let k := s.now.coreAt core
  s.event (s.now.live core ctx && k.running.isNone && (s.now.ctxAt core ctx).st = .ready)
    { s with now := s.now.within core ctx fun m => match m.dueFault with
        | some f => m.deliver f
        | none => m }

/-- R146: RESULT_LANDING: windows that have closed are gone; what a result writes is in place from its issue (log 8). -/
def execResultLanding (core ctx : Nat) (s : State) : Host.Outcome State Fault Refusal :=
  s.event (decide (ctx < (s.now.coreAt core).ctxs.length)) { s with now := s.now.onCtx core ctx fun c =>
    { c with windows := c.windows.filter fun w => w.req.isSome || (match w.until' with | none => true | some u => decide (s.tick < u)) } }

/-- R19: SECTOR_ARRIVAL: a load takes its bytes from the context's snapshot, so an L1 sector's arrival changes nothing that the
program can tell (log 7). -/
def execSectorArrival (core ctx : Nat) (s : State) : Host.Outcome State Fault Refusal :=
  s.event (decide (ctx < (s.now.coreAt core).ctxs.length)) s

/-- R365, R368: OBJECT_ENTRY_ARRIVAL: a valid entry is kept until it is invalidated. -/
def execObjectEntryArrival (obj : BitVec 24) (s : State) : Host.Outcome State Fault Refusal :=
  match s.now.mod.entry obj.toNat with
  | some e => s.event (entValid e) (s.onMod fun m => { m with entries := tset obj.toNat e m.entries })
  | none => s.event false s

/-- R61: REMOTE_SCRATCHPAD_ARRIVAL: requests at a core's banks are applied, or wait. -/
def execRemoteScratchpadArrival (core : Nat) (s : State) : Host.Outcome State Fault Refusal :=
  s.event (s.now.coreAt core).launch.isSome { s with now := s.now.serve s.free core }

/-- The engine operation with a command index, if it stands in the window. -/
def Mach.engineOp (m : Mach) (c x cmd : Nat) : Option EngOp := (m.ctxAt c x).engine.find? (·.cmd = cmd)

/-- R123: ENGINE_HAZARD_RELEASE: an operation that no earlier one holds runs as far as it can. -/
def execEngineHazardRelease (core ctx cmd : Nat) (s : State) : Host.Outcome State Fault Refusal :=
  s.event ((s.now.engineOp core ctx cmd).any fun o => !s.now.hazard core ctx o) { s with now := s.now.engineTry s.free core ctx cmd }

/-- An attempt of an operation ends with a fault. -/
def Mach.engineFaults (m : Mach) (draw c x cmd : Nat) : Bool :=
  ((m.engineTry draw c x cmd).ctxAt c x).faults.length ≠ (m.ctxAt c x).faults.length

/-- R254: ENGINE_OP_COMPLETE: every write of the operation takes effect and it leaves the window. -/
def execEngineOpComplete (core ctx cmd : Nat) (s : State) : Host.Outcome State Fault Refusal :=
  let m := s.now.engineTry s.free core ctx cmd
  s.event ((s.now.engineOp core ctx cmd).isSome && (m.engineOp core ctx cmd).isNone && !s.now.engineFaults s.free core ctx cmd)
    { s with now := m }

/-- R257: ENGINE_FAULT: the operation stops at its faulting element. -/
def execEngineFault (core ctx cmd : Nat) (s : State) : Host.Outcome State Fault Refusal :=
  s.event ((s.now.engineOp core ctx cmd).isSome && s.now.engineFaults s.free core ctx cmd)
    { s with now := s.now.engineTry s.free core ctx cmd }

/-- The oldest M operation is an attention operation. -/
def MeOp.attention (o : MeOp) : Bool :=
  match o.body with
  | .ascore .. => true
  | .avalue .. => true
  | .smerge .. => true
  | .mskld .. => true
  | .kvapp .. => true
  | _ => false

/-- R231: MATRIX_STEP. -/
def execMatrixStep (core : Nat) (s : State) : Host.Outcome State Fault Refusal :=
  s.event ((s.now.coreAt core).meq.head?.any fun o => !o.attention) { s with now := s.now.meCycle s.free core }

/-- R222: ATTENTION_OPERATION_STEP. -/
def execAttentionOperationStep (core : Nat) (s : State) : Host.Outcome State Fault Refusal :=
  s.event ((s.now.coreAt core).meq.head?.any MeOp.attention) { s with now := s.now.meCycle s.free core }

/-- R16: CONTEXT_ENDED, and with the last context of a core and a launch their ends (R27). -/
def execContextEnded (core ctx : Nat) (s : State) : Host.Outcome State Fault Refusal :=
  s.event ((s.now.ctxAt core ctx).st = .ending) { s with now := (s.now.within core ctx Mach.endingStep).coreEnds core }

/-- R34: KILL_TAKES_EFFECT: a Blocked context's held bundle is a kill point. -/
def execKillTakesEffect (core ctx : Nat) (s : State) : Host.Outcome State Fault Refusal :=
  s.event (s.now.live core ctx && (s.now.ctxAt core ctx).st = .blocked && (s.now.ctxAt core ctx).killable)
    { s with now := s.now.within core ctx Mach.killTake }

/-- R270: TAGGED_WRITE_STAGE: a tagged write reaches its join's home and is staged or discarded. -/
def execTaggedWriteStage (die : Nat) (handle member addr : W64) (obj : BitVec 24) (data : List Byte) (s : State) :
    Host.Outcome State Fault Refusal :=
  match s.now.mod.stageWrite handle member none none 64 obj.toNat addr.toNat data false with
  | some m => s.event (joinDie handle = die) (s.onMod fun _ => m)
  | none => s.event false s

/-- What a context waits for first is of a kind, and the context's launch still runs. -/
def Mach.waitsFor (m : Mach) (c x : Nat) (f : Pending → Bool) : Bool :=
  (m.coreAt c).launch.isSome && (m.ctxAt c x).pending.head?.any f

/-- R35: HANDLER_RECORD_PUSH. -/
def execHandlerRecordPush (core ctx : Nat) (s : State) : Host.Outcome State Fault Refusal :=
  s.event (s.now.waitsFor core ctx fun p => match p with | .handler _ => true | _ => false)
    { s with now := s.now.within core ctx fun m => (m.pendStep s.free).1 }

/-- R381: TASK_REPLAY_PUSH. -/
def execTaskReplayPush (core ctx : Nat) (s : State) : Host.Outcome State Fault Refusal :=
  s.event (s.now.waitsFor core ctx fun p => match p with | .replay .. => true | _ => false)
    { s with now := s.now.within core ctx fun m => (m.pendStep s.free).1 }

/-- R186: WAIT_UNTIL_TICK_REACHED: a context that only its wait holds becomes Ready. -/
def execWaitUntilTickReached (core ctx : Nat) (s : State) : Host.Outcome State Fault Refusal :=
  let c := s.now.ctxAt core ctx
  s.event (s.now.live core ctx && c.st = .blocked && !c.waitBank && c.pending = [] && c.waitTick.any fun t => decide (t ≤ s.tick))
    { s with now := s.now.onCtx core ctx fun c => { c with st := .ready, age := 0, waitTick := none } }

/-- R109: PUBLISH_COMPLETE: the bytes of a publish reach their homes, and what follows it happens. -/
def execPublishComplete (core ctx : Nat) (s : State) : Host.Outcome State Fault Refusal :=
  s.event (s.now.waitsFor core ctx fun p => match p with | .publish .. => true | _ => false)
    { s with now := s.now.within core ctx fun m => (m.pendStep s.free).1 }

/-- The rank of a request at a home unit (R129). -/
def HomeReq.rank (r : HomeReq) : List Nat :=
  match r.party with
  | .ialas n => [0, n]
  | .host p => [1, p]
  | .engine => [2]
  | .context l x => [3, l, x]

/-- Requests of one cycle at home units, executed in the order of R129. -/
def Mod.homeOrder (m : Mod) (rs : List HomeReq) : Mod :=
  (sortBy HomeReq.rank rs).foldl (fun mo r => (mo.homeOp none none r.addr r.bytes r.op r.v.toNat r.v2.toNat).1) m

/-- R112: HOME_UNIT_EXECUTION. -/
def execHomeUnitExecution (reqs : List HomeReq) (s : State) : Host.Outcome State Fault Refusal :=
  s.event (reqs.all fun r => [1, 2, 4, 8].contains r.bytes && r.addr % r.bytes = 0) (s.onMod fun m => m.homeOrder reqs)

/-- R215: MAP_COPY_FULL: a copy of a map that a pack has sent becomes full. -/
def execMapCopyFull (core map : Nat) (s : State) : Host.Outcome State Fault Refusal :=
  let k := s.now.coreAt core
  s.event (decide (map < 4) && (vat FMap.empty k.maps map).coming) { s with now := s.now.onCore core fun k =>
    { k with maps := vmod k.maps map fun f => { f with coming := false, full := true } } }

/-- R288: FILL_ENTRY_ADVANCE: entries of a map's table whose write-back has completed on every launch core of the cluster. -/
def execFillEntryAdvance (launch : W32) (lcluster map : Nat) (s : State) : Host.Outcome State Fault Refusal :=
  let l := s.now.mod.launch launch
  let k := tget Cluster.fresh lcluster l.clusters
  let blocks := ((k.filled.filter (·.2.1 = map)).map (·.2.2)).foldl (fun t b => sins b t) []
  s.event (tfind launch.toNat s.now.mod.launches).isSome (s.onMod fun m => m.setLaunch launch fun l => { l with
    clusters := tmod Cluster.fresh lcluster (fun k =>
      blocks.foldl (fun (k : Cluster) b => k.advance (l.record.clusterMembers lcluster) map b) k) l.clusters })

/-- R280: KV_PAGE_MOVE. -/
def execKvPageMove (die part idx : Nat) (s : State) : Host.Outcome State Fault Refusal :=
  s.event ((die = 8 || die = 9) && decide (part < 8) && ((s.now.mod.kvSlice die part).seq idx).moving) (s.onMod fun m => m.movePage die part idx)

/-- R282: SLAB_RECLAIM: a slab with count 0 that nothing captures returns to the pool. -/
def execSlabReclaim (die part base : Nat) (s : State) : Host.Outcome State Fault Refusal :=
  let free := fun (b : Slab) => b.base = base && b.refs = 0
  s.event ((die = 8 || die = 9) && decide (part < 8) && (s.now.mod.kvSlice die part).slabs.any free && !s.now.captured die part base)
    (s.onMod fun m => m.onSlice die part fun k => { k with slabs := k.slabs.filter fun b => !free b })

end Sys2Proof.Machine
end

