-- ==== Sys2Proof/Machine/Link.lean ====
section
/-! DEFINITION. Packets that arrive over Ialas (spec/16 R399 to R408): what a receiver checks, and what each operation does at its
home or to the context that waits for it (spec/04 R126 to R128, spec/15 R370, spec/09 R270 to R275). -/

namespace Sys2Proof.Machine

/-! ### Messages of VC3 and replies -/

/-- Keys as payload blocks. -/
def keyBlocks (k : EpochKeys) : List (BitVec 128) :=
  [k.k1, k.k2, k.k3, k.kh].flatMap fun x => [x.extractLsb' 0 128, x.extractLsb' 128 128]
def blocksKey (l : List (BitVec 128)) : EpochKeys :=
  let k := fun i => l.getD (2 * i + 1) 0 ++ l.getD (2 * i) 0
  ⟨k 0, k 1, k 2, k 3⟩

/-- Send a message to every listed module but this one. -/
def Mod.manageAll (m : Mod) (dsts : List (BitVec 13)) (code arg : Nat) (more : List (BitVec 128)) : Mod :=
  (dsts.filter (· ≠ m.addr)).foldl (fun mo d => mo.manage d code arg more) m

/-- What an acknowledgement answers, in its obj field (log 19): a publish, an identified packet, one that is refused, a join request,
a packet for which nothing waits, or a packet of a join's result. -/
def ackPublish : Nat := 0
def ackSerial : Nat := 1
def ackRefused : Nat := 2
def ackJoin : Nat := 3
def ackNote : Nat := 4
def ackResult : Nat := 5

/-- Acknowledge a packet. -/
def Mod.acknowledge (m : Mod) (p : Packet) (kind off : Nat) (payload : List (BitVec 128)) : Mod :=
  m.send { m.packet p.src 1 opAck (BitVec.ofNat 24 kind) 0 0 false payload with off := BitVec.ofNat 39 off }

/-- Answer a request with data, or with the reason why there is none (log 19). -/
def Mod.answerData (m : Mod) (p : Packet) (enc : Bool) (block : BitVec 128) : Mod :=
  m.send { m.packet p.src 1 opData p.obj 0 p.bmask enc [block] with off := p.off }
def Mod.answerNone (m : Mod) (p : Packet) (sub : Nat) : Mod :=
  m.send { m.packet p.src 1 opData p.obj 0 (BitVec.ofNat 16 sub) false [] with off := p.off }

/-! ### Keys and rekeying (R411) -/

/-- Older epochs held. -/
def Domain.older (d : Domain) : Nat := (d.keys.filter (·.1 ≠ d.epoch.toNat)).length

/-- Commit to the coming epoch: held packets leave under it, numbered from 0. -/
def Mod.commit (m : Mod) : Mod :=
  let d := m.dom
  match d.newKeys with
  | none => m
  | some k =>
    let e := d.epoch + 1
    let joins := d.admitting.filter d.party.contains
    let members := d.members ++ joins.toList.filter fun p => !d.members.contains p
    let olders := d.arrivals.foldl (fun t a => tset a.1.toNat (a.2 + 1) t) d.olders
    let d1 : Domain := { d with
      epoch := e, keys := tset e.toNat k d.keys, newKeys := none, rekey := .idle, scrub := true
      state := if d.state = .attesting then .member else d.state, wins := [], sends := [], queued := [], members := members
      admitting := if joins.isSome then none else d.admitting, arrivals := [], party := [], olders := olders }
    d.queued.foldl Mod.send { m with dom := d1 }

/-- Drop the keys of the coming epoch; held packets leave under the current one. -/
def Mod.abortRekey (m : Mod) : Mod :=
  let d := m.dom
  d.queued.foldl Mod.send { m with dom := { d with newKeys := none, rekey := .idle, queued := [], arrivals := [], party := [] } }

/-- The leader starts a rekey of the members and of a module being admitted; while a member holds more than one older epoch, or a
rekey runs, it waits. -/
def Mod.startRekey (m : Mod) (keys : EpochKeys) : Mod :=
  let d := m.dom
  if d.rekey ≠ .idle ∨ 1 < d.older ∨ d.members.any fun p => decide (1 < tget 0 p.toNat d.olders) then { m with dom := { d with rekeyWanted := true } }
  else
    let party := d.members ++ d.admitting.toList.filter fun p => !d.members.contains p
    let m1 := m.manageAll party mgPrepare 0 (keyBlocks keys)
    { m1 with dom := { m1.dom with
        newKeys := some keys, rekey := .draining, prepTick := m.tick, arrivals := [], rekeyWanted := false, party := party } }

/-- A rekey that has waited starts. -/
def Mod.wantedRekey (m : Mod) (draw : Nat) : Mod :=
  if m.dom.leads ∧ m.dom.rekeyWanted ∧ m.dom.state = .member then m.startRekey (Config.freshKeys draw) else m

/-- The leader commits once everyone has arrived, and the members learn of one that has been admitted. -/
def Mod.commitWhenAll (m : Mod) : Mod :=
  let d := m.dom
  if d.leads ∧ d.rekey = .arrived ∧ d.party.all fun p => d.arrivals.any (·.1 = p) then
    let m1 := m.manageAll d.party mgCommit 0 []
    let m2 := match d.admitting.filter d.party.contains with
      | some p => m1.manageAll d.party mgRoster p.toNat []
      | none => m1
    m2.commit
  else m

/-! ### Cutting off a module (R408, R414) -/

/-- The module that a key of a remote byte names. -/
def keyModule (key : Nat) : BitVec 13 := BitVec.ofNat 13 (key / 2 ^ 88)
/-- The module that a serial names. -/
def serialModule (s : Nat) : BitVec 13 := BitVec.ofNat 13 s

/-- A wait of a context on modules that are cut off. -/
def Pending.cutBy (hit : BitVec 13 → Bool) : Pending → Bool
  | .remote _ key x => (match x.loc with | .sp .. => false | _ => hit (keyModule key))
  | .fetch key => hit (keyModule key)
  | .joinReply _ mo _ => hit mo
  | .joinAsk _ h _ => hit (joinModule h)
  | _ => false

/-- What a context that waits for modules cut off gets: acknowledgements return failed, a load receives Undefined(), a strong
access meets the domain fault, and bytes on their way stay unpublished. -/
def Ctx.cut (c : Ctx) (hit : BitVec 13 → Bool) (sub tick draw : Nat) : Ctx :=
  let waits := c.pending ++ c.savedPend
  let serials := (c.acks ++ waits.flatMap fun p => match p with | .acks l => l | _ => []).filter fun n => hit (serialModule n)
  let c1 := serials.foldl Ctx.acked c
  let gone := waits.filter (Pending.cutBy hit)
  let c2 := gone.foldl (fun (k : Ctx) p => match p with
    | .remote rq _ x =>
      let k1 := k.land rq fun r => Config.undef 2048 draw 7 (match r with | .s n => n.val | .lat n => 64 + n | _ => 128)
      let at' := match x.loc with | .remote _ _ off obj _ => (off, obj) | _ => (0, 0)
      { k1 with faults := k1.faults ++ [⟨kDomain, sub, trapRecord ⟨kDomain, sub, x.slot, at'.1, at'.2⟩ x.pc.toNat, tick, 0, none, k.saved.isSome⟩] }
    | .joinAsk _ h g => { k with joinTold := some (h, g, freedSummary) }
    | .joinReply rq _ st => k.land rq fun r => match r with | .lat 5 => latched64 draw (BitVec.ofNat 64 st) | _ => BitVec.ofNat 2048 st
    | _ => k) c1
  { c2 with
    pending := c2.pending.filter fun p => !p.cutBy hit
    savedPend := c2.savedPend.filter fun p => !p.cutBy hit
    out := c2.out.filter fun e => !hit (serialModule e.2)
    engine := c2.engine.map fun o =>
      if o.serial.any fun n => hit (serialModule n) then { o with owed := 0, status := if o.status = 1 then 2 else o.status } else o }

/-- What a join no longer waits for: waits of modules that are cut off, and the acknowledgements of a result that lies there. -/
def Join.cut (hit : BitVec 13 → Bool) (away : Nat → Bool) (j : Join) : Join :=
  { j with
    asks := j.asks.filter fun a => !hit a.module
    releasing := if away (capObject j.target) then j.releasing.map fun x => { x with owed := 0 } else j.releasing }

/-- Modules are cut off: nothing of theirs is awaited any more, and flags of stores cut short never increment. -/
def Mach.cut (m : Mach) (hit : BitVec 13 → Bool) (sub draw : Nat) : Mach :=
  let d := m.mod.dom
  let m1 : Mach := { m with mod := { m.mod with
    dom := { d with opens := d.opens.filter fun e => !hit (BitVec.ofNat 13 e.1), queued := d.queued.filter fun p => !hit p.dst }
    flags := m.mod.flags.filter fun f => !hit f.src
    joins := m.mod.joins.map fun (e : Nat × JoinSlot) => (e.1, { e.2 with join := e.2.join.map (Join.cut hit fun o => hit (m.mod.moduleOf o)) }) } }
  m1.everyCtx fun c => c.cut hit sub m.mod.tick draw

/-- A module is fenced: its bit is set and it is no member. -/
def Mach.fencePeer (m : Mach) (peer : BitVec 13) (draw : Nat) : Mach :=
  let d := m.mod.dom
  let d1 : Domain := { d with
    fence := if d.fence.contains peer then d.fence else d.fence ++ [peer], members := d.members.filter (· ≠ peer)
    admitting := d.admitting.filter (· ≠ peer), misses := tdel peer.toNat d.misses, olders := tdel peer.toNat d.olders }
  ({ m with mod := { m.mod with dom := d1 } } : Mach).cut (· = peer) 2 draw

/-- Every epoch key is erased: the protected lines held read as poisoned until they are written again, under other keys too (R404,
R414, R417). -/
def Mod.eraseKeys (m : Mod) : Mod :=
  { m with
    poison := (m.dom.lines.flatMap fun (l : Nat × DomLine) => (upTo 4).map (4 * l.1 + ·)).foldl (fun t x => sins x t) m.poison
    dom := { m.dom with
      keys := [], newKeys := none, lines := m.dom.lines.map fun (l : Nat × DomLine) => (l.1, { l.2 with bare := some (m.cipherLine l.1 l.2) }) } }

/-- This module has learned of its fence: no key, state 3 (R414). -/
def Mach.fenceSelf (m : Mach) (draw : Nat) : Mach :=
  let mod1 := m.mod.eraseKeys
  let d1 : Domain := { mod1.dom with state := .fenced, rekey := .idle, queued := [], leads := false, scrub := false }
  ({ m with mod := { mod1 with dom := d1 } } : Mach).cut (fun _ => true) 3 draw

/-- The leader fences a module: FENCE to every other member, and a rekey without it; one that runs is aborted. -/
def Mach.leaderFence (m : Mach) (peer : BitVec 13) (draw : Nat) : Mach :=
  if !m.mod.dom.leads ∨ m.mod.dom.state ≠ .member then m
  else if peer = m.mod.addr then m.fenceSelf draw
  else
    let m1 := m.fencePeer peer draw
    let mod1 := m1.mod.manageAll (m1.mod.dom.members ++ m1.mod.dom.admitting.toList) mgFence peer.toNat []
    let mod2 := if mod1.dom.rekey = .idle then mod1 else (mod1.manageAll (mod1.dom.party.filter (· ≠ peer)) mgAbort 0 []).abortRekey
    { m1 with mod := mod2.startRekey (Config.freshKeys draw) }

/-- Of a pair that cannot be resynchronised, the leader fences the one that misses heartbeats when one alone does, else the higher id
(R409; log 74). -/
def Mach.fenceOfPair (m : Mach) (a b : BitVec 13) (draw : Nat) : Mach :=
  let missed := fun (p : BitVec 13) => p ≠ m.mod.addr && decide (tget 0 p.toNat m.mod.dom.misses ≠ 0)
  let higher := if a.toNat < b.toNat then b else a
  m.leaderFence (if missed a = missed b then higher else if missed a then a else b) draw

/-- A pair of this module and a peer has failed: the leader acts, or is told. -/
def Mach.fencePair (m : Mach) (peer : BitVec 13) (draw : Nat) : Mach :=
  if m.mod.dom.leads then m.fenceOfPair m.mod.addr peer draw
  else { m with mod := m.mod.manage m.mod.dom.leader mgPair peer.toNat [] }

/-- A pair is quarantined, on this side; a second quarantine within 600,000,000 ticks makes the leader fence (R408, R409). -/
def Mach.quarantined (m : Mach) (peer : BitVec 13) (draw : Nat) : Mach :=
  let d := m.mod.dom
  if d.quar.contains peer then m else
  let again := (tfind peer.toNat d.quarSince).any fun t => decide (m.mod.tick < t + 600000000)
  let d1 : Domain := { d with quar := d.quar ++ [peer], quarSince := tset peer.toNat m.mod.tick d.quarSince }
  let m1 := ({ m with mod := { m.mod with dom := d1 } } : Mach).cut (· = peer) 1 draw
  if again then m1.fencePair peer draw else m1

/-- This side finds that the pair must be quarantined: the other side sets its bit too (R408). -/
def Mach.quarantine (m : Mach) (peer : BitVec 13) (draw : Nat) : Mach :=
  if m.mod.dom.quar.contains peer then m
  else ({ m with mod := m.mod.manage peer mgQuarantine 0 [] } : Mach).quarantined peer draw

/-! ### What a receiver checks (R399, R406, R407, R411) -/

/-- A packet's own form. -/
def packetOk (p : Packet) : Bool := decide (p.op.toNat ≤ 8) && decide (p.len.toNat ≤ 32) && !p.res

/-- The keys that a receiver checks with: those it holds, and the coming epoch's once it has arrived. -/
def Domain.checking (d : Domain) : Domain :=
  match d.newKeys, d.rekey with
  | some k, .arrived => { d with keys := tset (d.epoch + 1).toNat k d.keys }
  | _, _ => d

/-- The code of a packet is right. -/
def Domain.authentic (d : Domain) (p : Packet) : Bool := (tfind p.epoch.toNat d.checking.keys).isSome && d.checking.hac p == p.hac

/-- The window of a source, channel and epoch. -/
def Domain.window (d : Domain) (src : BitVec 13) (vc : BitVec 2) (epoch : BitVec 2) : SeqWin :=
  (d.wins.find? fun w => w.src = src ∧ w.vc = vc ∧ w.epoch = epoch).getD ⟨src, vc, epoch, 0, [], []⟩
def Domain.setWindow (d : Domain) (w : SeqWin) : Domain :=
  { d with wins := (d.wins.filter fun x => !(x.src = w.src ∧ x.vc = w.vc ∧ x.epoch = w.epoch)) ++ [w] }

/-- The base passes every leading accepted number. -/
def SeqWin.settle : Nat → SeqWin → SeqWin
  | 0, w => w
  | n + 1, w => if (tfind w.base w.seen).isSome then SeqWin.settle n { w with base := w.base + 1, seen := tdel w.base w.seen } else w

def SeqWin.accept (w : SeqWin) (n tick : Nat) : SeqWin := SeqWin.settle (w.seen.length + 1) { w with seen := tset n tick w.seen }

/-- The 512-byte line of a packet that keeps to its line's path (R397): object and line. -/
def packetLine (p : Packet) : Option Nat :=
  if (p.vc = 0 ∨ p.vc = 2) ∧ p.op ≠ opJoin then some (p.obj.toNat * 2 ^ 34 + p.off.toNat / 32) else none

/-- A later packet of its line is here already, so the fabric cannot deliver this one now: a line's packets arrive in order. -/
def SeqWin.overtaken (w : SeqWin) (p : Packet) : Bool := (packetLine p).any fun l => (tfind l w.lines).any fun n => decide (p.seq.toNat < n)

/-- The window once a packet of its line is here. -/
def SeqWin.lineAt (w : SeqWin) (p : Packet) : SeqWin :=
  match packetLine p with
  | some l => { w with lines := (tset l p.seq.toNat w.lines).filter fun e => decide (w.base ≤ e.2) }
  | none => w

/-- What becomes of a packet: discarded, accepted, or the pair is quarantined. -/
inductive Arrival where
  | dropped (m : Mod)
  | accepted (m : Mod)
  | broken

def Mod.countDiscard (m : Mod) : Mod := { m with dom := { m.dom with discarded := m.dom.discarded + 1 } }

/-- A packet of VC 0 to 2 reaches this module. -/
def Mod.receive (m : Mod) (p : Packet) : Arrival :=
  if !packetOk p then .dropped m.countDiscard
  else if (m.domainFault p.src).isSome then .dropped m
  else if !m.dom.authentic p then .dropped m.countDiscard
  else
    let m1 := if p.epoch ≠ m.dom.epoch ∧ m.dom.rekey = .arrived ∧ p.epoch = m.dom.epoch + 1 then m.commit else m
    let w := m1.dom.window p.src p.vc p.epoch
    let n := p.seq.toNat
    if p.epoch ≠ m1.dom.epoch ∨ n < w.base ∨ (tfind n w.seen).isSome ∨ w.base + 4095 < n then .broken
    else if w.overtaken p then .dropped m
    else .accepted { m1 with dom := m1.dom.setWindow ((w.lineAt p).accept n m1.tick) }

/-- An answer of a module to one of our requests has come. -/
def Mod.closed (m : Mod) (src : BitVec 13) : Mod :=
  { m with dom := { m.dom with opens := tput 0 src.toNat (tget 0 src.toNat m.dom.opens - 1) m.dom.opens } }

/-- A packet event: it acts when the packet is for this module, of the operation, on a channel that carries it. -/
def State.link (s : State) (p : Packet) (op : BitVec 5) (vcs : List (BitVec 2)) (f : Mach → Mach) : Host.Outcome State Fault Refusal :=
  s.event (p.dst = s.now.mod.addr && (p.op = op || decide (8 < p.op.toNat)) && vcs.contains p.vc && p.payload.length = p.len.toNat)
    (match s.now.mod.receive p with
    | .dropped m => s.onMod fun _ => m
    | .broken => { s with now := s.now.quarantine p.src s.free }
    | .accepted m => { s with now := f { s.now with mod := m } })

/-! ### The target's own check (spec/15 R370) -/

/-- The cause of an engine operation whose packet is refused (Table 09-3). -/
def refusalCause (sub : Nat) : Nat := if sub = refAbsent then 1 else if sub = refPoison then 3 else 2

/-- The entry of an access from another module, or the sub-code of its refusal. -/
def Mod.target (m : Mod) (obj : BitVec 24) (top : Nat) (right : BitVec 6) : Except Nat Entry :=
  match m.entry obj.toNat with
  | none => .error 1
  | some e =>
    if !entValid e ∨ entType e = 3 then .error 1
    else if !hasRights (entRights e) (rFab ||| right) then .error 2
    else if entLen e < top then .error 3
    else .ok e

/-- Addresses of bytes of an object for an access from another module. -/
def Mod.targetBytes (m : Mod) (obj : BitVec 24) (offs : List Nat) (right : BitVec 6) : Except Nat (Entry × List Nat) := do
  let e ← m.target obj (offs.foldl (fun t o => max t (o + 1)) 0) right
  let as ← offs.mapM fun o => match m.place obj.toNat e o (right ≠ rLd) with
    | .phys a => Except.ok a
    | _ => Except.error refAbsent
  return (e, as)

/-- The bytes that blocks of a packet carry: offset and byte; bmask counts for the last block (R403). -/
def packetBytes (p : Packet) (blocks : List (BitVec 128)) : List (Nat × Byte) :=
  (blocks.mapIdx fun k b => (upTo 16).filterMap fun i =>
    if k + 1 < blocks.length || p.bmask.getLsbD i then some (16 * (p.off.toNat + k) + i, b.extractLsb' (8 * i) 8) else none).flatten

/-- Apply the bytes of a store at their home; poison travels with them (spec/15 R384). -/
def Mod.applyStore (m : Mod) (p : Packet) (bytes : List (Nat × Byte)) : Except Nat Mod := do
  let r ← m.targetBytes p.obj (bytes.map (·.1)) rSt
  return m.writeBytes (dpOf p.obj.toNat r.1) (r.2.zip (bytes.map (·.2))) (if p.ofl then r.2 else [])

/-! ### Fabric stores and their flags (spec/04 R126, R127) -/

/-- Update the record of a fabric store being received. -/
def Mod.onFlag (m : Mod) (src : BitVec 13) (who serial : Nat) (f : FlagWait → FlagWait) : Mod :=
  let mine := fun (w : FlagWait) => w.src = src && w.who = who && w.serial = serial
  { m with flags := if m.flags.any mine then m.flags.map fun w => if mine w then f w else w else m.flags ++ [f ⟨src, who, serial, [], none, none, false⟩] }

/-- Every byte of the store is here. -/
def FlagWait.whole (w : FlagWait) : Bool := w.info.any fun i => w.got.length = i.want

def flagKey (src : BitVec 13) (who : Nat) : Nat := src.toNat * 2 ^ 16 + who

/-- The number below which no store of a context holds an ordered flag any more. -/
def Mod.flagSettle (key : Nat) : Nat → Mod → Mod
  | 0, m => m
  | n + 1, m =>
    let base := tget 0 key m.flagBase
    if m.flags.any fun w => flagKey w.src w.who = key && w.flagged && w.num = some base then
      Mod.flagSettle key n { m with flagBase := tput 0 key (base + 1) m.flagBase }
    else m

/-- Stores counted and flagged are forgotten; one whose flag was refused may still be sent again. -/
def Mod.flagForget (m : Mod) : Mod :=
  { m with flags := m.flags.filter fun w => !(w.flagged && w.info.isSome && w.num.any fun n => decide (n < tget 0 (flagKey w.src w.who) m.flagBase)) }

def Mod.flagUpdate (m : Mod) (src : BitVec 13) (who serial : Nat) (f : FlagWait → FlagWait) : Mod :=
  let m1 := m.onFlag src who serial f
  (Mod.flagSettle (flagKey src who) (m1.flags.length + 1) m1).flagForget

/-- The home of a flag word: its address, or the sub-code of the refusal. -/
def Mod.flagHome (m : Mod) (flag : BitVec 24 × Nat) : Except Nat (Entry × Nat) := do
  let r ← m.targetBytes flag.1 ((upTo 8).map (flag.2 + ·)) rAt
  let a := r.2.headD 0
  if m.poisoned (entDp r.1) a then .error refPoison else return (r.1, a)

/-- A store packet (op 0). -/
def Mod.takeStore (m : Mod) (p : Packet) : Mod :=
  if !p.fd then
    match m.applyStore p (packetBytes p p.payload) with
    | .ok m1 => m1.acknowledge p ackPublish 0 []
    | .error sub => m.acknowledge p ackPublish 0 [BitVec.ofNat 128 sub]
  else
    let d := p.payload.headD 0
    let t := fld d 64 32
    let kind := fld d 48 4
    let r := m.applyStore p (packetBytes p (p.payload.drop 1))
    if kind = 5 then (r.toOption.getD m).acknowledge p ackResult (fld d 0 32) []
    else match r with
    | .error sub => m.acknowledge p ackRefused (fld d 0 32) [BitVec.ofNat 128 (t + refusalCause sub * 2 ^ 32)]
    | .ok m1 =>
      if kind = 0 then
        (m1.flagUpdate p.src (fld d 32 16) (fld d 0 32) fun w => { w with got := sins t w.got }).acknowledge p ackNote 0 []
      else m1.acknowledge p ackSerial (fld d 0 32) []

/-- R399: STORE. -/
def execStore (pk : Packet) (s : State) : Host.Outcome State Fault Refusal :=
  s.link pk opStore [0, 2] fun m => { m with mod := m.mod.takeStore pk }

/-- A flag is refused: its store faults at its source, and later ordered flags do not wait for it. -/
def Mod.flagRefused (m : Mod) (back : Packet) (who serial num want sub : Nat) : Mod :=
  (m.flagUpdate back.src who serial fun w => { w with info := none, num := some num, flagged := true }).acknowledge back ackRefused serial
    [BitVec.ofNat 128 (want + refusalCause sub * 2 ^ 32)]

/-- A store-with-flag packet (op 1): the store's size, its number, and its flag, which is checked here. -/
def Mod.takeFlag (m : Mod) (p : Packet) : Mod :=
  let d := p.payload.headD 0
  let i := p.payload.getD 1 0
  let flag : BitVec 24 × Nat := (i.extractLsb' 64 24, fld i 88 39)
  match (if flag.2 % 8 = 0 then m.flagHome flag else .error 3) with
  | .error sub => m.flagRefused p (fld d 32 16) (fld d 0 32) (fld i 32 32) (fld i 0 32) sub
  | .ok _ => m.flagUpdate p.src (fld d 32 16) (fld d 0 32) fun w =>
      { w with info := some ⟨fld i 0 32, p.ofl, flag⟩, num := some (fld i 32 32), flagged := false }

/-- R399: STORE_WITH_FLAG. -/
def execStoreWithFlag (pk : Packet) (s : State) : Host.Outcome State Fault Refusal :=
  s.link pk opStoreFlag [0, 2] fun m => { m with mod := m.mod.takeFlag pk }

/-- A flag may be incremented: its data is here, and with ordered-flag the flags of all earlier stores of its context have been
incremented (R127, spec/12 R309). -/
def Mod.flagReady (m : Mod) (w : FlagWait) : Bool :=
  w.whole && !w.flagged && w.info.any fun i => !i.ordered || w.num.any fun n => decide (n ≤ tget 0 (flagKey w.src w.who) m.flagBase)

/-- Increment a flag as an atomic at its home, and acknowledge the store (R126, R128). -/
def Mod.flagIncrement (m : Mod) (w : FlagWait) : Mod :=
  match w.info with
  | none => m
  | some i =>
    let back : Packet := { m.packet m.addr 0 opStoreFlag 0 0 0 false [] with src := w.src }
    match m.flagHome i.flag with
    | .ok (e, a) =>
      ((m.homeOp none (dpOf i.flag.1.toNat e) a 8 .add 1 0).1.flagUpdate w.src w.who w.serial fun w => { w with flagged := true }).acknowledge back ackSerial w.serial []
    | .error sub => m.flagRefused back w.who w.serial (w.num.getD 0) i.want sub

/-- R126, R127: FLAG_INCREMENT. -/
def execFlagIncrement (idx : Nat) (s : State) : Host.Outcome State Fault Refusal :=
  match s.now.mod.flags[idx]? with
  | some w => s.event (s.now.mod.flagReady w) (s.onMod fun m => m.flagIncrement w)
  | none => s.event false s

/-! ### Atomics and loads at the home (R399, R404) -/

/-- The operation that a code of an atomic packet names. -/
def homeOfCode (n : Nat) : Option HomeOp :=
  [HomeOp.add, .and, .or, .xor, .minI, .maxI, .minZ, .maxZ, .swap, .cas].find? fun o => homeCode o = n

/-- An atomic packet: [descriptor,] operand, operation. -/
def Mod.takeAtomic (m : Mod) (p : Packet) : Mod :=
  let blocks := if p.fd then [p.payload.getD 2 0, p.payload.getD 1 0] else [p.payload.getD 0 0, p.payload.getD 1 0]
  let a := blocks.getD 1 0
  let n := fld a 8 8
  let lane := ((upTo 16).find? fun i => p.bmask.getLsbD i).getD 0
  let off := 16 * p.off.toNat + lane
  let refuse := fun (sub : Nat) => if p.fd then
      m.acknowledge p ackRefused (fld (p.payload.headD 0) 0 32) [BitVec.ofNat 128 (refusalCause sub * 2 ^ 32)]
    else m.answerNone p sub
  match homeOfCode (fld a 0 8), [1, 2, 4, 8].contains n && decide (off % n = 0), m.targetBytes p.obj ((upTo n).map (off + ·)) rAt with
  | some op, true, .ok (e, as) =>
    let pa := as.headD 0
    if m.poisoned (entDp e) pa then refuse refPoison
    else
      let r := m.homeOp none (dpOf p.obj.toNat e) pa n op (fld (blocks.getD 0 0) (8 * lane) (8 * n)) (fld a 64 64)
      if p.fd then r.1.acknowledge p ackSerial (fld (p.payload.headD 0) 0 32) []
      else r.1.answerData p (entDp e) (BitVec.ofNat 128 (r.2 * 2 ^ (8 * lane)))
  | some _, true, .error sub => refuse sub
  | _, _, _ => refuse 2

/-- R399: ATOMIC. -/
def execAtomic (pk : Packet) (s : State) : Host.Outcome State Fault Refusal :=
  s.link pk opAtomic [0, 2] fun m => { m with mod := m.mod.takeAtomic pk }

/-- A protected line whose key is gone is met: an error record says so (R404). -/
def Mod.logLost (m : Mod) (a : Nat) : Mod :=
  if a < hostBase ∧ !m.lineReadable a then m.logError (errorRecord 3 (a / 2 ^ 48) 5 (stackOf a) 1 (a % 2 ^ 48) 0) else m

/-- A load request is served with the wanted lanes under the current epoch; a line whose key is gone reads as poisoned (R404). One
whose payload names rights asks whether a strong access may have them (spec/15 R370), and is answered with no lane. -/
def Mod.takeLoad (m : Mod) (p : Packet) : Mod :=
  let lanes := (upTo 16).filter fun i => p.bmask.getLsbD i
  let rights : BitVec 6 := match p.payload with | b :: _ => b.setWidth 6 | [] => rLd
  match m.targetBytes p.obj (lanes.map (16 * p.off.toNat + ·)) rights with
  | .error sub => m.answerNone p sub
  | .ok (e, as) =>
    match (if rights = rSt then none else as.find? (m.poisoned (entDp e))) with
    | some a => (if entDp e then m.logLost a else m).answerNone p refPoison
    | none =>
      if p.payload = [] then m.answerData p (entDp e) (BitVec.ofNat 128 ((lanes.zip as).map fun x => (m.outer (entDp e) x.2 (m.shown none x.2)).toNat * 2 ^ (8 * x.1)).sum)
      else { p with bmask := 0 } |> fun q => m.answerData q false 0

/-- R404: LOAD_REQUEST. -/
def execLoadRequest (pk : Packet) (s : State) : Host.Outcome State Fault Refusal :=
  s.link pk opLoad [0, 2] fun m => { m with mod := m.mod.takeLoad pk }

/-! ### Answers that reach a context -/

/-- The bytes of load data under the keys of remote bytes. -/
def dataCells (p : Packet) : List Host.Cell := (packetBytes p p.payload).map fun b => (remoteKey p.src p.obj b.1, b.2)

/-- The key of the block that a packet answers. -/
def blockKey (p : Packet) : Nat := remoteKey p.src p.obj (16 * p.off.toNat)

/-- An engine operation that waits for bytes of a block. -/
def EngOp.wants (o : EngOp) (key : Nat) : Bool := o.asked.contains key && (o.rdata.all fun b => b.1 / 16 ≠ key / 16)

/-- An engine operation's read is refused at the far end: its fault (R257). -/
def Mach.readRefused (m : Mach) (c x cmd cause : Nat) : Mach :=
  match (m.ctxAt c x).engine.find? (·.cmd = cmd) with
  | none => m
  | some o =>
    let f : EngFault := match o.body with
      | .move src dst _ _ _ _ _ =>
        ⟨cause, false, moveCoords src dst false o.at', dst.positions - o.at', capObject src.cap, lowBits 64 ((capOffset src.cap : Int) + sgn 64 (src.addr o.at'))⟩
      | _ => ⟨cause, false, [0, 0, 0, 0], 1, 0, 0⟩
    Run.failed ⟨m, o, none, false⟩ c x f

/-- Where a strong access to another module is: offset and object. -/
def Strong.away (x : Strong) : Nat × Nat := match x.loc with | .remote _ _ off obj _ => (off, obj) | _ => (0, 0)

/-- The pending fault of a refused access of the bundle at pc. -/
def refusedFault (sub slot obj off tick : Nat) (pc : W64) (sv : Bool) : PendFault :=
  let k := refusedTrap sub 3
  ⟨k.1, k.2, trapRecord ⟨k.1, k.2, slot, off, obj⟩ pc.toNat, tick, 0, none, sv⟩

/-- Load data answers a strong access: its value, or the fault of a refusal that came after its check, which is pending (log 31). -/
def Mach.strongAnswer (m : Mach) (c x : Nat) (p : Packet) (rq : Nat) (w : Strong) (draw : Nat) : Mach :=
  let at' := w.away
  if p.payload ≠ [] then m.answer c x rq ((w.value (fld (p.payload.headD 0) (8 * (at'.1 % 16)) (8 * w.bytes))).setWidth 2048)
  else
    let k := m.coreAt c
    let m1 := (m.answer c x rq (Config.undef 2048 draw 7 13)).onCtx c x fun y => { y with
      faults := y.faults ++ [refusedFault p.bmask.toNat w.slot at'.2 at'.1 m.mod.tick w.pc y.saved.isSome] }
    if p.bmask.toNat = refPoison then
      { m1 with mod := m1.mod.logError (errorRecord 4 (c / 64) 5 k.lcore 1 at'.1 (k.launch.getD 0).toNat) }
    else m1

/-- Load data reaches whatever of the context waits for its block: a held bundle, for which the block is then checked too, a strong
access, an engine operation, or the matrix engine. -/
def Mach.takeData (m : Mach) (p : Packet) (c x draw : Nat) : Mach :=
  let key := blockKey p
  let k := m.ctxAt c x
  let strong := k.pending.findSome? fun w => match w with | .remote rq b y => if b = key then some (rq, y) else none | _ => none
  if k.pending.contains (.fetch key) ∨ k.savedPend.contains (.fetch key) then
    m.onCtx c x fun k =>
      let k1 : Ctx := { k with pending := k.pending.filter (· ≠ Pending.fetch key), savedPend := k.savedPend.filter (· ≠ Pending.fetch key) }
      if p.payload = [] then { k1 with remoteFail := some (key, p.bmask.toNat) }
      else if p.bmask = 0 then { k1 with checked := key :: k1.checked }
      else { k1 with rcache := (dataCells p).foldl (fun t b => tset b.1 b.2 t) k1.rcache }
  else match strong with
    | some (rq, y) => m.strongAnswer c x p rq y draw
    | none =>
      match k.engine.find? (·.wants key) with
      | some o =>
        if p.payload = [] then m.readRefused c x o.cmd (refusalCause p.bmask.toNat)
        else m.onCtx c x fun k => { k with engine := k.engine.map fun (e : EngOp) =>
          if e.cmd = o.cmd then { e with rdata := (dataCells p).foldl (fun t b => tset b.1 b.2 t) e.rdata } else e }
      | none =>
        match (m.coreAt c).meq.head? with
        | some o =>
          if o.ctx ≠ x ∨ !o.asked.contains key then m
          else if p.payload = [] then
            m.meFault c o kMatrixFault (if p.bmask.toNat = refPoison then 2 else if p.bmask.toNat = refAbsent then 3 else 1) 0 (16 * p.off.toNat)
          else m.setHead c (some { o with rdata := (dataCells p).foldl (fun t b => tset b.1 b.2 t) o.rdata })
        | none => m

/-- R399: LOAD_DATA. -/
def execLoadData (pk : Packet) (core ctx : Nat) (s : State) : Host.Outcome State Fault Refusal :=
  s.link pk opData [1] fun m => ({ m with mod := m.mod.closed pk.src } : Mach).takeData pk core ctx s.free

/-- The pending fault of a publish that its target refuses: a page that is not resident is a page fault with sub 4 (spec/15 R372,
R370). -/
def publishFault (sub key tick : Nat) (pc : W64) (sv : Bool) : PendFault :=
  if sub = refAbsent then ⟨kPage, 4, trapRecord ⟨kPage, 4, 7, key % 2 ^ 64, key / 2 ^ 64⟩ pc.toNat, tick, 0, none, sv⟩
  else refusedFault sub 7 (key / 2 ^ 64) (key % 2 ^ 64) tick pc sv

/-- A publish of the context is acknowledged: the oldest byte on its way to the module, or a strong store; a refused byte stays
unpublished and its fault is pending. Bytes fetched of a published byte's block are no longer the latest (spec/04 R108). -/
def Ctx.publishAck (c : Ctx) (m : Mod) (src : BitVec 13) (sub : Option Nat) : Ctx :=
  let waits := (c.pending ++ c.savedPend).flatMap fun p => match p with | .acks l => l | _ => []
  match waits.find? fun n => serialModule n = src && !c.acks.contains n with
  | some n =>
    let keys := (c.out.filter (·.2 = n)).map (·.1)
    let c1 := c.acked n
    let c2 := { c1 with out := c1.out.filter (·.2 ≠ n) }
    let away := keys.filterMap fun k => (m.entry (k / 2 ^ 64)).map fun e => remoteKey src (entRid e) (k % 2 ^ 64)
    match sub, keys with
    | none, _ => { c2 with
        unpub := c2.unpub.filter (fun e => !keys.contains e.1), unpubPoison := c2.unpubPoison.filter fun e => !keys.contains e
        rcache := c2.rcache.filter fun e => !away.contains e.1 }
    | some sub, key :: _ => { c2 with faults := c2.faults ++ [publishFault sub key m.tick c.bank.pc c.saved.isSome] }
    | some _, [] => c2
  | none =>
    let mine := fun (p : Pending) => match p with | .remote _ key x => x.op = .st && keyModule key = src | _ => false
    let strong := c.pending.findSome? fun p => match p with | .remote _ _ x => if mine p then some x else none | _ => none
    let c1 := { c with pending := c.pending.filter fun p => !mine p }
    match sub, strong with
    | some n, some x => { c1 with faults := c1.faults ++ [refusedFault n x.slot x.away.2 x.away.1 m.tick x.pc c.saved.isSome] }
    | _, _ => c1

/-- An acknowledgement reaches what waits for it: a context (R128), or a join's release (R133). -/
def Mach.takeAck (m : Mach) (p : Packet) (c x draw : Nat) : Mach :=
  let serial := p.off.toNat * 2 ^ 13 + p.src.toNat
  let b := p.payload.headD 0
  let kind := p.obj.toNat
  if kind = ackPublish then m.onCtx c x fun k => k.publishAck m.mod p.src (if p.payload = [] then none else some (fld b 0 8))
  else if kind = ackSerial then m.onCtx c x fun k => (k.engineAck serial).acked serial
  else if kind = ackRefused then m.engineRefused c x serial (fld b 0 32) (fld b 32 8)
  else if kind = ackJoin then m.answer c x p.off.toNat (latched64 draw (BitVec.ofNat 64 (fld b 0 64)))
  else if kind = ackResult then { m with mod := m.mod.joinAcked p.off.toNat }
  else m

/-- R128: ACKNOWLEDGEMENT. -/
def execAcknowledgement (pk : Packet) (core ctx : Nat) (s : State) : Host.Outcome State Fault Refusal :=
  s.link pk opAck [1] fun m => ({ m with mod := m.mod.closed pk.src } : Mach).takeAck pk core ctx s.free

/-! ### Joins across modules (spec/09 R270 to R275) -/

/-- A tagged store at the join's home, which checks it as a store to the target (spec/15 R370); one that its source has emptied is
none (spec/12 R313). -/
def Mod.takeTagged (m : Mod) (p : Packet) (h w : W64) (target : BitVec 24) : Mod :=
  let d := p.payload.headD 0
  let y := p.payload.getD 2 0
  let bytes := packetBytes p (p.payload.drop 3)
  let who := some (p.src.toNat, fld y 0 44, fld y 44 4)
  let refuse := fun (cause : Nat) => m.acknowledge p ackRefused (fld d 0 32) [BitVec.ofNat 128 (fld d 64 32 + cause * 2 ^ 32)]
  if bytes = [] then m.acknowledge p ackNote 0 []
  else match m.target target (bytes.foldl (fun t b => max t (b.1 + 1)) 0) rSt with
  | .error sub => refuse (refusalCause sub)
  | .ok _ =>
    match m.stageWrite h w none who (fld y 48 8) target.toNat ((bytes.map (·.1)).headD 0) (bytes.map (·.2)) p.ofl with
    | some m1 => m1.acknowledge p ackSerial (fld d 0 32) []
    | none => refuse 4

/-- R399: TAGGED_STORE. -/
def execTaggedStore (pk : Packet) (handle member : W64) (target : BitVec 24) (s : State) : Host.Outcome State Fault Refusal :=
  s.link pk opTagged [0, 2] fun m => { m with mod := m.mod.takeTagged pk handle member target }

/-- A join-control message at its receiver (R271 to R275): an arrival or a rule at the home, which answers; a kill or a release for
contexts of this module; a kill record for a join of this module. -/
def Mach.takeJoin (m : Mach) (p : Packet) (msg : JoinMsg) : Mach :=
  let x := p.payload.getD (joinPayload msg).length 0
  let note := fun (m : Mach) => ({ m with mod := m.mod.acknowledge p ackNote 0 [] } : Mach)
  let reply := fun (m : Mach) (v : Nat) => ({ m with mod := m.mod.acknowledge p ackJoin (fld x 0 32) [BitVec.ofNat 128 v] } : Mach)
  match msg with
  | .arrive h w =>
    let r := m.mod.joinArrive h w none (some (p.src.toNat, fld x 64 44, fld x 48 4)) (fld x 52 8)
    reply { m with mod := r.1 } r.2
  | .rule h w =>
    let r := m.mod.joinRule h w none
    reply { m with mod := r.1 } r.2
  | .kill c k h g => note (m.onMember c k fun y => y.sendKill ⟨h, g, fld x 0 8, fld x 8 64⟩)
  | .released _ _ => note (m.onMember (fld x 0 44) (fld x 44 4) fun y => { y with duty := some (fld x 48 15), overSince := some m.mod.tick })
  | .killed h r => note { m with mod := m.mod.writeKill h r }
  | .wait h g => note { m with mod := m.mod.joinWaits h ⟨p.src, fld x 0 44, fld x 44 4, fld x 64 32, g⟩ }
  | .told h g =>
    let rq := fld (p.payload.getD ((joinPayload msg).length + 1) 0) 0 32
    note (m.onMember (fld x 64 44) (fld x 108 4) fun y =>
      if (y.pending ++ y.savedPend).contains (Pending.joinAsk rq h g) then { y with
        pending := y.pending.filter (· ≠ Pending.joinAsk rq h g), savedPend := y.savedPend.filter (· ≠ Pending.joinAsk rq h g)
        joinTold := some (h, g, BitVec.ofNat 64 (fld x 0 64)) }
      else y)

/-- R399: JOIN_CONTROL. -/
def execJoinControl (pk : Packet) (msg : JoinMsg) (s : State) : Host.Outcome State Fault Refusal :=
  s.link pk opJoin [0] fun m => m.takeJoin pk msg

end Sys2Proof.Machine
end

