-- ==== Sys2Proof/Machine/Domain.lean ====
section
/-! DEFINITION. The trust domain's own events (spec/16 R400, R401, R407 to R417): gaps, heartbeats, rekeying, fencing, the lead,
the scrubber, and the requests of the management window (R393). -/

namespace Sys2Proof.Machine

/-! ### Management packets (R399) -/

/-- Send blocks in as many messages as the 32 payload blocks of a packet ask for (R399). -/
def Mod.manageMany (m : Mod) (dst : BitVec 13) (code arg : Nat) (more : List (BitVec 128)) : Mod :=
  (upTo ((more.length + 30) / 31)).foldl (fun (mo : Mod) i => mo.manage dst code arg ((more.drop (31 * i)).take 31)) m

/-- The admission messages: the epoch, every key set, and the members of the domain (R401 step 5; log 19). -/
def Mod.sendAdmission (m : Mod) (peer : BitVec 13) : Mod :=
  let d := m.dom
  let m1 := d.keys.foldl (fun (mo : Mod) (k : Nat × EpochKeys) => mo.manage peer mgKeys k.1 (keyBlocks k.2)) (m.manage peer mgAdmit d.epoch.toNat [])
  m1.manageMany peer mgMembers 0 (d.members.map fun p => p.setWidth 128)

/-- The candidate is taken into a domain; its keys and members follow. -/
def Mod.takeAdmission (m : Mod) (src : BitVec 13) (epoch : Nat) : Mod :=
  { m with dom := { m.dom with state := .attesting, epoch := BitVec.ofNat 2 epoch, keys := [], leader := src, leads := false, members := [m.addr] } }

/-- A peer is a member no longer (the message's bit 13), or is one now. -/
def Mach.roster (m : Mach) (arg draw : Nat) : Mach :=
  let p : BitVec 13 := BitVec.ofNat 13 arg
  let d := m.mod.dom
  if arg / 2 ^ 13 % 2 = 1 then
    ({ m with mod := { m.mod with dom := { d with members := d.members.filter (· ≠ p), olders := tdel p.toNat d.olders, misses := tdel p.toNat d.misses } } } : Mach).cut
      (· = p) 2 draw
  else
    { m with mod := { m.mod with dom := { d with
        members := if d.members.contains p then d.members else d.members ++ [p], fence := d.fence.filter (· ≠ p), quar := d.quar.filter (· ≠ p) } } }

/-- A member has left: every member takes it off its list, its pairs are cut off, and a rekey follows. -/
def Mach.peerLeaves (m : Mach) (peer : BitVec 13) (draw : Nat) : Mach :=
  let m1 := m.roster (peer.toNat + 2 ^ 13) draw
  let mod1 := m1.mod.manageAll m1.mod.dom.members mgRoster (peer.toNat + 2 ^ 13) []
  let mod2 := if mod1.dom.rekey = .idle then mod1 else (mod1.manageAll (mod1.dom.party.filter (· ≠ peer)) mgAbort 0 []).abortRekey
  { m1 with mod := mod2.startRekey (Config.freshKeys draw) }

/-- What Brosy answers an SPDM requester (R400). -/
def Mod.spdm (m : Mod) (request : List Byte) : List Byte := Config.spdmAnswer Config.certificateChain Config.identityKey m.measurement request

/-- Bytes as payload blocks. -/
def byteBlocks (l : List Byte) : List (BitVec 128) := (upTo ((l.length + 15) / 16)).map fun i => BitVec.ofNat 128 (leNat ((l.drop (16 * i)).take 16))

/-- A peer's SPDM request and its answer, both over VC3 (R400). -/
def Mod.answerSpdm (m : Mod) (peer : BitVec 13) (n : Nat) (blocks : List (BitVec 128)) : Mod :=
  let a := m.spdm ((blocks.flatMap fun b => leBytes 16 b.toNat).take n)
  m.manageMany peer mgSpdmAnswer a.length (byteBlocks a)

/-- R399: MANAGEMENT: messages that have an event of their own act through it; the others act here. -/
def execManagement (pk : Packet) (s : State) : Host.Outcome State Fault Refusal :=
  let d := s.now.mod.dom
  let b := pk.payload.headD 0
  let code := fld b 0 8
  let arg := b.toNat / 2 ^ 8
  let more := pk.payload.drop 1
  let fromLeader := d.leader = pk.src && !d.leads
  let led := d.leads && d.state = .member && d.members.contains pk.src
  s.event (pk.dst = s.now.mod.addr && pk.vc = 3 && (pk.op = opManage || decide (8 < pk.op.toNat)) && pk.payload.length = pk.len.toNat)
    (if !packetOk pk then s.onMod Mod.countDiscard
    else if code = mgAdmit ∧ d.state = .outside then s.onMod fun m => m.takeAdmission pk.src arg
    else if code = mgKeys ∧ d.state = .attesting ∧ fromLeader then
      s.onMod fun m => { m with dom := { m.dom with keys := tset (arg % 4) (blocksKey more) m.dom.keys } }
    else if code = mgMembers ∧ d.state = .attesting ∧ fromLeader then
      s.onMod fun m => { m with dom := { m.dom with members := m.dom.members ++ more.map fun (x : BitVec 128) => x.extractLsb' 0 13 } }
    else if code = mgRoster ∧ (d.state = .member ∨ d.state = .attesting) ∧ fromLeader then { s with now := s.now.roster arg s.free }
    else if code = mgLeave ∧ led then { s with now := s.now.peerLeaves pk.src s.free }
    else if code = mgQuarantine ∧ d.state = .member ∧ d.members.contains pk.src then { s with now := s.now.quarantined pk.src s.free }
    else if code = mgPair ∧ led then { s with now := s.now.fenceOfPair pk.src (BitVec.ofNat 13 arg) s.free }
    else if code = mgOlder ∧ led then
      s.onMod fun m => ({ m with dom := { m.dom with olders := tset pk.src.toNat arg m.dom.olders } } : Mod).wantedRekey s.free
    else if code = mgSpdm then s.onMod fun m => m.answerSpdm pk.src arg more
    else s)

/-! ### Gaps and resynchronisation -/

/-- R407: GAP_TIMEOUT. -/
def execGapTimeout (src : BitVec 13) (vc : BitVec 2) (s : State) : Host.Outcome State Fault Refusal :=
  let m := s.now.mod
  let w := m.dom.window src vc m.dom.epoch
  s.event (vc ≠ 3 && (m.domainFault src).isNone && w.seen.any fun (e : Nat × Nat) => decide (e.2 + m.gapt.toNat ≤ m.tick))
    { s with now := s.now.quarantine src s.free }

/-- R409: QUARANTINE_RESYNC: both windows start at the numbers the other side reports, and the bit clears; a failure makes the
leader fence. -/
def execQuarantineResync (peer : BitVec 13) (nums : List Nat) (ok : Bool) (s : State) : Host.Outcome State Fault Refusal :=
  let d := s.now.mod.dom
  s.event (d.state = .member && d.quar.contains peer && nums.length = 3)
    (if ok then s.onMod fun m =>
      let d1 := (upTo 3).foldl (fun (d : Domain) v => d.setWindow ⟨peer, BitVec.ofNat 2 v, d.epoch, nums.getD v 0, [], []⟩) m.dom
      { m with dom := { d1 with quar := d1.quar.filter (· ≠ peer) } }
    else { s with now := s.now.fencePair peer s.free })

/-! ### Heartbeats (R412, R416) -/

/-- Those whose heartbeats this module expects. -/
def Mod.expects (m : Mod) : List (BitVec 13) := (if m.dom.leads then m.dom.members else [m.dom.leader]).filter (· ≠ m.addr)

/-- R412: HEARTBEAT: this module sends its heartbeats, or one of a member arrives. A miss is counted at each own heartbeat. -/
def execHeartbeat (src : BitVec 13) (s : State) : Host.Outcome State Fault Refusal :=
  let m := s.now.mod
  if src = m.addr then
    s.event (m.dom.state = .member && m.tick % 600000 = 0) (s.onMod fun m =>
      let m1 := m.manageAll m.expects mgBeat 0 []
      { m1 with dom := { m1.dom with misses := m.expects.foldl (fun t p => tput 0 p.toNat (tget 0 p.toNat t + 1) t) m1.dom.misses } })
  else s.event (m.dom.state = .member && m.expects.contains src) (s.onMod fun m => { m with dom := { m.dom with misses := tdel src.toNat m.dom.misses } })

/-- This module takes the lead: it fences the former leader, says so, and starts a rekey. -/
def Mach.takeLead (m : Mach) (draw : Nat) : Mach :=
  let old := m.mod.dom.leader
  let m1 := m.fencePeer old draw
  let d1 : Domain := { m1.mod.dom with leads := true, announced := true, leader := m1.mod.addr }
  let mod1 := ({ m1.mod with dom := d1 } : Mod).manageAll d1.members mgLead 0 []
  { m1 with mod := (mod1.manageAll d1.members mgFence old.toNat []).abortRekey.startRekey (Config.freshKeys draw) }

/-- R412, R414, R416: HEARTBEAT_MISS_FENCE: eight heartbeats in a row missed: the leader fences the member; of the members whose
leader has failed the lowest takes the lead; a module that its leader has fenced (peer: itself) erases its keys. -/
def execHeartbeatMissFence (peer : BitVec 13) (s : State) : Host.Outcome State Fault Refusal :=
  let m := s.now.mod
  let d := m.dom
  let missed := fun (p : BitVec 13) => decide (8 ≤ tget 0 p.toNat d.misses)
  if peer = m.addr then s.event (d.state = .member && !d.leads && missed d.leader) { s with now := s.now.fenceSelf s.free }
  else if d.leads then s.event (d.state = .member && d.members.contains peer && missed peer) { s with now := s.now.leaderFence peer s.free }
  else s.event (d.state = .member && peer = d.leader && missed peer && (d.members.filter (· ≠ peer)).all fun p => decide (m.addr.toNat ≤ p.toNat))
    { s with now := s.now.takeLead s.free }

/-! ### Rekeying (R411, R412) -/

/-- R411: PREPARE. -/
def execPrepare (keys : EpochKeys) (s : State) : Host.Outcome State Fault Refusal :=
  let d := s.now.mod.dom
  s.event ((d.state = .member || d.state = .attesting) && !d.leads && d.rekey = .idle)
    (s.onMod fun m => { m with dom := { m.dom with newKeys := some keys, rekey := .draining, prepTick := m.tick } })

/-- R411: DRAIN_COMPLETE: every request of VC 0 and 2 has been answered; the arrival goes to the leader. -/
def execDrainComplete (s : State) : Host.Outcome State Fault Refusal :=
  s.event (s.now.mod.dom.rekey = .draining && s.now.mod.dom.opens = []) (s.onMod fun m =>
    let m1 := { m with dom := { m.dom with rekey := .arrived } }
    if m.dom.leads then ({ m1 with dom := { m1.dom with arrivals := m1.dom.arrivals ++ [(m.addr, m.dom.older)] } } : Mod).commitWhenAll
    else m1.manage m.dom.leader mgArrival m.dom.older [])

/-- R411: REKEY_ARRIVAL at the leader. -/
def execRekeyArrival (src : BitVec 13) (older : Nat) (s : State) : Host.Outcome State Fault Refusal :=
  let d := s.now.mod.dom
  s.event (d.leads && d.rekey ≠ .idle && d.party.contains src && !d.arrivals.any (·.1 = src)) (s.onMod fun m =>
    ({ m with dom := { m.dom with arrivals := m.dom.arrivals ++ [(src, older)] } } : Mod).commitWhenAll)

/-- R411: COMMIT; it has no further effect on a member that has committed. -/
def execCommit (s : State) : Host.Outcome State Fault Refusal := s.event (s.now.mod.dom.rekey = .arrived && !s.now.mod.dom.leads) (s.onMod Mod.commit)

/-- R411: ABORT. -/
def execAbort (s : State) : Host.Outcome State Fault Refusal := s.event (s.now.mod.dom.rekey ≠ .idle) (s.onMod Mod.abortRekey)

/-- R412: PREPARE_TIMEOUT: a member that has not arrived is fenced, ABORT is sent, and a rekey with fresh keys starts. -/
def execPrepareTimeout (peer : BitVec 13) (s : State) : Host.Outcome State Fault Refusal :=
  let m := s.now.mod
  let d := m.dom
  s.event (d.leads && d.rekey ≠ .idle && decide (d.prepTick + 60000000 ≤ m.tick) && peer ≠ m.addr && d.party.contains peer && !d.arrivals.any (·.1 = peer))
    { s with now := s.now.leaderFence peer s.free }

/-- R406: REKEY_REQUEST: this module asks its leader, or the leader is asked. -/
def execRekeyRequest (src : BitVec 13) (s : State) : Host.Outcome State Fault Refusal :=
  let m := s.now.mod
  if m.dom.leads then s.event (m.dom.state = .member && m.dom.members.contains src) (s.onMod fun m => m.startRekey (Config.freshKeys s.free))
  else s.event (m.dom.state = .member && src = m.addr) (s.onMod fun m => m.manage m.dom.leader mgRekey 0 [])

/-! ### Fencing and the lead (R414 to R416) -/

/-- R414: FENCE. -/
def execFence (peer : BitVec 13) (s : State) : Host.Outcome State Fault Refusal :=
  let m := s.now.mod
  s.event (m.dom.state = .member || m.dom.state = .attesting) { s with now := if peer = m.addr then s.now.fenceSelf s.free else s.now.fencePeer peer s.free }

/-- R416: LEAD_ANNOUNCEMENT: of two announcers the lower id leads. -/
def execLeadAnnouncement (src : BitVec 13) (s : State) : Host.Outcome State Fault Refusal :=
  let m := s.now.mod
  let d := m.dom
  s.event (d.state = .member && src ≠ m.addr && d.members.contains src && (if d.announced then decide (src.toNat < d.leader.toNat) else !d.leads))
    (s.onMod fun m => { m with dom := { m.dom with leader := src, leads := false, announced := true, misses := tdel src.toNat m.dom.misses } })

/-- R414: MEASUREMENT_CHANGE_REPORT: this module reports to its leader, or the leader fences the reporter. -/
def execMeasurementChangeReport (src : BitVec 13) (s : State) : Host.Outcome State Fault Refusal :=
  let m := s.now.mod
  if src = m.addr then s.event (m.dom.state = .member && !m.dom.leads) (s.onMod fun m => m.manage m.dom.leader mgMeasured 0 [])
  else s.event (m.dom.leads && m.dom.members.contains src) { s with now := s.now.leaderFence src s.free }

/-! ### The scrubber (R413) -/

/-- One line is re-encrypted under the current epoch, unless it is already, and a check that fails poisons it (R405); then keys that no
line needs are dropped, and the leader is told (log 19). -/
def Mod.scrub (m : Mod) (line : Nat) : Mod :=
  let d := m.dom
  let m0 := if (tfind line d.lines).any (·.bare.isSome) then m.logLost (512 * line) else m
  let bad := (tfind line d.lines).any (·.bare.isSome)
  let lines := match tfind line d.lines with
    | some e =>
      if bad then tdel line d.lines
      else if e.epoch ≠ d.epoch ∧ (tfind e.epoch.toNat d.keys).isSome then tset line (m.seal line e.obj e.line) d.lines else d.lines
    | none => d.lines
  let used := fun (k : Nat) => k = d.epoch.toNat || lines.any fun (l : Nat × DomLine) => l.2.bare.isNone && l.2.epoch.toNat = k
  let keys := d.keys.filter fun (k : Nat × EpochKeys) => used k.1
  let m1 : Mod := { m0 with dom := { d with lines := lines, keys := keys, scrub := 1 < keys.length } }
  let m2 : Mod := if keys.length < d.keys.length ∧ !d.leads then m1.manage d.leader mgOlder m1.dom.older [] else m1
  if bad then { m2 with poison := (upTo 4).foldl (fun t i => sins (4 * line + i) t) m.poison } else m2

/-- R413: SCRUB_LINE. -/
def execScrubLine (line : Nat) (s : State) : Host.Outcome State Fault Refusal :=
  s.event (s.now.mod.dom.scrub && s.now.mod.dom.state = .member) (s.onMod fun m => (m.scrub line).wantedRekey s.free)

/-! ### The management window (R393, Table 16-2) -/

/-- A request that Brosy has handled: its words with go clear, and the answer. -/
def Mod.managed (m : Mod) (port : Nat) (words : List Nat) (ans : W64) : Mod :=
  { m with mgmt := vmod m.mgmt port fun g =>
      { g with words := (words.zip (upTo 8)).foldl (fun v (w : Nat × Nat) => vmod v w.2 fun _ => BitVec.ofNat 64 w.1) g.words, answer := ans, busy := false } }

/-- What a request that was written to the window holds: its operation and arguments, while go is 1. -/
def Mgmt.holds (g : Mgmt) (words : List Nat) : Bool :=
  !(vat 0 g.words 0).getLsbD 63 || (words.zip (upTo 8)).all fun (w : Nat × Nat) =>
    let x := (vat 0 g.words w.2).toNat
    w.1 = if w.2 = 0 then x % 2 ^ 63 else x

/-- A request of the window of a port: 4 while Brosy is not ready, 5 without the semaphore where it is needed; else its answer. -/
def State.request (s : State) (port : Nat) (words : List Nat) (sem : Bool) (f : State → State × W64) : Host.Outcome State Fault Refusal :=
  let m := s.now.mod
  let r := if !m.rdy.getLsbD 0 then (s, 4) else if sem ∧ m.semaOwner ≠ port + 1 then (s, 5) else f s
  s.event (decide (port < 2) && (vat Mgmt.reset m.mgmt port).holds words) (r.1.onMod fun m => m.managed port words r.2)

/-- The same for a request that only the leader carries out. -/
def State.leaderRequest (s : State) (port : Nat) (words : List Nat) (f : State → State × W64) : Host.Outcome State Fault Refusal :=
  s.request port words true fun s => if s.now.mod.dom.leads ∧ s.now.mod.dom.state = .member then f s else (s, 1)

/-- R387, R393: READ_ERROR_LOG_WORD. -/
def execReadErrorLogWord (port : Nat) (w1 w2 : W64) (s : State) : Host.Outcome State Fault Refusal :=
  s.request port [2, w1.toNat, w2.toNat] false fun s => (s, if fld w1 0 8 = 2 then s.now.mod.monitorAnswer w1 w2 else BitVec.allOnes 64)

/-- The bytes of a policy block that Table 16-6 allows, in device memory. -/
def Mod.policyBlock (m : Mod) (obj : BitVec 24) (off : W64) : Option (List Byte) :=
  match m.entry obj.toNat with
  | none => none
  | some e =>
    if !entValid e ∨ entType e ≠ 1 ∨ entLen e < off.toNat + 1152 then none
    else match (upTo 1152).mapM fun i => (match m.place obj.toNat e (off.toNat + i) false with | .phys a => some a | _ => none) with
      | none => none
      | some as =>
        let l := as.map fun a => m.outer (entDp e) a (m.shown none a)
        let n := leNat ((l.drop 0x40).take 4)
        if as.any (m.poisoned (entDp e)) ∨ n = 0 ∨ 16 < n ∨ ((l.drop 0x44).take 60).any (· ≠ 0) then none else some l


/-- A policy accepts a root public key and a measurement summary (R401 steps 2 and 3, Table 16-6). -/
def policyAccepts (block : List Byte) (root : List Byte) (summary : BitVec 512) : Bool :=
  leBytes 64 (Config.shake256 root).toNat = block.take 64 &&
    (upTo (leNat ((block.drop 0x40).take 4))).any fun i => (block.drop (0x80 + 64 * i)).take 64 = leBytes 64 summary.toNat

/-- R401: CREATE_DOMAIN: this module leads a new domain of itself alone, at epoch 0. -/
def execCreateDomain (port : Nat) (obj : BitVec 24) (off : W64) (s : State) : Host.Outcome State Fault Refusal :=
  s.request port [0x10, obj.toNat, off.toNat] true fun s =>
    if s.now.mod.dom.state ≠ .outside ∨ (s.now.mod.policyBlock obj off).isNone then (s, 6)
    else (s.onMod fun m => { m with dom := { m.dom with
      state := .member, epoch := 0, keys := [(0, Config.freshKeys s.free)], leader := m.addr, leads := true, announced := false
      members := [m.addr], policy := some (obj, off) } }, 0)

/-- R401: ADMIT_MODULE: the steps of the admission, as far as they succeed; then a rekey that includes the candidate. -/
def execAdmitModule (port : Nat) (peer : BitVec 13) (out : AdmitOutcome) (keys : EpochKeys) (s : State) : Host.Outcome State Fault Refusal :=
  s.leaderRequest port [0x11, peer.toNat] fun s =>
    let d := s.now.mod.dom
    if d.admitting.isSome then (s, 4)
    else if d.members.contains peer then (s, 3)
    else match out with
      | .unreachable => (s, 3)
      | .attestation => (s, 2)
      | .admitted root summary =>
        if !((d.policy.bind fun p => s.now.mod.policyBlock p.1 p.2).any fun b => policyAccepts b root summary) then (s, 2)
        else (s.onMod fun m =>
        let m1 := m.sendAdmission peer
        ({ m1 with dom := { m1.dom with admitting := some peer, fence := m1.dom.fence.filter (· ≠ peer), quar := m1.dom.quar.filter (· ≠ peer) } } : Mod).startRekey keys, 0)

/-- R414: REMOVE_MODULE. -/
def execRemoveModule (port : Nat) (peer : BitVec 13) (s : State) : Host.Outcome State Fault Refusal :=
  s.leaderRequest port [0x12, peer.toNat] fun s =>
    if peer = s.now.mod.addr ∨ !s.now.mod.dom.members.contains peer then (s, 6) else ({ s with now := s.now.leaderFence peer s.free }, 0)

/-- R411: REKEY_NOW. -/
def execRekeyNow (port : Nat) (keys : EpochKeys) (s : State) : Host.Outcome State Fault Refusal :=
  s.leaderRequest port [0x13] fun s => if s.now.mod.dom.rekey ≠ .idle then (s, 4) else (s.onMod fun m => m.startRekey keys, 0)

/-- This module leaves its domain: its state is 0 and it holds no key. -/
def Mach.leave (m : Mach) (draw : Nat) : Mach :=
  let d := m.mod.dom
  let mod1 := (if d.state = .member ∧ !d.leads then m.mod.manage d.leader mgLeave 0 [] else m.mod).eraseKeys
  let m1 := ({ m with mod := mod1 } : Mach).cut (fun _ => true) 3 draw
  { m1 with mod := { m1.mod with dom := { Domain.reset with sent := m1.mod.dom.sent, discarded := m1.mod.dom.discarded, lines := m1.mod.dom.lines } } }

/-- R393, R417: LEAVE_DOMAIN. -/
def execLeaveDomain (port : Nat) (s : State) : Host.Outcome State Fault Refusal :=
  s.request port [0x14] true fun s => if s.now.mod.dom.state = .outside then (s, 6) else ({ s with now := s.now.leave s.free }, 0)

/-- R393: READ_DOMAIN_STATUS. -/
def execReadDomainStatus (port : Nat) (s : State) : Host.Outcome State Fault Refusal :=
  s.request port [0x20] false fun s => (s, s.now.mod.dom.word)

/-- R400: SPDM_REQUEST: Brosy answers (log 13). -/
def execSpdmRequest (port : Nat) (request : List Byte) (s : State) : Host.Outcome State Fault Refusal :=
  s.event (decide (port < 2) && s.now.mod.rdy.getLsbD 0) (s.onMod fun m => m.setPort port fun q => { q with answer := m.spdm request, spdm := true })

end Sys2Proof.Machine
end

