-- ==== Sys2Proof/Machine/HostEvents.lean ====
section
/-! DEFINITION. What the outside world does to the module through its host and Ethernet ports (spec/13 R320, R330, R331, R336 to R339,
spec/15 R371 to R374, spec/16 R389 to R392, R418, R419, spec/04 R130, R131). -/

namespace Sys2Proof.Machine

/-! ### Registers and the semaphore -/

/-- A write by a claimant: a port's refusal sets its sticky bit, and a supervisor's writes go by the partition of its die. -/
def Mod.claimWrite (m : Mod) (who : Claimant) (num : Nat) (v : W64) : Mod :=
  match who with
  | .port p => m.hostWriteReg p num v
  | .supervisor die _ => match m.writeReg who (fld (m.die die).dpart 0 3) num v with | .ok m1 => m1 | .error _ => m
  | .monitor => match m.writeReg who 0 num v with | .ok m1 => m1 | .error _ => m

/-- A party that the module has. -/
def claimantKnown : Claimant → Bool
  | .port p => decide (p < 2)
  | .supervisor die _ => decide (die < 10)
  | .monitor => true

/-- R316, R321: REGISTER_WRITE. -/
def execRegisterWrite (who : Claimant) (reg : BitVec 16) (value : W64) (s : State) : Host.Outcome State Fault Refusal :=
  s.event (claimantKnown who) (s.onMod fun m => m.claimWrite who reg.toNat value)

/-- R336: TAKE: takes that reach the semaphore in one cycle, with those of supervisors that wait; a port's read returns its result. -/
def execTake (claimants : List Claimant) (s : State) : Host.Outcome State Fault Refusal :=
  s.event (claimants ≠ []) { s with now := s.now.decideTakes claimants }

/-- R336: SEMA_WRITE. -/
def execSemaWrite (who : Claimant) (value : W64) (s : State) : Host.Outcome State Fault Refusal :=
  s.event (claimCode who ≠ 0) (s.onMod fun m => m.semaWrite who value)

/-- R336: LEASE_EXPIRY. -/
def execLeaseExpiry (s : State) : Host.Outcome State Fault Refusal :=
  let m := s.now.mod
  s.event (m.lease ≠ 0 && m.semaOwner ≠ 0 && decide (m.since + m.lease.toNat ≤ m.tick)) (s.onMod fun m => { m with semaOwner := 0, expired := true })

/-- R294: AHI_PUSH. -/
def execAhiPush (port : Nat) (value : W64) (s : State) : Host.Outcome State Fault Refusal :=
  s.event (decide (port < 2)) (s.onMod fun m => m.hostWriteReg port (0xF051 + 2 * port) value)

/-- R330: WQCFG_REOPEN: closed is written 0, and the other fields as they are. -/
def execWqcfgReopen (who : Claimant) (die q : Nat) (s : State) : Host.Outcome State Fault Refusal :=
  s.event (decide (die < 10) && decide (q < 64)) (s.onMod fun m =>
    m.claimWrite who (die * 2 ^ 12 + 0x40 + q) (setFld (m.queue die q).word 27 1 0))

/-- R354: STRICT_WRITE. -/
def execStrictWrite (who : Claimant) (die : Nat) (value : W64) (s : State) : Host.Outcome State Fault Refusal :=
  s.event (decide (die < 10)) (s.onMod fun m => m.claimWrite who (die * 2 ^ 12 + 2) value)

/-! ### Queue windows (R331) -/

/-- What a read at the start of a window returns. -/
def Mod.windowWord (m : Mod) (port die q : Nat) : W64 :=
  let w := m.queue die q
  BitVec.ofNat 64 (w.recs.length + (if w.closed then 2 ^ 16 else 0) + (tget 0 (die * 64 + q) (m.port port).drops).toNat * 2 ^ 32)

/-- A host write to a window pushes a record, or is dropped and counted. -/
def Mod.windowWrite (m : Mod) (port off : Nat) (data : List Byte) : Mod :=
  let die := off / 0x40000
  let q := off % 0x40000 / 0x1000
  let w := m.queue die q
  if data.length = 64 ∧ off % 64 = 0 ∧ w.win ∧ w.open ∧ !w.full ∧ m.portOpen port ∧ m.rdy.getLsbD 0 then m.push die q (hostRank port) (BitVec.ofNat 512 (leNat data))
  else m.setPort port fun p => { p with drops := tput 0 (die * 64 + q) (tget 0 (die * 64 + q) p.drops + 1) p.drops }

/-- R331: QUEUE_WINDOW_PUSH; an access without data is a read of the window. -/
def execQueueWindowPush (port : Nat) (off : Nat) (data : List Byte) (s : State) : Host.Outcome State Fault Refusal :=
  s.event (decide (port < 2) && decide (off < 10 * 0x40000)) (s.onMod fun m =>
    if data = [] then m.setPort port fun p =>
      { p with answer := leBytes 8 (if off % 0x1000 = 0 ∧ m.portOpen port then m.windowWord port (off / 0x40000) (off % 0x40000 / 0x1000) else 0).toNat }
    else m.windowWrite port off data)

/-! ### Event rings (R337, R339) -/

/-- R337: PENDING_RECORD_WRITE: the oldest record that waits for the ring is written once the ring takes it. -/
def execPendingRecordWrite (ring : Nat) (s : State) : Host.Outcome State Fault Refusal :=
  match s.now.mod.pendRecs.find? (·.1 = ring) with
  | none => s.event false s
  | some r => s.event (s.now.mod.ringOpen ring) (s.onMod fun m => ({ m with pendRecs := m.pendRecs.erase r } : Mod).ringWrite ring r.2)

/-- R339: INTERRUPT_COALESCING_TIMER. -/
def execInterruptCoalescingTimer (ring : Nat) (s : State) : Host.Outcome State Fault Refusal :=
  let x := s.now.mod.ring ring
  s.event (x.ctime ≠ 0 && x.pend ≠ 0 && decide (x.oldest + x.ctime.toNat ≤ s.now.mod.tick)) (s.onMod fun m => m.interrupt ring)

/-! ### Host accesses to device memory (spec/04 R130, R131, spec/16 R390, R392) -/

/-- The device addresses of n bytes at a host address: none when the port does not carry them, a decoder does not cover them, or
their stack is not ready. -/
def Mod.hostBytes (m : Mod) (port addr n : Nat) : Option (List Nat) :=
  if !m.portCxl port then none
  else (upTo n).mapM fun i => ((m.port port).hdm (addr + i)).filter m.stackReady

/-- What a port is answered. -/
def Mod.hostAnswer (m : Mod) (port : Nat) (data : List Byte) (status : Nat) : Mod :=
  m.setPort port fun p => { p with answer := data, status := status }

/-- R131: HOST_MEM_READ: published bytes, with the poison indication (spec/15 R384). -/
def execHostMemRead (port : Nat) (addr n : Nat) (s : State) : Host.Outcome State Fault Refusal :=
  s.event (decide (port < 2)) (s.onMod fun m => match m.hostBytes port addr n with
    | none => m.hostAnswer port [] 2
    | some as => m.hostAnswer port (as.map fun a => m.outer false a (m.shown none a)) (if as.any (m.poisoned false) then 1 else 0))

/-- R131: HOST_MEM_WRITE: applied at the home, and poison with it. -/
def execHostMemWrite (port : Nat) (addr : Nat) (data : List Byte) (poison : Bool) (s : State) : Host.Outcome State Fault Refusal :=
  s.event (decide (port < 2)) (s.onMod fun m => match m.hostBytes port addr data.length with
    | none => m.hostAnswer port [] 2
    | some as => (m.publishCells none .host none (as.zip data) (if poison then as else [])).hostAnswer port [] 0)

/-- An atomic of a host at the home of a word; one on poisoned data does not execute. -/
def Mod.hostAtomic (m : Mod) (port addr n : Nat) (op : HomeOp) (v v2 : W64) : Mod :=
  match m.hostBytes port addr n with
  | none => m.hostAnswer port [] 2
  | some as =>
    let a := as.headD 0
    if m.poisoned false a then m.hostAnswer port (as.map fun a => m.outer false a (m.shown none a)) 1
    else
      let old := (m.homeOp none none a n .ld 0 0).2
      (if op = .ld then m else m.publishCells none .host none (as.zip (leBytes n (homeNew op n old v.toNat v2.toNat))) []).hostAnswer port (leBytes n old) 0

/-- R130: HOST_ATOMIC. -/
def execHostAtomic (port : Nat) (addr n : Nat) (op : HomeOp) (v v2 : W64) (s : State) : Host.Outcome State Fault Refusal :=
  s.event (decide (port < 2) && [1, 2, 4, 8].contains n && addr % n = 0) (s.onMod fun m => m.hostAtomic port addr n op v v2)

/-- R130: HOST_LOCKED_OPERATION: performed in the host's cache on a line that it holds alone: every device access to the line comes
wholly before or wholly after it. -/
def execHostLockedOperation (port : Nat) (addr n : Nat) (op : HomeOp) (v v2 : W64) (s : State) : Host.Outcome State Fault Refusal :=
  s.event (decide (port < 2) && [1, 2, 4, 8].contains n && addr % n = 0) (s.onMod fun m => m.hostAtomic port addr n op v v2)

/-- R390: HOST_SNOOP: the device gives up a 64-byte line of host memory; data: what the host then stores there (none: it only
reads). -/
def execHostSnoop (port : Nat) (line : Nat) (data : List Byte) (s : State) : Host.Outcome State Fault Refusal :=
  s.event (decide (port < 2) && s.now.mod.portCxl port && decide (data.length ≤ 64)) (s.onMod fun m =>
    m.publishCells none .host none (data.mapIdx fun i b => (hostBase + 64 * line + i, b)) [])

/-! ### Translation (spec/15 R371 to R374) -/

/-- The translation that a page request asked for exists (R372). -/
def Mod.requestMet (m : Mod) (r : PageReq) : Bool :=
  match m.entry r.obj.toNat with
  | some e => (m.xlate (entHp e) (entPid e) (entBase e + 4096 * r.page) r.write).isSome
  | none => false

/-- A page request has failed for whatever waits for the page: held bundles and publishes, .rop reads, and mapreq, which reports 2
when the host refused the request (R372, R373; log 75). -/
def Mach.pageFailed (m : Mach) (obj page sub : Nat) (refused : Bool) : Mach :=
  let m1 := m.everyCtx fun c =>
    { c with
      pageFail := if c.st = .blocked then some (obj, page, sub) else c.pageFail
      engine := c.engine.map fun o => match o.body with
        | .mapreq cap _ _ => if refused ∧ capObject cap = obj ∧ o.asked.contains page then { o with status := 2 } else o
        | _ => o }
  let rop := fun (k : Core) => { k with meq := k.meq.map fun o => if o.pages.contains (obj, page) then { o with failed := (obj, page) :: o.failed } else o }
  let u := m1.unload
  let u' : Mach := { u with mod := { u.mod with cores := u.mod.cores.map fun (e : Nat × Core) => (e.1, rop e.2) } }
  if m1.core.launch.isSome then u'.load m1.cid m1.xid else u'

/-- What a translation holds of a page. -/
def Xlate.covers (t : Xlate) (port : Nat) (pasid : Option (BitVec 20)) (va : Nat) : Bool :=
  t.port = port && t.pasid = pasid && decide (t.va ≤ va) && decide (va < t.va + t.size)

/-- Translations leave the cache. -/
def Mod.dropXlates (m : Mod) (which : Xlate → Bool) : Mod :=
  { m with
    xlates := m.xlates.filter fun t => !which t
    pastXlates := (m.xlates.filter which).foldl (fun l t => if l.contains t then l else l ++ [t]) m.pastXlates }

/-- The cache takes a translation: it holds 16,384 of them, and one of each address. -/
def Mod.takeXlate (m : Mod) (t : Xlate) : Mod :=
  let m1 := m.dropXlates fun x => x.port = t.port && x.pasid = t.pasid && decide (x.va < t.va + t.size) && decide (t.va < x.va + x.size)
  let m2 := if m1.xlates.length < 16384 then m1 else m1.dropXlates fun x => m1.xlates.head? = some x
  { m2 with xlates := m2.xlates ++ [t] }

/-- R371: TRANSLATION_RESPONSE to a translation request. A translation that still fails after a page request that succeeded fails what
waits for the page (R372). -/
def execTranslationResponse (port : Nat) (pasid : Option (BitVec 20)) (va : Nat) (page : Nat) (pa : Nat) (rd wr : Bool) (s : State) :
    Host.Outcome State Fault Refusal :=
  let t : Xlate := ⟨port, pasid, va, page, pa, rd, wr⟩
  let mine := fun (r : AtsReq) => t.covers r.port r.pasid (4096 * r.page)
  let met := s.now.mod.atsReqs.filter mine
  s.event (decide (port < 2) && decide (4096 ≤ page) && page % 4096 = 0 && va % page = 0 && pa % page = 0 && s.now.mod.portOpen port && met ≠ [])
    (met.foldl (fun (s : State) a => match a.after with
      | some r => if s.now.mod.requestMet r then s else { s with now := s.now.pageFailed r.obj.toNat r.page 2 false }
      | none => s) (s.onMod fun m => { m.takeXlate t with atsReqs := m.atsReqs.filter fun r => !mine r }))

/-- After a page request that succeeded the module translates again (R372): what it holds of the page goes. -/
def Mod.translateAgain (m : Mod) (r : PageReq) : Mod :=
  match m.entry r.obj.toNat with
  | none => m
  | some e =>
    let va := entBase e + 4096 * r.page
    { m.dropXlates fun t => t.covers (entHp e) (entPid e) va with
      atsReqs := (m.atsReqs.filter fun a => !(a.port = entHp e ∧ a.pasid = entPid e ∧ a.page = va / 4096)) ++ [⟨entHp e, entPid e, va / 4096, some r⟩] }

/-- R372: PAGE_REQUEST_RESPONSE, to one of the requests that the host's allocation lets be outstanding. -/
def execPageRequestResponse (port : Nat) (obj : BitVec 24) (page : Nat) (ans : PriAnswer) (s : State) : Host.Outcome State Fault Refusal :=
  let m := s.now.mod
  let sent := (m.pageReqs.filter (·.port = port)).take (m.port port).prAlloc
  match sent.find? fun r => r.obj = obj ∧ r.page = page with
  | none => s.event false s
  | some r =>
    let s1 := s.onMod fun m => { m with pageReqs := m.pageReqs.erase r }
    s.event (m.portCxl port) (match ans with
      | .success => if m.requestMet r then s1 else s1.onMod fun m => m.translateAgain r
      | .invalid => { s1 with now := s1.now.pageFailed obj.toNat page 2 true }
      | .failure =>
        let s2 := s1.onMod fun m => m.setPort port fun p => { p with stopped := true }
        { s2 with now := s2.now.pageFailed obj.toNat page 3 true })

/-- R374: ATS_INVALIDATE_REQUEST: the translations of the range are dropped, clean bytes of host-shared objects that lie in it are read
anew on every core, and Invalidate Completion is sent: every access is applied where it is made, so none is waited for (log 7). -/
def execAtsInvalidateRequest (port : Nat) (pasid : Option (BitVec 20)) (va len : Nat) (s : State) : Host.Outcome State Fault Refusal :=
  let hit := fun (t : Xlate) => t.port = port && t.pasid = pasid && decide (t.va < va + len) && decide (va < t.va + t.size)
  let s1 := s.onMod fun m => { (m.setPort port fun p => { p with completions := p.completions + 1 }) with
    xlates := m.xlates.filter fun t => !hit t, pastXlates := m.pastXlates.filter fun t => !hit t }
  let stale := fun (c : Host.Cell) => (s.now.mod.entry (c.1 / 2 ^ 64)).any fun e =>
    entType e = 2 && entHp e = port && entPid e = pasid && decide (va ≤ entBase e + c.1 % 2 ^ 64) && decide (entBase e + c.1 % 2 ^ 64 < va + len)
  s.event (decide (port < 2) && s.now.mod.portOpen port)
    { s1 with now := s1.now.everyCtxAt fun b c =>
        { c.reread s1.now.mod b (s.now.mod.readThrough port pasid va len) with l1 := c.l1.filter fun x => !stale x } }

/-! ### Configuration (spec/16 R389) -/

/-- A decoder within the limits of Table 16-1. -/
def decoderOk (base len dbase : Nat) (targets : List Nat) : Bool :=
  base % 2 ^ 28 = 0 && len % 2 ^ 28 = 0 && dbase % 2 ^ 28 = 0 && [1, 2, 4, 8].contains targets.length && targets.all (fun d => decide (d < 8)) &&
    decide (dbase + len / targets.length ≤ stackBytes)

/-- A configuration access that changes the port. -/
def HostPort.configured (p : HostPort) : PortConfig → HostPort
  | .pageRequests n => { p with stopped := false, prAlloc := min n 512 }
  | .decoder base len dbase targets =>
    if decoderOk base len dbase targets ∧ p.decoders.length < 4 then { p with decoders := p.decoders ++ [⟨base, len, dbase, targets⟩] } else p
  | .streams on => { p with ide := on }
  | .ioRead .. => p
  | .ioWrite .. => p

/-- The register that an offset of the register window names; only accesses of 8 bytes reach one (R320). -/
def windowReg (off n : Nat) : Option Nat :=
  if n = 8 ∧ off % 8 = 0 ∧ off < 0x80000 then some (off / 0x8000 * 2 ^ 12 + off % 0x8000 / 8) else none

/-- The operations of Table 16-2, and the module reset (spec/17 R427). -/
def knownRequest (op : Nat) : Bool := [0x02, 0x10, 0x11, 0x12, 0x13, 0x14, 0x20, 0x30].contains op

/-- What the management window reads as (log 76). -/
def Mgmt.read (g : Mgmt) (off : Nat) : W64 :=
  if off % 8 ≠ 0 then 0
  else if off < 0x40 then vat 0 g.words (off / 8)
  else if off = 0x40 then g.answer
  else if off = 0x48 then flagBit g.busy
  else 0

/-- A write to the request block; one while go is 1 is discarded, and go starts the request (R393; log 76). -/
def Mgmt.write (g : Mgmt) (off : Nat) (v : W64) : Mgmt :=
  if (vat 0 g.words 0).getLsbD 63 ∨ off % 8 ≠ 0 ∨ 0x40 ≤ off then g
  else
    let g1 := { g with words := vmod g.words (off / 8) fun _ => v }
    if off ≠ 0 ∨ !v.getLsbD 63 then g1
    else if knownRequest (fld v 0 8) ∧ fld v 8 55 = 0 then { g1 with busy := true }
    else { g1 with words := vmod g1.words 0 fun w => setFld w 63 1 0, answer := BitVec.allOnes 64 }

/-- A read of n bytes of a port's memory regions; one of take attempts a take (R320, R331, R336, R393). -/
def Mach.ioRead (m : Mach) (port region off n : Nat) : Mach :=
  let give := fun (v : W64) => { m with mod := m.mod.setPort port fun p => { p with answer := leBytes n v.toNat } }
  match region with
  | 0 => (match windowReg off n with
    | some num => if num = takeReg then m.decideTakes [.port port] else give (m.mod.readReg num)
    | none => give 0)
  | 1 => give (if off % 0x1000 = 0 ∧ m.mod.portOpen port ∧ n = 8 then m.mod.windowWord port (off / 0x40000) (off % 0x40000 / 0x1000) else 0)
  | 2 => give (if n = 8 then (vat Mgmt.reset m.mod.mgmt port).read off else 0)
  | _ => m

/-- A write to a port's memory regions. -/
def Mod.ioWrite (m : Mod) (port region off : Nat) (data : List Byte) : Mod :=
  let v := BitVec.ofNat 64 (leNat data)
  match region with
  | 0 => (match windowReg off data.length with | some num => m.hostWriteReg port num v | none => m)
  | 1 => if off < 10 * 0x40000 then m.windowWrite port off data else m
  | 2 => if data.length = 8 then { m with mgmt := vmod m.mgmt port fun g => g.write off v } else m
  | _ => m

/-- R320, R331, R372, R389, R393: CONFIGURATION_ACCESS: of the port's configuration or memory regions. Interrupts that waited for the
IDE streams are raised then (R392). -/
def execConfigurationAccess (port : Nat) (cfg : PortConfig) (s : State) : Host.Outcome State Fault Refusal :=
  s.event (decide (port < 2)) (match cfg with
    | .ioRead region off n => { s with now := s.now.ioRead port region off n }
    | .ioWrite region off data => s.onMod fun m => m.ioWrite port region off data
    | _ => s.onMod fun m =>
      let m1 := m.setPort port fun p => p.configured cfg
      match cfg with
      | .streams _ => (upTo 16).foldl (fun mo r => if (mo.ring r).port = (port = 1) then mo.interrupt r else mo) m1
      | _ => m1)

/-! ### Ethernet (spec/16 R418, R419) -/

def EthPair.entries (p : EthPair) : Nat := 2 ^ (p.size.toNat + 4)
/-- Sub-ports of a split. -/
def EthPort.subs (e : EthPort) : Nat := 2 ^ e.split.toNat

/-- The addresses of the 64 bytes of a descriptor. -/
def Mod.descriptorAt (m : Mod) (p : EthPair) (off : Nat) : Option (Option Nat × List Nat) :=
  match m.entry p.obj.toNat with
  | none => none
  | some e =>
    if !entValid e ∨ entLen e < off + 64 then none
    else match (upTo 64).mapM fun i => (match m.place p.obj.toNat e (off + i) true with | .phys a => some a | _ => none) with
      | some as => if as.any (m.poisoned (entDp e)) then none else some (dpOf p.obj.toNat e, as)
      | none => none

/-- The addresses of n bytes of a buffer, checked as a supervisor access of the port's partition; none when the check fails. -/
def Mod.ethBuffer (m : Mod) (c : Cap) (n part : Nat) (right : BitVec 6) : Option (Option Nat × List Nat) :=
  if (checkCap c 0 n right).isSome ∨ (m.protect (capObject c) (capOffset c) n right (capRights c) part true).isSome then none
  else match m.entry (capObject c) with
    | none => none
    | some e =>
      match (upTo n).mapM fun i => (match m.place (capObject c) e (capOffset c + i) (right = rSt) with | .phys a => some a | _ => none) with
      | some as => if right = rLd ∧ as.any (m.poisoned (entDp e)) then none else some (dpOf (capObject c) e, as)
      | none => none

/-- The bytes that an Ethernet port reads. -/
def Mod.ethBytes (m : Mod) (b : Option Nat × List Nat) : List Byte := b.2.map fun a => m.outer b.1.isSome a (m.shown none a)

/-- A completed descriptor is written back, and its completion record posted when evt is set. -/
def Mod.ethComplete (m : Mod) (p : EthPair) (at' : Option Nat × List Nat) (d : BitVec 512) : Mod :=
  let m1 := m.writeBytes at'.1 (at'.2.zip (leBytes 64 d.toNat)) []
  if d.getLsbD 147 then m1.post p.ering.toNat (completion (fld d 160 32) 0x30 0 0 0 0 0) else m1

def Mod.setPair (m : Mod) (port k : Nat) (f : EthPair → EthPair) : Mod := m.setEth port fun e => { e with pairs := vmod e.pairs k f }

/-- Send the frame of the next transmit descriptor of a pair. -/
def Mod.transmit (m : Mod) (port k : Nat) : Mod :=
  let e := m.ethPort port
  let p := vat EthPair.reset e.pairs k
  let n := p.entries
  match m.descriptorAt p (64 * (p.thead.toNat % n)) with
  | none => m
  | some at' =>
    let d : BitVec 512 := BitVec.ofNat 512 (leNat (m.ethBytes at'))
    let len := fld d 128 14
    let sub := fld d 142 3
    let buf := m.ethBuffer (d.extractLsb' 0 128) len e.part.toNat rLd
    let ok := decide (len ≤ e.mtu.toNat) && decide (sub < e.subs) && buf.isSome
    let m1 := match ok, buf with
      | true, some b => m.setEth port fun e => { e with sent := e.sent ++ [(sub, m.ethBytes b)] }
      | _, _ => m
    (m1.ethComplete p at' (setFld (setFld d 145 1 1) 146 1 (if ok then 0 else 1))).setPair port k fun p =>
      { p with thead := BitVec.ofNat 16 ((p.thead.toNat + 1) % n) }

/-- R419: TRANSMIT_DESCRIPTOR. -/
def execTransmitDescriptor (port pair : Nat) (s : State) : Host.Outcome State Fault Refusal :=
  let e := s.now.mod.ethPort port
  let p := vat EthPair.reset e.pairs pair
  s.event (decide (port < 4) && decide (pair < 8) && e.en && p.qen && p.thead.toNat % p.entries ≠ p.ttail.toNat % p.entries)
    (s.onMod fun m => m.transmit port pair)

/-- The priority code point of an 802.1Q tag, 0 without one. -/
def framePriority (f : List Byte) : Nat :=
  if f.getD 12 0 = 0x81 ∧ f.getD 13 0 = 0x00 ∧ 16 ≤ f.length then (f.getD 14 0).toNat / 32 else 0

/-- Receive a frame into the next receive descriptor of a pair. -/
def Mod.receiveFrame (m : Mod) (port sub k : Nat) (f : List Byte) : Mod :=
  let e := m.ethPort port
  let p := vat EthPair.reset e.pairs k
  let n := p.entries
  let drop := m.setEth port fun e => { e with drops := e.drops + 1 }
  if !p.qen ∨ p.rhead.toNat % n = p.rtail.toNat % n then drop
  else match m.descriptorAt p (64 * n + 64 * (p.rhead.toNat % n)) with
    | none => drop
    | some at' =>
      let d : BitVec 512 := BitVec.ofNat 512 (leNat (m.ethBytes at'))
      let c : Cap := d.extractLsb' 0 128
      let buf := if capLength c < capOffset c + f.length then none else m.ethBuffer c f.length e.part.toNat rSt
      let m1 := match buf with
        | some b => m.writeBytes b.1 (b.2.zip f) []
        | none => m
      let d1 := setFld (setFld (setFld (setFld d 128 14 f.length) 142 3 sub) 145 1 1) 146 1 (if buf.isSome then 0 else 1)
      (m1.ethComplete p at' d1).setPair port k fun p => { p with rhead := BitVec.ofNat 16 ((p.rhead.toNat + 1) % n) }

/-- R419: FRAME_RECEIVE: a frame no longer than the port's largest, on a sub-port with link, for the pair of its priority. -/
def execFrameReceive (port sub pair : Nat) (frame : List Byte) (s : State) : Host.Outcome State Fault Refusal :=
  let e := s.now.mod.ethPort port
  s.event (decide (port < 4) && e.en && decide (sub < e.subs) && e.up.getLsbD sub && pair = framePriority frame && decide (frame.length ≤ e.mtu.toNat))
    (s.onMod fun m => m.receiveFrame port sub pair frame)

/-- R418: ETHERNET_LINK_CHANGE. -/
def execEthernetLinkChange (port sub : Nat) (up : Bool) (s : State) : Host.Outcome State Fault Refusal :=
  s.event (decide (port < 4) && decide (sub < (s.now.mod.ethPort port).subs)) (s.onMod fun m =>
    m.setEth port fun e => { e with up := setFld e.up sub 1 (if up then 1 else 0) })

end Sys2Proof.Machine
end

