-- ==== Sys2Proof/Machine/Power.lean ====
section
/-! DEFINITION. Resets, ready reports, failures, soft errors and the power loop (spec/17 R420 to R429, spec/15 R383 to R387, spec/16
R391, R394, R397, R400). -/

namespace Sys2Proof.Machine

/-! ### Resets (R420, R421) -/

/-- The machine after a reset that keeps some bytes of memory, some poison, and what lies encrypted there. -/
def State.resetWith (s : State) (m : Mod) : State :=
  let mo : Mach := { Mach.reset with mod := { Mod.reset with
    mem := m.mem, poison := m.poison, resets := m.resets, dom := { Domain.reset with lines := m.dom.lines } } }
  { s with now := mo, start := mo, iss := Iss.idle, turn := 0 }

/-- A module reset keeps the contents of memory; every key is erased. -/
def State.moduleReset (s : State) : State :=
  let m := s.now.unload.mod.eraseKeys
  s.resetWith { m with resets := m.resets + 1 }

/-- A power-on keeps nothing of the module; the host's memory is not the module's. -/
def State.powerOn (s : State) : State :=
  s.resetWith { Mod.reset with mem := s.now.mod.mem.filter fun x => decide (hostBase ≤ x.1) }

/-- R421: POWER_ON. -/
def execPowerOn (s : State) : Host.Outcome State Fault Refusal := s.event true s.powerOn

/-- R420: MODULE_RESET. -/
def execModuleReset (s : State) : Host.Outcome State Fault Refusal := s.event true s.moduleReset

/-- R427: MODULE_RESET_REQUEST: it needs the semaphore; the answer 0 comes before the reset. -/
def execModuleResetRequest (port : Nat) (s : State) : Host.Outcome State Fault Refusal :=
  s.request port [0x30] true fun s => (s.moduleReset, 0)

/-- What a reset of a port does to it (R391, spec/13 R336). -/
def Mod.resetPort (m : Mod) (port : Nat) : Mod :=
  let m1 := m.setPort port fun p => { p with drops := [], ide := false, spdm := false }
  { m1 with semaOwner := if m.semaOwner = port + 1 then 0 else m.semaOwner, werr := vmod m1.werr port fun _ => false }

/-- R420: PORT_RESET: as a function-level reset, and the link trains. -/
def execPortReset (port : Nat) (s : State) : Host.Outcome State Fault Refusal := s.event (decide (port < 2)) (s.onMod fun m => m.resetPort port)

/-- R391: FUNCTION_LEVEL_RESET. -/
def execFunctionLevelReset (port : Nat) (s : State) : Host.Outcome State Fault Refusal := s.event (decide (port < 2)) (s.onMod fun m => m.resetPort port)

/-! ### Ready reports (R422 to R424) -/

/-- The bit of rdy of a function (Table 17-2). -/
def readyBit : ReadyFn → Nat
  | .brosy => 0
  | .die d => 1 + d
  | .stack k => 11 + k
  | .hostPort p => 23 + p
  | .ethPort p => 25 + p
  | .fabric => 29

/-- A function that the module has. -/
def readyKnown : ReadyFn → Bool
  | .brosy => true
  | .die d => decide (d < 10)
  | .stack k => decide (k < 12)
  | .hostPort p => decide (p < 2)
  | .ethPort p => decide (p < 4)
  | .fabric => true

/-- The entry of a partition's table object (spec/15 R364). -/
def tableEntry (part : Nat) : Entry :=
  let x := Config.tablePlace part
  let len := 2 ^ 17 * (1 + x.2.2 % 1024)
  let base := 4096 * (x.2.1 % ((stackBytes - len) / 4096 + 1))
  BitVec.ofNat 256 (1 + 7 * 2 ^ 2 + 2 ^ 9 + 2 ^ (12 + part) + len * 2 ^ 32 + x.1 % 10 * 2 ^ 80 + base * 2 ^ 128)

/-- The measurement summary (spec/16 R400). -/
def measured : BitVec 512 := Config.shake256 (Config.firmware.flatMap fun f => leBytes 64 (Config.shake256 f).toNat)

/-- What happens when a function starts: Brosy measures its firmware and enters the table objects, or writes the route tables; a Crievo
die lays out its sequence tables (log 23). -/
def Mod.started (m : Mod) : ReadyFn → Mod
  | .brosy => { m with measurement := measured, tables := (upTo 8).map fun p => (p, tableEntry p) }
  | .fabric => { m with addr := Config.fabricAddress }
  | .die d => if 8 ≤ d then m.onKv d fun k => { k with table := some (Config.kvTable d) } else m
  | _ => m

/-- R422: FUNCTION_READY. -/
def execFunctionReady (f : ReadyFn) (s : State) : Host.Outcome State Fault Refusal :=
  s.event (readyKnown f && !s.now.mod.rdy.getLsbD (readyBit f)) (s.onMod fun m => { m.started f with rdy := setFld m.rdy (readyBit f) 1 1 })

/-- A launch ends under act 3 with an error of its control state (R386, R424). -/
def Mach.endErred (m : Mach) (id : W32) : Mach :=
  match tfind id.toNat m.mod.launches with
  | some _ => ({ m with mod := m.mod.noteFault id (faultCode kPoison 5) 0 } : Mach).endLaunch id 2
  | none => m

def Mach.endAll (m : Mach) (which : Launch → Bool) : Mach :=
  ((m.mod.launches.filter fun (e : Nat × Launch) => which e.2).map (·.1)).foldl (fun (mm : Mach) n => mm.endErred (BitVec.ofNat 32 n)) m

/-- The error record of a failed function (Table 15-9; log 28). -/
def failureRecord : ReadyFn → BitVec 256
  | .die d => errorRecord 5 d 6 0 1 0 0
  | .stack k => errorRecord 3 (if k < 10 then k else k - 2) 5 k 1 0 0
  | f => errorRecord 5 15 6 (readyBit f) 1 0 0

/-- R424: FUNCTION_FAILURE: the ready bit clears; Brosy writes an error record and ends the launches on a failed die. -/
def execFunctionFailure (f : ReadyFn) (s : State) : Host.Outcome State Fault Refusal :=
  s.event (readyKnown f && s.now.mod.rdy.getLsbD (readyBit f))
    (let s1 := s.onMod fun m => { m.logError (failureRecord f) with rdy := setFld m.rdy (readyBit f) 1 0 }
    { s1 with now := match f with
      | .die d => s1.now.endAll fun l => l.cores.any fun c => c / 64 = d
      | _ => s1.now })

/-! ### Errors (spec/15 R383 to R387, R425) -/

/-- R425: MODULE_WIDE_ERROR: an error record, the end of every launch with its completion record, and a module reset. -/
def execModuleWideError (s : State) : Host.Outcome State Fault Refusal :=
  let s1 := s.onMod fun m => m.logError (errorRecord 5 15 6 0 1 0 0)
  s.event true (State.moduleReset { s1 with now := s1.now.endAll fun _ => true })

/-- R386: CONTROL_STATE_ERROR. -/
def execControlStateError (launch : W32) (s : State) : Host.Outcome State Fault Refusal :=
  let l := s.now.mod.launch launch
  s.event (tfind launch.toNat s.now.mod.launches).isSome
    (let s1 := s.onMod fun m => m.logError (errorRecord 5 l.die 6 0 1 0 launch.toNat)
    { s1 with now := s1.now.endErred launch })

/-- The units of Table 15-9. -/
def unitCode : ErrUnit → Nat
  | .l1 => 0
  | .scratchpad => 1
  | .registerBank => 2
  | .accumulatorBank => 3
  | .llc => 4
  | .hbm4 => 5
  | .control => 6

/-- Count a correctable error. -/
def Mod.countError (m : Mod) (die unit : Nat) (inPlace : Bool) : Mod :=
  let mine := fun (e : ErrCount) => e.die = die && e.unit = unit
  { m with corrected := if m.corrected.any mine then m.corrected.map fun e => if mine e then { e with count := e.count + 1, inPlace := e.inPlace || inPlace } else e
    else m.corrected ++ [⟨die, unit, 1, m.tick, inPlace⟩] }

/-- The register that holds 8 bytes at an offset of a bank image (Table 02-2); the special registers are control state. -/
def bankRegister (o : Nat) : Option WReg :=
  if o < 0x200 then some (.s (Fin.ofNat 64 (o / 8)))
  else if o < 0x300 then some (.a (Fin.ofNat 16 ((o - 0x200) / 16)))
  else if 0x310 ≤ o ∧ o < 0x480 then some (.p (Fin.ofNat 24 ((o - 0x300) / 16)))
  else if 0x600 ≤ o ∧ o < 0xA00 then some (.sh (Fin.ofNat 16 ((o - 0x600) / 64)))
  else if 0xA00 ≤ o ∧ o < 0xE00 then some (.lat ((o - 0xA00) / 256 + 2))
  else if o = 0xE00 then some (.lat 0)
  else if o = 0xE08 then some (.lat 1)
  else if o = 0xE10 then some (.lat 6)
  else if 0x1000 ≤ o ∧ o < 0x3000 then some (.v (Fin.ofNat 32 ((o - 0x1000) / 256)))
  else none

/-- The elements that 8 bytes at an offset of an accumulator bank image hold a part of (Table 02-4). -/
def bankElements (o : Nat) : List Nat :=
  if o < 0x2000 then (upTo 2).map (o / 8 * 2 + ·)
  else if o < 0x2800 then (upTo 8).map ((o - 0x2000) / 8 * 8 + ·)
  else if o < 0x2840 then (upTo 256).map ((o - 0x2800) / 8 * 256 + ·)
  else []

/-- Poison a sector of a slot of a join's contribution region (R384). -/
def Join.poisonAt (j : Join) (slot sector : Nat) : Join :=
  let n := j.members.length
  j.setMember (slot % n) fun k =>
    if slot < n then { k with stagingBad := sins sector k.stagingBad }
    else if slot < 2 * n then { k with committedBad := sins sector k.committedBad }
    else k

/-- Poison the granule at a location (R384): of a context's unpublished bytes (object × 2^64 + offset), of a scratchpad, of a register bank,
of an accumulator bank (bank number × 16 KiB + offset; 2j: visible, 2j + 1: working), or of memory (physical address); in a die's cache
also of the contribution region of a join there (bit 47 of the place, and join number × 2^20 + slot × length + offset: staging
slots, then committed ones). -/
def Mach.poisonAt (m : Mach) (unit : ErrUnit) (c x loc : Nat) : Mach :=
  match unit with
  | .l1 => m.onCtx c x fun k => { k with unpubPoison := ((k.unpub.map (·.1)).filter fun a => a / 8 = loc / 8).foldl (fun t a => sins a t) k.unpubPoison }
  | .scratchpad => m.onCore c fun k => { k with spPoison := sins (loc / 8) k.spPoison }
  | .registerBank =>
    match bankRegister (loc / 8 * 8) with
    | none => m
    | some r => m.onCtx c x fun k =>
      if k.saved.isSome then { k with savedPoison := r :: k.savedPoison.filter (· ≠ r) } else { k with poison := r :: k.poison.filter (· ≠ r) }
  | .accumulatorBank =>
    let n := loc / 2 ^ 14
    let hit := fun (b : AccBank) => { b with elems := (bankElements (loc % 2 ^ 14 / 8 * 8)).foldl (fun t e => tput 0 e (BitVec.ofInt 40 acxNan) t) b.elems }
    m.onAcc c (n / 2) fun p => p.setBank (n % 2 = 0) (hit (p.bank (n % 2 = 0)))
  | .llc =>
    if loc / 2 ^ 47 % 2 = 0 then { m with mod := { m.mod with poison := sins (loc / 128) m.mod.poison } }
    else { m with mod := m.mod.setJoin (loc / 2 ^ 48 * 256 + loc / 2 ^ 20 % 256) fun k =>
      { k with join := k.join.map fun j => j.poisonAt (loc % 2 ^ 20 / j.len) (loc % 2 ^ 20 % j.len / 128) } }
  | .hbm4 => { m with mod := { m.mod with poison := sins (loc / 128) m.mod.poison } }
  | .control => m

/-- A fate that Table 15-7 gives the storage. -/
def fateOk : ErrUnit → ErrFate → Bool
  | .l1, _ => true
  | .llc, _ => true
  | .control, .corrected => true
  | .control, _ => false
  | _, .refetched => false
  | _, _ => true

/-- R383: SOFT_ERROR: refetched or corrected and counted, or poisoned and recorded. -/
def execSoftError (unit : ErrUnit) (fate : ErrFate) (core ctx : Nat) (loc : Nat) (s : State) : Host.Outcome State Fault Refusal :=
  let k := s.now.coreAt core
  let die := match unit with | .llc | .hbm4 => loc / 2 ^ 48 | _ => core / 64
  let where' := match unit with | .llc => 0 | .hbm4 => stackOf loc | _ => k.lcore
  let place := match unit with | .l1 => loc % 2 ^ 64 | .accumulatorBank => loc % 2 ^ 14 | .llc | .hbm4 => loc % 2 ^ 48 | _ => loc
  s.event (fateOk unit fate) (match fate with
    | .refetched => s.onMod fun m => m.countError die (unitCode unit) false
    | .corrected => s.onMod fun m => m.countError die (unitCode unit) true
    | .poisoned =>
      let s1 := s.onMod fun m => m.logError (errorRecord 3 die (unitCode unit) where' 1 place (k.launch.getD 0).toNat)
      { s1 with now := s1.now.poisonAt unit core ctx loc })

/-- R387: ERROR_SUMMARY_RECORD: one record per unit in each 600,000 ticks in which any occurred. -/
def execErrorSummaryRecord (die : Nat) (unit : ErrUnit) (s : State) : Host.Outcome State Fault Refusal :=
  match s.now.mod.corrected.find? fun e => e.die = die && e.unit = unitCode unit with
  | none => s.event false s
  | some e => s.event (s.now.mod.tick % 600000 = 0) (s.onMod fun m =>
      let r := errorRecord (if e.inPlace then 2 else 1) die e.unit 0 e.count 0 0
      let m1 := m.logError r
      { m1 with
        log := m1.log.map fun x => if fld x 224 32 = m.logSeq % 2 ^ 32 then setFld x 64 64 e.first else x
        corrected := m1.corrected.filter (· ≠ e) })

/-- R383: PATROL_SCRUB: a sector is read and its corrected data written back, which changes nothing that can be observed. -/
def execPatrolScrub (die : Nat) (sector : Nat) (s : State) : Host.Outcome State Fault Refusal :=
  s.event (decide (die < 10) && decide (sector * 128 < stackBytes * (if 8 ≤ die then 2 else 1))) s

/-! ### Links (spec/16 R394, R397) -/

/-- R397: LINK_STATE_CHANGE: the link's bit, the count of global ports, and the fibre length of a port that is up. -/
def execLinkStateChange (global : Bool) (link : Nat) (up : Bool) (s : State) : Host.Outcome State Fault Refusal :=
  let b := if up then 1 else 0
  if global then s.event (decide (link < 64)) (s.onMod fun m =>
    let g := setFld m.gstat link 1 b
    let n := ((upTo 64).filter fun i => g.getLsbD i).length
    { m with gstat := g, lstat := setFld m.lstat 31 7 n, glen := tput 0 link (if up then Config.fibre link else 0) m.glen })
  else s.event (decide (link < 31)) (s.onMod fun m => { m with lstat := setFld m.lstat link 1 b })

/-! ### The power loop (R428, R429) -/

/-- The ceiling of a die after a window of average power p at temperature t (R428). -/
def nextCeiling (c p l t : Nat) : Nat :=
  let c1 := if l < p then max 1 (c * l / p) else if 100 * p < 95 * l then min 64 (c + 4) else c
  if 100 ≤ t then max 1 (c1 / 2) else c1

/-- A context notes when the ceiling of its die drops below its duty (spec/14 R353). -/
def Mach.noteOver (m : Mach) (old : List Nat) : Mach :=
  m.everyCtxAt fun b c =>
    let ceil := (m.mod.die (b.core / 64)).ceil
    if c.duty.any fun d => decide (ceil < d) && (c.overSince.isNone || decide (d ≤ old.getD (b.core / 64) 0)) then { c with overSince := some m.mod.tick } else c

/-- R428, R429: POWER_CONTROL_WINDOW: the power register, each die's ceiling, and a thermal trip at 115 °C. -/
def execPowerControlWindow (power : Nat) (temps : List Nat) (s : State) : Host.Outcome State Fault Refusal :=
  let hot := ((temps.zip (upTo 10)).foldl (fun (b : Nat × Nat) e => if b.1 < e.1 then e else b) (0, 0))
  s.event (temps.length = 10 && s.now.mod.tick % 60000 = 0)
    (let s1 := s.onMod fun m =>
      let m1 := { m with pwr := BitVec.ofNat 24 (min power 4095 + min hot.1 255 * 2 ^ 12 + hot.2 * 2 ^ 20) }
      (upTo 10).foldl (fun (mo : Mod) d =>
        let c := nextCeiling (mo.die d).ceil power mo.plim.toNat (temps.getD d 0)
        if c = (mo.die d).ceil then mo else (mo.setDie d fun x => { x with ceil := c }).report d) m1
    let s2 : State := { s1 with now := s1.now.noteOver ((upTo 10).map fun d => (s.now.mod.die d).ceil) }
    if 115 ≤ hot.1 then (s2.onMod fun m => m.logError (errorRecord 5 hot.2 6 0 1 0 0)).moduleReset else s2)

end Sys2Proof.Machine
end

