-- ==== Sys2Proof/Machine/Dispatch.lean ====
section
/-! DEFINITION. What each instruction and event does, one arm per constructor of `Instr`. -/

namespace Sys2Proof.Machine

/-- The meaning of an instruction or event. -/
def exec (i : Instr) (s : State) : Host.Outcome State Fault Refusal :=
  match i with
  | .addI64 u d a b => Sys2Proof.Machine.execAddI64 u d a b s
  | .subI64 u d a b => Sys2Proof.Machine.execSubI64 u d a b s
  | .minI64 u d a b => Sys2Proof.Machine.execMinI64 u d a b s
  | .maxI64 u d a b => Sys2Proof.Machine.execMaxI64 u d a b s
  | .addsI64 u d a b => Sys2Proof.Machine.execAddsI64 u d a b s
  | .minZ64 u d a b => Sys2Proof.Machine.execMinZ64 u d a b s
  | .maxZ64 u d a b => Sys2Proof.Machine.execMaxZ64 u d a b s
  | .addI32 u d a b => Sys2Proof.Machine.execAddI32 u d a b s
  | .subI32 u d a b => Sys2Proof.Machine.execSubI32 u d a b s
  | .minI32 u d a b => Sys2Proof.Machine.execMinI32 u d a b s
  | .maxI32 u d a b => Sys2Proof.Machine.execMaxI32 u d a b s
  | .addsI32 u d a b => Sys2Proof.Machine.execAddsI32 u d a b s
  | .minZ32 u d a b => Sys2Proof.Machine.execMinZ32 u d a b s
  | .maxZ32 u d a b => Sys2Proof.Machine.execMaxZ32 u d a b s
  | .and u d a b => Sys2Proof.Machine.execAnd u d a b s
  | .or u d a b => Sys2Proof.Machine.execOr u d a b s
  | .xor u d a b => Sys2Proof.Machine.execXor u d a b s
  | .andn u d a b => Sys2Proof.Machine.execAndn u d a b s
  | .orn u d a b => Sys2Proof.Machine.execOrn u d a b s
  | .not u d a => Sys2Proof.Machine.execNot u d a s
  | .shl u d a b => Sys2Proof.Machine.execShl u d a b s
  | .shr u d a b => Sys2Proof.Machine.execShr u d a b s
  | .sar u d a b => Sys2Proof.Machine.execSar u d a b s
  | .ceq u d a b => Sys2Proof.Machine.execCeq u d a b s
  | .cne u d a b => Sys2Proof.Machine.execCne u d a b s
  | .cltI64 u d a b => Sys2Proof.Machine.execCltI64 u d a b s
  | .cleI64 u d a b => Sys2Proof.Machine.execCleI64 u d a b s
  | .cltZ64 u d a b => Sys2Proof.Machine.execCltZ64 u d a b s
  | .cleZ64 u d a b => Sys2Proof.Machine.execCleZ64 u d a b s
  | .mul u d a b => Sys2Proof.Machine.execMul u d a b s
  | .mulhI64 u d a b => Sys2Proof.Machine.execMulhI64 u d a b s
  | .mulhZ64 u d a b => Sys2Proof.Machine.execMulhZ64 u d a b s
  | .divI64 u d a b => Sys2Proof.Machine.execDivI64 u d a b s
  | .divZ64 u d a b => Sys2Proof.Machine.execDivZ64 u d a b s
  | .remI64 u d a b => Sys2Proof.Machine.execRemI64 u d a b s
  | .remZ64 u d a b => Sys2Proof.Machine.execRemZ64 u d a b s
  | .divI32 u d a b => Sys2Proof.Machine.execDivI32 u d a b s
  | .divZ32 u d a b => Sys2Proof.Machine.execDivZ32 u d a b s
  | .remI32 u d a b => Sys2Proof.Machine.execRemI32 u d a b s
  | .remZ32 u d a b => Sys2Proof.Machine.execRemZ32 u d a b s
  | .li u d imm => Sys2Proof.Machine.execLi u d imm s
  | .lis u d k imm => Sys2Proof.Machine.execLis u d k imm s
  | .addi u d imm => Sys2Proof.Machine.execAddi u d imm s
  | .andi u d imm => Sys2Proof.Machine.execAndi u d imm s
  | .mov u d a => Sys2Proof.Machine.execMov u d a s
  | .clz u d a => Sys2Proof.Machine.execClz u d a s
  | .ctz u d a => Sys2Proof.Machine.execCtz u d a s
  | .popc u d a => Sys2Proof.Machine.execPopc u d a s
  | .sext u d a b => Sys2Proof.Machine.execSext u d a b s
  | .zext u d a b => Sys2Proof.Machine.execZext u d a b s
  | .cder u d a b => Sys2Proof.Machine.execCder u d a b s
  | .cbnd u d a b => Sys2Proof.Machine.execCbnd u d a b s
  | .csetoff u d a b => Sys2Proof.Machine.execCsetoff u d a b s
  | .caddoff u d a b => Sys2Proof.Machine.execCaddoff u d a b s
  | .cmov u d a => Sys2Proof.Machine.execCmov u d a s
  | .cchk u d a b => Sys2Proof.Machine.execCchk u d a b s
  | .cget u d a b => Sys2Proof.Machine.execCget u d a b s
  | .shld u d a b => Sys2Proof.Machine.execShld u d a b s
  | .shldImg u d b => Sys2Proof.Machine.execShldImg u d b s
  | .shset u d a b => Sys2Proof.Machine.execShset u d a b s
  | .shget u d a b => Sys2Proof.Machine.execShget u d a b s
  | .pand u d a b => Sys2Proof.Machine.execPand u d a b s
  | .por u d a b => Sys2Proof.Machine.execPor u d a b s
  | .pxor u d a b => Sys2Proof.Machine.execPxor u d a b s
  | .pandn u d a b => Sys2Proof.Machine.execPandn u d a b s
  | .pnot u d a => Sys2Proof.Machine.execPnot u d a s
  | .pmov u d a => Sys2Proof.Machine.execPmov u d a s
  | .pset u d a => Sys2Proof.Machine.execPset u d a s
  | .pany u d a => Sys2Proof.Machine.execPany u d a s
  | .pcnt u d a => Sys2Proof.Machine.execPcnt u d a s
  | .rdsr u d b => Sys2Proof.Machine.execRdsr u d b s
  | .wrsr u a b => Sys2Proof.Machine.execWrsr u a b s
  | .bfrd u d b => Sys2Proof.Machine.execBfrd u d b s
  | .bfwr u a b => Sys2Proof.Machine.execBfwr u a b s
  | .ldZ8 u d a b => Sys2Proof.Machine.execLdZ8 u d a b s
  | .ldZ16 u d a b => Sys2Proof.Machine.execLdZ16 u d a b s
  | .ldZ32 u d a b => Sys2Proof.Machine.execLdZ32 u d a b s
  | .ldI8 u d a b => Sys2Proof.Machine.execLdI8 u d a b s
  | .ldI16 u d a b => Sys2Proof.Machine.execLdI16 u d a b s
  | .ldI32 u d a b => Sys2Proof.Machine.execLdI32 u d a b s
  | .ldI64 u d a b => Sys2Proof.Machine.execLdI64 u d a b s
  | .ldC128 u d a b => Sys2Proof.Machine.execLdC128 u d a b s
  | .ldNr u d p a b => Sys2Proof.Machine.execLdNr u d p a b s
  | .stZ8 u d a b => Sys2Proof.Machine.execStZ8 u d a b s
  | .stZ16 u d a b => Sys2Proof.Machine.execStZ16 u d a b s
  | .stZ32 u d a b => Sys2Proof.Machine.execStZ32 u d a b s
  | .stZ64 u d a b => Sys2Proof.Machine.execStZ64 u d a b s
  | .lds u d a b => Sys2Proof.Machine.execLds u d a b s
  | .ldsC u d a b => Sys2Proof.Machine.execLdsC u d a b s
  | .sts u d a b => Sys2Proof.Machine.execSts u d a b s
  | .stsF u d a b => Sys2Proof.Machine.execStsF u d a b s
  | .drain u a b => Sys2Proof.Machine.execDrain u a b s
  | .ldRlx u d sc w sg a => Sys2Proof.Machine.execLdRlx u d sc w sg a s
  | .ldAcq u d sc w sg a => Sys2Proof.Machine.execLdAcq u d sc w sg a s
  | .stRlx u d sc w a => Sys2Proof.Machine.execStRlx u d sc w a s
  | .stRel u d sc w a => Sys2Proof.Machine.execStRel u d sc w a s
  | .atomAdd u d sc w o a => Sys2Proof.Machine.execAtomAdd u d sc w o a s
  | .atomAnd u d sc w o a => Sys2Proof.Machine.execAtomAnd u d sc w o a s
  | .atomOr u d sc w o a => Sys2Proof.Machine.execAtomOr u d sc w o a s
  | .atomXor u d sc w o a => Sys2Proof.Machine.execAtomXor u d sc w o a s
  | .atomMinI u d sc w o a => Sys2Proof.Machine.execAtomMinI u d sc w o a s
  | .atomMaxI u d sc w o a => Sys2Proof.Machine.execAtomMaxI u d sc w o a s
  | .atomMinZ u d sc w o a => Sys2Proof.Machine.execAtomMinZ u d sc w o a s
  | .atomMaxZ u d sc w o a => Sys2Proof.Machine.execAtomMaxZ u d sc w o a s
  | .atomSwap u d sc w o a => Sys2Proof.Machine.execAtomSwap u d sc w o a s
  | .atomCas u d sc w o a => Sys2Proof.Machine.execAtomCas u d sc w o a s
  | .qpushS u d q => Sys2Proof.Machine.execQpushS u d q s
  | .brS1 c off => Sys2Proof.Machine.execBrS1 c off s
  | .brzS1 c off => Sys2Proof.Machine.execBrzS1 c off s
  | .callS1 c off => Sys2Proof.Machine.execCallS1 c off s
  | .vaddF32 u d g a b => Sys2Proof.Machine.execVaddF32 u d g a b s
  | .vsubF32 u d g a b => Sys2Proof.Machine.execVsubF32 u d g a b s
  | .vmulF32 u d g a b => Sys2Proof.Machine.execVmulF32 u d g a b s
  | .vfmaF32 u d g a b => Sys2Proof.Machine.execVfmaF32 u d g a b s
  | .vminF32 u d g a b => Sys2Proof.Machine.execVminF32 u d g a b s
  | .vmaxF32 u d g a b => Sys2Proof.Machine.execVmaxF32 u d g a b s
  | .vaddBf16 u d g a b => Sys2Proof.Machine.execVaddBf16 u d g a b s
  | .vsubBf16 u d g a b => Sys2Proof.Machine.execVsubBf16 u d g a b s
  | .vmulBf16 u d g a b => Sys2Proof.Machine.execVmulBf16 u d g a b s
  | .vfmaBf16 u d g a b => Sys2Proof.Machine.execVfmaBf16 u d g a b s
  | .vminBf16 u d g a b => Sys2Proof.Machine.execVminBf16 u d g a b s
  | .vmaxBf16 u d g a b => Sys2Proof.Machine.execVmaxBf16 u d g a b s
  | .vabsF32 u d g a => Sys2Proof.Machine.execVabsF32 u d g a s
  | .vnegF32 u d g a => Sys2Proof.Machine.execVnegF32 u d g a s
  | .vexp2F32 u d g a => Sys2Proof.Machine.execVexp2F32 u d g a s
  | .vrcpF32 u d g a => Sys2Proof.Machine.execVrcpF32 u d g a s
  | .vrsqrtF32 u d g a => Sys2Proof.Machine.execVrsqrtF32 u d g a s
  | .vabsBf16 u d g a => Sys2Proof.Machine.execVabsBf16 u d g a s
  | .vnegBf16 u d g a => Sys2Proof.Machine.execVnegBf16 u d g a s
  | .vexp2Bf16 u d g a => Sys2Proof.Machine.execVexp2Bf16 u d g a s
  | .vrcpBf16 u d g a => Sys2Proof.Machine.execVrcpBf16 u d g a s
  | .vrsqrtBf16 u d g a => Sys2Proof.Machine.execVrsqrtBf16 u d g a s
  | .vaddI16 u d a b => Sys2Proof.Machine.execVaddI16 u d a b s
  | .vsubI16 u d a b => Sys2Proof.Machine.execVsubI16 u d a b s
  | .vmulI16 u d a b => Sys2Proof.Machine.execVmulI16 u d a b s
  | .vminI16 u d a b => Sys2Proof.Machine.execVminI16 u d a b s
  | .vmaxI16 u d a b => Sys2Proof.Machine.execVmaxI16 u d a b s
  | .vaddsI16 u d a b => Sys2Proof.Machine.execVaddsI16 u d a b s
  | .vsubsI16 u d a b => Sys2Proof.Machine.execVsubsI16 u d a b s
  | .vaddI32 u d a b => Sys2Proof.Machine.execVaddI32 u d a b s
  | .vsubI32 u d a b => Sys2Proof.Machine.execVsubI32 u d a b s
  | .vmulI32 u d a b => Sys2Proof.Machine.execVmulI32 u d a b s
  | .vminI32 u d a b => Sys2Proof.Machine.execVminI32 u d a b s
  | .vmaxI32 u d a b => Sys2Proof.Machine.execVmaxI32 u d a b s
  | .vaddsI32 u d a b => Sys2Proof.Machine.execVaddsI32 u d a b s
  | .vsubsI32 u d a b => Sys2Proof.Machine.execVsubsI32 u d a b s
  | .vaddZ16 u d a b => Sys2Proof.Machine.execVaddZ16 u d a b s
  | .vsubZ16 u d a b => Sys2Proof.Machine.execVsubZ16 u d a b s
  | .vmulZ16 u d a b => Sys2Proof.Machine.execVmulZ16 u d a b s
  | .vminZ16 u d a b => Sys2Proof.Machine.execVminZ16 u d a b s
  | .vmaxZ16 u d a b => Sys2Proof.Machine.execVmaxZ16 u d a b s
  | .vaddsZ16 u d a b => Sys2Proof.Machine.execVaddsZ16 u d a b s
  | .vsubsZ16 u d a b => Sys2Proof.Machine.execVsubsZ16 u d a b s
  | .vaddZ32 u d a b => Sys2Proof.Machine.execVaddZ32 u d a b s
  | .vsubZ32 u d a b => Sys2Proof.Machine.execVsubZ32 u d a b s
  | .vmulZ32 u d a b => Sys2Proof.Machine.execVmulZ32 u d a b s
  | .vminZ32 u d a b => Sys2Proof.Machine.execVminZ32 u d a b s
  | .vmaxZ32 u d a b => Sys2Proof.Machine.execVmaxZ32 u d a b s
  | .vaddsZ32 u d a b => Sys2Proof.Machine.execVaddsZ32 u d a b s
  | .vsubsZ32 u d a b => Sys2Proof.Machine.execVsubsZ32 u d a b s
  | .vand u d a b => Sys2Proof.Machine.execVand u d a b s
  | .vor u d a b => Sys2Proof.Machine.execVor u d a b s
  | .vxor u d a b => Sys2Proof.Machine.execVxor u d a b s
  | .vandn u d a b => Sys2Proof.Machine.execVandn u d a b s
  | .vnot u d a => Sys2Proof.Machine.execVnot u d a s
  | .vshlW16 u d a b => Sys2Proof.Machine.execVshlW16 u d a b s
  | .vshrW16 u d a b => Sys2Proof.Machine.execVshrW16 u d a b s
  | .vsarW16 u d a b => Sys2Proof.Machine.execVsarW16 u d a b s
  | .vshlW32 u d a b => Sys2Proof.Machine.execVshlW32 u d a b s
  | .vshrW32 u d a b => Sys2Proof.Machine.execVshrW32 u d a b s
  | .vsarW32 u d a b => Sys2Proof.Machine.execVsarW32 u d a b s
  | .vceqF32 u d a b => Sys2Proof.Machine.execVceqF32 u d a b s
  | .vcneF32 u d a b => Sys2Proof.Machine.execVcneF32 u d a b s
  | .vcltF32 u d a b => Sys2Proof.Machine.execVcltF32 u d a b s
  | .vcleF32 u d a b => Sys2Proof.Machine.execVcleF32 u d a b s
  | .vcunF32 u d a b => Sys2Proof.Machine.execVcunF32 u d a b s
  | .vceqBf16 u d a b => Sys2Proof.Machine.execVceqBf16 u d a b s
  | .vcneBf16 u d a b => Sys2Proof.Machine.execVcneBf16 u d a b s
  | .vcltBf16 u d a b => Sys2Proof.Machine.execVcltBf16 u d a b s
  | .vcleBf16 u d a b => Sys2Proof.Machine.execVcleBf16 u d a b s
  | .vcunBf16 u d a b => Sys2Proof.Machine.execVcunBf16 u d a b s
  | .vceqW16 u d a b => Sys2Proof.Machine.execVceqW16 u d a b s
  | .vcneW16 u d a b => Sys2Proof.Machine.execVcneW16 u d a b s
  | .vcltI16 u d a b => Sys2Proof.Machine.execVcltI16 u d a b s
  | .vcleI16 u d a b => Sys2Proof.Machine.execVcleI16 u d a b s
  | .vcltZ16 u d a b => Sys2Proof.Machine.execVcltZ16 u d a b s
  | .vcleZ16 u d a b => Sys2Proof.Machine.execVcleZ16 u d a b s
  | .vceqW32 u d a b => Sys2Proof.Machine.execVceqW32 u d a b s
  | .vcneW32 u d a b => Sys2Proof.Machine.execVcneW32 u d a b s
  | .vcltI32 u d a b => Sys2Proof.Machine.execVcltI32 u d a b s
  | .vcleI32 u d a b => Sys2Proof.Machine.execVcleI32 u d a b s
  | .vcltZ32 u d a b => Sys2Proof.Machine.execVcltZ32 u d a b s
  | .vcleZ32 u d a b => Sys2Proof.Machine.execVcleZ32 u d a b s
  | .sel u d g a b => Sys2Proof.Machine.execSel u d g a b s
  | .perm u d a b => Sys2Proof.Machine.execPerm u d a b s
  | .rot u d a b => Sys2Proof.Machine.execRot u d a b s
  | .bcast u d a b => Sys2Proof.Machine.execBcast u d a b s
  | .zip u d a b => Sys2Proof.Machine.execZip u d a b s
  | .unzip u d a b => Sys2Proof.Machine.execUnzip u d a b s
  | .bcastW32 u d a b => Sys2Proof.Machine.execBcastW32 u d a b s
  | .permW32 u d a b => Sys2Proof.Machine.execPermW32 u d a b s
  | .raddF32 u d g a b => Sys2Proof.Machine.execRaddF32 u d g a b s
  | .raddBf16 u d g a b => Sys2Proof.Machine.execRaddBf16 u d g a b s
  | .raddInt u d g a b => Sys2Proof.Machine.execRaddInt u d g a b s
  | .rdotF32 u d g a b => Sys2Proof.Machine.execRdotF32 u d g a b s
  | .rdotBf16 u d g a b => Sys2Proof.Machine.execRdotBf16 u d g a b s
  | .rmax u d g a b => Sys2Proof.Machine.execRmax u d g a b s
  | .rmin u d g a b => Sys2Proof.Machine.execRmin u d g a b s
  | .cvt u d st rm sat dt a => Sys2Proof.Machine.execCvt u d st rm sat dt a s
  | .rcupd u d a b => Sys2Proof.Machine.execRcupd u d a b s
  | .rcrd u d b => Sys2Proof.Machine.execRcrd u d b s
  | .rcwr u d a b => Sys2Proof.Machine.execRcwr u d a b s
  | .exit u d a b => Sys2Proof.Machine.execExit u d a b s
  | .recurse u d b => Sys2Proof.Machine.execRecurse u d b s
  | .exitC u d b => Sys2Proof.Machine.execExitC u d b s
  | .pack u d a b => Sys2Proof.Machine.execPack u d a b s
  | .packRc u d a b => Sys2Proof.Machine.execPackRc u d a b s
  | .packM u d a b => Sys2Proof.Machine.execPackM u d a b s
  | .unpack u d a b => Sys2Proof.Machine.execUnpack u d a b s
  | .unpackC u d a b => Sys2Proof.Machine.execUnpackC u d a b s
  | .vld u d a b => Sys2Proof.Machine.execVld u d a b s
  | .vldNr u d p a b => Sys2Proof.Machine.execVldNr u d p a b s
  | .vst u d a b => Sys2Proof.Machine.execVst u d a b s
  | .vlds u d a b => Sys2Proof.Machine.execVlds u d a b s
  | .vldsC u d a b => Sys2Proof.Machine.execVldsC u d a b s
  | .vsts u d a b => Sys2Proof.Machine.execVsts u d a b s
  | .vstsF u d a b => Sys2Proof.Machine.execVstsF u d a b s
  | .qpushV u d q => Sys2Proof.Machine.execQpushV u d q s
  | .mmaBf16 acc sh a b => Sys2Proof.Machine.execMmaBf16 acc sh a b s
  | .mmaBf16Mc acc sh a b => Sys2Proof.Machine.execMmaBf16Mc acc sh a b s
  | .mmaBf16Rop acc sh a b => Sys2Proof.Machine.execMmaBf16Rop acc sh a b s
  | .mmaF16 acc sh a b => Sys2Proof.Machine.execMmaF16 acc sh a b s
  | .mmaF16Mc acc sh a b => Sys2Proof.Machine.execMmaF16Mc acc sh a b s
  | .mmaF16Rop acc sh a b => Sys2Proof.Machine.execMmaF16Rop acc sh a b s
  | .mmaE4m3 acc sh a b => Sys2Proof.Machine.execMmaE4m3 acc sh a b s
  | .mmaE4m3Mc acc sh a b => Sys2Proof.Machine.execMmaE4m3Mc acc sh a b s
  | .mmaE4m3Rop acc sh a b => Sys2Proof.Machine.execMmaE4m3Rop acc sh a b s
  | .mmaE5m2 acc sh a b => Sys2Proof.Machine.execMmaE5m2 acc sh a b s
  | .mmaE5m2Mc acc sh a b => Sys2Proof.Machine.execMmaE5m2Mc acc sh a b s
  | .mmaE5m2Rop acc sh a b => Sys2Proof.Machine.execMmaE5m2Rop acc sh a b s
  | .mmaF4x acc sh a b => Sys2Proof.Machine.execMmaF4x acc sh a b s
  | .mmaF4xMc acc sh a b => Sys2Proof.Machine.execMmaF4xMc acc sh a b s
  | .mmaF4xRop acc sh a b => Sys2Proof.Machine.execMmaF4xRop acc sh a b s
  | .azero acc a => Sys2Proof.Machine.execAzero acc a s
  | .azeroV acc a => Sys2Proof.Machine.execAzeroV acc a s
  | .azeroB acc a => Sys2Proof.Machine.execAzeroB acc a s
  | .asetx acc a b => Sys2Proof.Machine.execAsetx acc a b s
  | .asetxV acc a b => Sys2Proof.Machine.execAsetxV acc a b s
  | .asetxZ acc a b => Sys2Proof.Machine.execAsetxZ acc a b s
  | .asetxZV acc a b => Sys2Proof.Machine.execAsetxZV acc a b s
  | .anorm acc a b => Sys2Proof.Machine.execAnorm acc a b s
  | .anormV acc a b => Sys2Proof.Machine.execAnormV acc a b s
  | .aswap acc => Sys2Proof.Machine.execAswap acc s
  | .ardout acc a b => Sys2Proof.Machine.execArdout acc a b s
  | .ardoutS acc sh a b => Sys2Proof.Machine.execArdoutS acc sh a b s
  | .ardoutSf acc sh a b => Sys2Proof.Machine.execArdoutSf acc sh a b s
  | .ascore acc sh a b => Sys2Proof.Machine.execAscore acc sh a b s
  | .ascoreGm acc sh a b => Sys2Proof.Machine.execAscoreGm acc sh a b s
  | .avalue acc a b => Sys2Proof.Machine.execAvalue acc a b s
  | .avalueHi acc a b => Sys2Proof.Machine.execAvalueHi acc a b s
  | .smerge acc a b => Sys2Proof.Machine.execSmerge acc a b s
  | .smergeX acc a b => Sys2Proof.Machine.execSmergeX acc a b s
  | .smergeI acc a b => Sys2Proof.Machine.execSmergeI acc a b s
  | .mskld a b => Sys2Proof.Machine.execMskld a b s
  | .kvapp sh a b => Sys2Proof.Machine.execKvapp sh a b s
  | .copy d a b => Sys2Proof.Machine.execCopy d a b s
  | .gather d q a b => Sys2Proof.Machine.execGather d q a b s
  | .scatter d q a b => Sys2Proof.Machine.execScatter d q a b s
  | .smpl d a b => Sys2Proof.Machine.execSmpl d a b s
  | .fst d a b => Sys2Proof.Machine.execFst d a b s
  | .fstOf d a b => Sys2Proof.Machine.execFstOf d a b s
  | .fstSp d a b => Sys2Proof.Machine.execFstSp d a b s
  | .fstOfSp d a b => Sys2Proof.Machine.execFstOfSp d a b s
  | .ratomAdd d a b => Sys2Proof.Machine.execRatomAdd d a b s
  | .ratomAnd d a b => Sys2Proof.Machine.execRatomAnd d a b s
  | .ratomOr d a b => Sys2Proof.Machine.execRatomOr d a b s
  | .ratomXor d a b => Sys2Proof.Machine.execRatomXor d a b s
  | .ratomMinI64 d a b => Sys2Proof.Machine.execRatomMinI64 d a b s
  | .ratomMaxI64 d a b => Sys2Proof.Machine.execRatomMaxI64 d a b s
  | .ratomMinZ64 d a b => Sys2Proof.Machine.execRatomMinZ64 d a b s
  | .ratomMaxZ64 d a b => Sys2Proof.Machine.execRatomMaxZ64 d a b s
  | .ackf => Sys2Proof.Machine.execAckf s
  | .jopen d a => Sys2Proof.Machine.execJopen d a s
  | .jarrive d a b => Sys2Proof.Machine.execJarrive d a b s
  | .jwait d a b => Sys2Proof.Machine.execJwait d a b s
  | .jrule d a b => Sys2Proof.Machine.execJrule d a b s
  | .fillreg d a b => Sys2Proof.Machine.execFillreg d a b s
  | .fillregT d b => Sys2Proof.Machine.execFillregT d b s
  | .fillregTf d b => Sys2Proof.Machine.execFillregTf d b s
  | .fillregTm d a b => Sys2Proof.Machine.execFillregTm d a b s
  | .fillregW d a b => Sys2Proof.Machine.execFillregW d a b s
  | .accept d a => Sys2Proof.Machine.execAccept d a s
  | .ahpush d a b => Sys2Proof.Machine.execAhpush d a b s
  | .ahsel d a b => Sys2Proof.Machine.execAhsel d a b s
  | .mapreq d a b => Sys2Proof.Machine.execMapreq d a b s
  | .wqpop d a => Sys2Proof.Machine.execWqpop d a s
  | .wqtry d a => Sys2Proof.Machine.execWqtry d a s
  | .wqpush d a => Sys2Proof.Machine.execWqpush d a s
  | .wqclose d a => Sys2Proof.Machine.execWqclose d a s
  | .kvalloc d a b => Sys2Proof.Machine.execKvalloc d a b s
  | .kvgrow d a b => Sys2Proof.Machine.execKvgrow d a b s
  | .kvfork d a b => Sys2Proof.Machine.execKvfork d a b s
  | .kvfree d a => Sys2Proof.Machine.execKvfree d a s
  | .kvinval d a b => Sys2Proof.Machine.execKvinval d a b s
  | .qpushX d q => Sys2Proof.Machine.execQpushX d q s
  | .brC c off => Sys2Proof.Machine.execBrC c off s
  | .brzC c off => Sys2Proof.Machine.execBrzC c off s
  | .callC c off => Sys2Proof.Machine.execCallC c off s
  | .ret a => Sys2Proof.Machine.execRet a s
  | .fjmp a b => Sys2Proof.Machine.execFjmp a b s
  | .lap len a => Sys2Proof.Machine.execLap len a s
  | .lapLr len => Sys2Proof.Machine.execLapLr len s
  | .phase sc => Sys2Proof.Machine.execPhase sc s
  | .bar sc a b => Sys2Proof.Machine.execBar sc a b s
  | .wait a => Sys2Proof.Machine.execWait a s
  | .waitP => Sys2Proof.Machine.execWaitP s
  | .tend => Sys2Proof.Machine.execTend s
  | .kpoint => Sys2Proof.Machine.execKpoint s
  | .spawn a b => Sys2Proof.Machine.execSpawn a b s
  | .trap a => Sys2Proof.Machine.execTrap a s
  | .rti => Sys2Proof.Machine.execRti s
  | .srd d a => Sys2Proof.Machine.execSrd d a s
  | .swr d a b => Sys2Proof.Machine.execSwr d a b s
  | .ubrd d a b => Sys2Proof.Machine.execUbrd d a b s
  | .ubwr d a b => Sys2Proof.Machine.execUbwr d a b s
  | .lctlPark d a => Sys2Proof.Machine.execLctlPark d a s
  | .lctlRes d a => Sys2Proof.Machine.execLctlRes d a s
  | .lctlAbort d a => Sys2Proof.Machine.execLctlAbort d a s
  | .otinv a => Sys2Proof.Machine.execOtinv a s
  | .otinvAll => Sys2Proof.Machine.execOtinvAll s
  | .mcall d a b => Sys2Proof.Machine.execMcall d a b s
  | .mans a b => Sys2Proof.Machine.execMans a b s
  | .erpost d a b => Sys2Proof.Machine.execErpost d a b s
  | .launchQueuePop die => Sys2Proof.Machine.execLaunchQueuePop die s
  | .placement die part => Sys2Proof.Machine.execPlacement die part s
  | .placementWaitLimit die part => Sys2Proof.Machine.execPlacementWaitLimit die part s
  | .candidateAging die idx => Sys2Proof.Machine.execCandidateAging die idx s
  | .urgencyWindowEntry die idx => Sys2Proof.Machine.execUrgencyWindowEntry die idx s
  | .preemptionDecision die part => Sys2Proof.Machine.execPreemptionDecision die part s
  | .parkComplete launch => Sys2Proof.Machine.execParkComplete launch s
  | .parkAbandon launch => Sys2Proof.Machine.execParkAbandon launch s
  | .saveComplete launch => Sys2Proof.Machine.execSaveComplete launch s
  | .resumption launch => Sys2Proof.Machine.execResumption launch s
  | .restoreComplete launch => Sys2Proof.Machine.execRestoreComplete launch s
  | .pacerOverrun die launch => Sys2Proof.Machine.execPacerOverrun die launch s
  | .agingHold core => Sys2Proof.Machine.execAgingHold core s
  | .faultDelivery core ctx => Sys2Proof.Machine.execFaultDelivery core ctx s
  | .resultLanding core ctx => Sys2Proof.Machine.execResultLanding core ctx s
  | .sectorArrival core ctx => Sys2Proof.Machine.execSectorArrival core ctx s
  | .objectEntryArrival obj => Sys2Proof.Machine.execObjectEntryArrival obj s
  | .remoteScratchpadArrival core => Sys2Proof.Machine.execRemoteScratchpadArrival core s
  | .engineHazardRelease core ctx cmd => Sys2Proof.Machine.execEngineHazardRelease core ctx cmd s
  | .engineOpComplete core ctx cmd => Sys2Proof.Machine.execEngineOpComplete core ctx cmd s
  | .engineFault core ctx cmd => Sys2Proof.Machine.execEngineFault core ctx cmd s
  | .matrixStep core => Sys2Proof.Machine.execMatrixStep core s
  | .attentionOperationStep core => Sys2Proof.Machine.execAttentionOperationStep core s
  | .contextEnded core ctx => Sys2Proof.Machine.execContextEnded core ctx s
  | .killTakesEffect core ctx => Sys2Proof.Machine.execKillTakesEffect core ctx s
  | .taggedWriteStage die handle member addr obj data => Sys2Proof.Machine.execTaggedWriteStage die handle member addr obj data s
  | .handlerRecordPush core ctx => Sys2Proof.Machine.execHandlerRecordPush core ctx s
  | .taskReplayPush core ctx => Sys2Proof.Machine.execTaskReplayPush core ctx s
  | .flagIncrement idx => Sys2Proof.Machine.execFlagIncrement idx s
  | .store pk => Sys2Proof.Machine.execStore pk s
  | .storeWithFlag pk => Sys2Proof.Machine.execStoreWithFlag pk s
  | .atomic pk => Sys2Proof.Machine.execAtomic pk s
  | .loadRequest pk => Sys2Proof.Machine.execLoadRequest pk s
  | .loadData pk core ctx => Sys2Proof.Machine.execLoadData pk core ctx s
  | .acknowledgement pk core ctx => Sys2Proof.Machine.execAcknowledgement pk core ctx s
  | .taggedStore pk handle member target => Sys2Proof.Machine.execTaggedStore pk handle member target s
  | .joinControl pk msg => Sys2Proof.Machine.execJoinControl pk msg s
  | .management pk => Sys2Proof.Machine.execManagement pk s
  | .gapTimeout src vc => Sys2Proof.Machine.execGapTimeout src vc s
  | .quarantineResync peer nums ok => Sys2Proof.Machine.execQuarantineResync peer nums ok s
  | .heartbeat src => Sys2Proof.Machine.execHeartbeat src s
  | .heartbeatMissFence peer => Sys2Proof.Machine.execHeartbeatMissFence peer s
  | .prepare keys => Sys2Proof.Machine.execPrepare keys s
  | .drainComplete => Sys2Proof.Machine.execDrainComplete s
  | .rekeyArrival src older => Sys2Proof.Machine.execRekeyArrival src older s
  | .commit => Sys2Proof.Machine.execCommit s
  | .abort => Sys2Proof.Machine.execAbort s
  | .prepareTimeout peer => Sys2Proof.Machine.execPrepareTimeout peer s
  | .fence peer => Sys2Proof.Machine.execFence peer s
  | .leadAnnouncement src => Sys2Proof.Machine.execLeadAnnouncement src s
  | .rekeyRequest src => Sys2Proof.Machine.execRekeyRequest src s
  | .measurementChangeReport src => Sys2Proof.Machine.execMeasurementChangeReport src s
  | .scrubLine line => Sys2Proof.Machine.execScrubLine line s
  | .patrolScrub die sector => Sys2Proof.Machine.execPatrolScrub die sector s
  | .readErrorLogWord port w1 w2 => Sys2Proof.Machine.execReadErrorLogWord port w1 w2 s
  | .createDomain port obj off => Sys2Proof.Machine.execCreateDomain port obj off s
  | .admitModule port peer out keys => Sys2Proof.Machine.execAdmitModule port peer out keys s
  | .removeModule port peer => Sys2Proof.Machine.execRemoveModule port peer s
  | .rekeyNow port keys => Sys2Proof.Machine.execRekeyNow port keys s
  | .leaveDomain port => Sys2Proof.Machine.execLeaveDomain port s
  | .readDomainStatus port => Sys2Proof.Machine.execReadDomainStatus port s
  | .moduleResetRequest port => Sys2Proof.Machine.execModuleResetRequest port s
  | .spdmRequest port request => Sys2Proof.Machine.execSpdmRequest port request s
  | .registerWrite port reg value => Sys2Proof.Machine.execRegisterWrite port reg value s
  | .take claimants => Sys2Proof.Machine.execTake claimants s
  | .semaWrite who value => Sys2Proof.Machine.execSemaWrite who value s
  | .leaseExpiry => Sys2Proof.Machine.execLeaseExpiry s
  | .ahiPush port value => Sys2Proof.Machine.execAhiPush port value s
  | .queueWindowPush port off data => Sys2Proof.Machine.execQueueWindowPush port off data s
  | .wqcfgReopen who die q => Sys2Proof.Machine.execWqcfgReopen who die q s
  | .strictWrite who die value => Sys2Proof.Machine.execStrictWrite who die value s
  | .pendingRecordWrite ring => Sys2Proof.Machine.execPendingRecordWrite ring s
  | .interruptCoalescingTimer ring => Sys2Proof.Machine.execInterruptCoalescingTimer ring s
  | .transmitDescriptor port pair => Sys2Proof.Machine.execTransmitDescriptor port pair s
  | .frameReceive port sub pair frame => Sys2Proof.Machine.execFrameReceive port sub pair frame s
  | .hostMemRead port addr n => Sys2Proof.Machine.execHostMemRead port addr n s
  | .hostMemWrite port addr data poison => Sys2Proof.Machine.execHostMemWrite port addr data poison s
  | .hostAtomic port addr n op v v2 => Sys2Proof.Machine.execHostAtomic port addr n op v v2 s
  | .hostLockedOperation port addr n op v v2 => Sys2Proof.Machine.execHostLockedOperation port addr n op v v2 s
  | .hostSnoop port line data => Sys2Proof.Machine.execHostSnoop port line data s
  | .translationResponse port pasid va page pa rd wr => Sys2Proof.Machine.execTranslationResponse port pasid va page pa rd wr s
  | .pageRequestResponse port obj page ans => Sys2Proof.Machine.execPageRequestResponse port obj page ans s
  | .atsInvalidateRequest port pasid va len => Sys2Proof.Machine.execAtsInvalidateRequest port pasid va len s
  | .powerOn => Sys2Proof.Machine.execPowerOn s
  | .moduleReset => Sys2Proof.Machine.execModuleReset s
  | .portReset port => Sys2Proof.Machine.execPortReset port s
  | .functionLevelReset port => Sys2Proof.Machine.execFunctionLevelReset port s
  | .linkStateChange global link up => Sys2Proof.Machine.execLinkStateChange global link up s
  | .functionReady f => Sys2Proof.Machine.execFunctionReady f s
  | .functionFailure f => Sys2Proof.Machine.execFunctionFailure f s
  | .moduleWideError => Sys2Proof.Machine.execModuleWideError s
  | .controlStateError launch => Sys2Proof.Machine.execControlStateError launch s
  | .softError unit fate core ctx loc => Sys2Proof.Machine.execSoftError unit fate core ctx loc s
  | .errorSummaryRecord die unit => Sys2Proof.Machine.execErrorSummaryRecord die unit s
  | .powerControlWindow power temps => Sys2Proof.Machine.execPowerControlWindow power temps s
  | .kvPageMove die part idx => Sys2Proof.Machine.execKvPageMove die part idx s
  | .slabReclaim die part base => Sys2Proof.Machine.execSlabReclaim die part base s
  | .fillEntryAdvance launch lcluster map => Sys2Proof.Machine.execFillEntryAdvance launch lcluster map s
  | .waitUntilTickReached core ctx => Sys2Proof.Machine.execWaitUntilTickReached core ctx s
  | .publishComplete core ctx => Sys2Proof.Machine.execPublishComplete core ctx s
  | .homeUnitExecution reqs => Sys2Proof.Machine.execHomeUnitExecution reqs s
  | .mapCopyFull core map => Sys2Proof.Machine.execMapCopyFull core map s
  | .configurationAccess port cfg => Sys2Proof.Machine.execConfigurationAccess port cfg s
  | .ethernetLinkChange port sub up => Sys2Proof.Machine.execEthernetLinkChange port sub up s

end Sys2Proof.Machine
end

