-- ==== Sys2Proof/Machine/Sources.lean ====
section
/-! DEFINITION. The source specifiers that an operation reads (spec/05 R141): what a bundle's hold on the head of an empty handoff queue
looks at before any slot acts (spec/01 R18, spec/05 R154). -/

namespace Sys2Proof

/-- The sources of an operation; an event has none. -/
def Instr.sources : Instr → List Src
  | .addI64 _ _ a b => [a, b]
  | .subI64 _ _ a b => [a, b]
  | .minI64 _ _ a b => [a, b]
  | .maxI64 _ _ a b => [a, b]
  | .addsI64 _ _ a b => [a, b]
  | .minZ64 _ _ a b => [a, b]
  | .maxZ64 _ _ a b => [a, b]
  | .addI32 _ _ a b => [a, b]
  | .subI32 _ _ a b => [a, b]
  | .minI32 _ _ a b => [a, b]
  | .maxI32 _ _ a b => [a, b]
  | .addsI32 _ _ a b => [a, b]
  | .minZ32 _ _ a b => [a, b]
  | .maxZ32 _ _ a b => [a, b]
  | .and _ _ a b => [a, b]
  | .or _ _ a b => [a, b]
  | .xor _ _ a b => [a, b]
  | .andn _ _ a b => [a, b]
  | .orn _ _ a b => [a, b]
  | .not _ _ a => [a]
  | .shl _ _ a b => [a, b]
  | .shr _ _ a b => [a, b]
  | .sar _ _ a b => [a, b]
  | .ceq _ _ a b => [a, b]
  | .cne _ _ a b => [a, b]
  | .cltI64 _ _ a b => [a, b]
  | .cleI64 _ _ a b => [a, b]
  | .cltZ64 _ _ a b => [a, b]
  | .cleZ64 _ _ a b => [a, b]
  | .mul _ _ a b => [a, b]
  | .mulhI64 _ _ a b => [a, b]
  | .mulhZ64 _ _ a b => [a, b]
  | .divI64 _ _ a b => [a, b]
  | .divZ64 _ _ a b => [a, b]
  | .remI64 _ _ a b => [a, b]
  | .remZ64 _ _ a b => [a, b]
  | .divI32 _ _ a b => [a, b]
  | .divZ32 _ _ a b => [a, b]
  | .remI32 _ _ a b => [a, b]
  | .remZ32 _ _ a b => [a, b]
  | .li _ _ _ => []
  | .lis _ _ _ _ => []
  | .addi _ _ _ => []
  | .andi _ _ _ => []
  | .mov _ _ a => [a]
  | .clz _ _ a => [a]
  | .ctz _ _ a => [a]
  | .popc _ _ a => [a]
  | .sext _ _ a b => [a, b]
  | .zext _ _ a b => [a, b]
  | .cder _ _ a b => [a, b]
  | .cbnd _ _ a b => [a, b]
  | .csetoff _ _ a b => [a, b]
  | .caddoff _ _ a b => [a, b]
  | .cmov _ _ a => [a]
  | .cchk _ _ a b => [a, b]
  | .cget _ _ a b => [a, b]
  | .shld _ _ a b => [a, b]
  | .shldImg _ _ b => [b]
  | .shset _ _ a b => [a, b]
  | .shget _ _ a b => [a, b]
  | .pand _ _ a b => [a, b]
  | .por _ _ a b => [a, b]
  | .pxor _ _ a b => [a, b]
  | .pandn _ _ a b => [a, b]
  | .pnot _ _ a => [a]
  | .pmov _ _ a => [a]
  | .pset _ _ a => [a]
  | .pany _ _ a => [a]
  | .pcnt _ _ a => [a]
  | .rdsr _ _ b => [b]
  | .wrsr _ a b => [a, b]
  | .bfrd _ _ b => [b]
  | .bfwr _ a b => [a, b]
  | .ldZ8 _ _ a b => [a, b]
  | .ldZ16 _ _ a b => [a, b]
  | .ldZ32 _ _ a b => [a, b]
  | .ldI8 _ _ a b => [a, b]
  | .ldI16 _ _ a b => [a, b]
  | .ldI32 _ _ a b => [a, b]
  | .ldI64 _ _ a b => [a, b]
  | .ldC128 _ _ a b => [a, b]
  | .ldNr _ _ _ a b => [a, b]
  | .stZ8 _ _ a b => [a, b]
  | .stZ16 _ _ a b => [a, b]
  | .stZ32 _ _ a b => [a, b]
  | .stZ64 _ _ a b => [a, b]
  | .lds _ _ a b => [a, b]
  | .ldsC _ _ a b => [a, b]
  | .sts _ _ a b => [a, b]
  | .stsF _ _ a b => [a, b]
  | .drain _ a b => [a, b]
  | .ldRlx _ _ _ _ _ a => [a]
  | .ldAcq _ _ _ _ _ a => [a]
  | .stRlx _ _ _ _ a => [a]
  | .stRel _ _ _ _ a => [a]
  | .atomAdd _ _ _ _ _ a => [a]
  | .atomAnd _ _ _ _ _ a => [a]
  | .atomOr _ _ _ _ _ a => [a]
  | .atomXor _ _ _ _ _ a => [a]
  | .atomMinI _ _ _ _ _ a => [a]
  | .atomMaxI _ _ _ _ _ a => [a]
  | .atomMinZ _ _ _ _ _ a => [a]
  | .atomMaxZ _ _ _ _ _ a => [a]
  | .atomSwap _ _ _ _ _ a => [a]
  | .atomCas _ _ _ _ _ a => [a]
  | .qpushS _ _ _ => []
  | .brS1 c _ => [c]
  | .brzS1 c _ => [c]
  | .callS1 c _ => [c]
  | .vaddF32 _ _ _ a b => [a, b]
  | .vsubF32 _ _ _ a b => [a, b]
  | .vmulF32 _ _ _ a b => [a, b]
  | .vfmaF32 _ _ _ a b => [a, b]
  | .vminF32 _ _ _ a b => [a, b]
  | .vmaxF32 _ _ _ a b => [a, b]
  | .vaddBf16 _ _ _ a b => [a, b]
  | .vsubBf16 _ _ _ a b => [a, b]
  | .vmulBf16 _ _ _ a b => [a, b]
  | .vfmaBf16 _ _ _ a b => [a, b]
  | .vminBf16 _ _ _ a b => [a, b]
  | .vmaxBf16 _ _ _ a b => [a, b]
  | .vabsF32 _ _ _ a => [a]
  | .vnegF32 _ _ _ a => [a]
  | .vexp2F32 _ _ _ a => [a]
  | .vrcpF32 _ _ _ a => [a]
  | .vrsqrtF32 _ _ _ a => [a]
  | .vabsBf16 _ _ _ a => [a]
  | .vnegBf16 _ _ _ a => [a]
  | .vexp2Bf16 _ _ _ a => [a]
  | .vrcpBf16 _ _ _ a => [a]
  | .vrsqrtBf16 _ _ _ a => [a]
  | .vaddI16 _ _ a b => [a, b]
  | .vsubI16 _ _ a b => [a, b]
  | .vmulI16 _ _ a b => [a, b]
  | .vminI16 _ _ a b => [a, b]
  | .vmaxI16 _ _ a b => [a, b]
  | .vaddsI16 _ _ a b => [a, b]
  | .vsubsI16 _ _ a b => [a, b]
  | .vaddI32 _ _ a b => [a, b]
  | .vsubI32 _ _ a b => [a, b]
  | .vmulI32 _ _ a b => [a, b]
  | .vminI32 _ _ a b => [a, b]
  | .vmaxI32 _ _ a b => [a, b]
  | .vaddsI32 _ _ a b => [a, b]
  | .vsubsI32 _ _ a b => [a, b]
  | .vaddZ16 _ _ a b => [a, b]
  | .vsubZ16 _ _ a b => [a, b]
  | .vmulZ16 _ _ a b => [a, b]
  | .vminZ16 _ _ a b => [a, b]
  | .vmaxZ16 _ _ a b => [a, b]
  | .vaddsZ16 _ _ a b => [a, b]
  | .vsubsZ16 _ _ a b => [a, b]
  | .vaddZ32 _ _ a b => [a, b]
  | .vsubZ32 _ _ a b => [a, b]
  | .vmulZ32 _ _ a b => [a, b]
  | .vminZ32 _ _ a b => [a, b]
  | .vmaxZ32 _ _ a b => [a, b]
  | .vaddsZ32 _ _ a b => [a, b]
  | .vsubsZ32 _ _ a b => [a, b]
  | .vand _ _ a b => [a, b]
  | .vor _ _ a b => [a, b]
  | .vxor _ _ a b => [a, b]
  | .vandn _ _ a b => [a, b]
  | .vnot _ _ a => [a]
  | .vshlW16 _ _ a b => [a, b]
  | .vshrW16 _ _ a b => [a, b]
  | .vsarW16 _ _ a b => [a, b]
  | .vshlW32 _ _ a b => [a, b]
  | .vshrW32 _ _ a b => [a, b]
  | .vsarW32 _ _ a b => [a, b]
  | .vceqF32 _ _ a b => [a, b]
  | .vcneF32 _ _ a b => [a, b]
  | .vcltF32 _ _ a b => [a, b]
  | .vcleF32 _ _ a b => [a, b]
  | .vcunF32 _ _ a b => [a, b]
  | .vceqBf16 _ _ a b => [a, b]
  | .vcneBf16 _ _ a b => [a, b]
  | .vcltBf16 _ _ a b => [a, b]
  | .vcleBf16 _ _ a b => [a, b]
  | .vcunBf16 _ _ a b => [a, b]
  | .vceqW16 _ _ a b => [a, b]
  | .vcneW16 _ _ a b => [a, b]
  | .vcltI16 _ _ a b => [a, b]
  | .vcleI16 _ _ a b => [a, b]
  | .vcltZ16 _ _ a b => [a, b]
  | .vcleZ16 _ _ a b => [a, b]
  | .vceqW32 _ _ a b => [a, b]
  | .vcneW32 _ _ a b => [a, b]
  | .vcltI32 _ _ a b => [a, b]
  | .vcleI32 _ _ a b => [a, b]
  | .vcltZ32 _ _ a b => [a, b]
  | .vcleZ32 _ _ a b => [a, b]
  | .sel _ _ _ a b => [a, b]
  | .perm _ _ a b => [a, b]
  | .rot _ _ a b => [a, b]
  | .bcast _ _ a b => [a, b]
  | .zip _ _ a b => [a, b]
  | .unzip _ _ a b => [a, b]
  | .bcastW32 _ _ a b => [a, b]
  | .permW32 _ _ a b => [a, b]
  | .raddF32 _ _ _ a _ => [a]
  | .raddBf16 _ _ _ a _ => [a]
  | .raddInt _ _ _ a _ => [a]
  | .rdotF32 _ _ _ a b => [a, b]
  | .rdotBf16 _ _ _ a b => [a, b]
  | .rmax _ _ _ a _ => [a]
  | .rmin _ _ _ a _ => [a]
  | .cvt _ _ _ _ _ _ a => [a]
  | .rcupd _ _ a b => [a, b]
  | .rcrd _ _ b => [b]
  | .rcwr _ _ a b => [a, b]
  | .exit _ _ a b => [a, b]
  | .recurse _ _ b => [b]
  | .exitC _ _ b => [b]
  | .pack _ _ a b => [a, b]
  | .packRc _ _ a b => [a, b]
  | .packM _ _ a b => [a, b]
  | .unpack _ _ a b => [a, b]
  | .unpackC _ _ a b => [a, b]
  | .vld _ _ a b => [a, b]
  | .vldNr _ _ _ a b => [a, b]
  | .vst _ _ a b => [a, b]
  | .vlds _ _ a _ => [a]
  | .vldsC _ _ a _ => [a]
  | .vsts _ _ a _ => [a]
  | .vstsF _ _ a _ => [a]
  | .qpushV _ _ _ => []
  | .mmaBf16 _ _ a b => [a, b]
  | .mmaBf16Mc _ _ a b => [a, b]
  | .mmaBf16Rop _ _ a b => [a, b]
  | .mmaF16 _ _ a b => [a, b]
  | .mmaF16Mc _ _ a b => [a, b]
  | .mmaF16Rop _ _ a b => [a, b]
  | .mmaE4m3 _ _ a b => [a, b]
  | .mmaE4m3Mc _ _ a b => [a, b]
  | .mmaE4m3Rop _ _ a b => [a, b]
  | .mmaE5m2 _ _ a b => [a, b]
  | .mmaE5m2Mc _ _ a b => [a, b]
  | .mmaE5m2Rop _ _ a b => [a, b]
  | .mmaF4x _ _ a b => [a, b]
  | .mmaF4xMc _ _ a b => [a, b]
  | .mmaF4xRop _ _ a b => [a, b]
  | .azero _ a => [a]
  | .azeroV _ a => [a]
  | .azeroB _ a => [a]
  | .asetx _ a b => [a, b]
  | .asetxV _ a b => [a, b]
  | .asetxZ _ a b => [a, b]
  | .asetxZV _ a b => [a, b]
  | .anorm _ a b => [a, b]
  | .anormV _ a b => [a, b]
  | .aswap _ => []
  | .ardout _ a _ => [a]
  | .ardoutS _ _ a _ => [a]
  | .ardoutSf _ _ a _ => [a]
  | .ascore _ _ a b => [a, b]
  | .ascoreGm _ _ a b => [a, b]
  | .avalue _ a b => [a, b]
  | .avalueHi _ a b => [a, b]
  | .smerge _ a b => [a, b]
  | .smergeX _ a b => [a, b]
  | .smergeI _ a b => [a, b]
  | .mskld a b => [a, b]
  | .kvapp _ a b => [a, b]
  | .copy _ a b => [a, b]
  | .gather _ _ a b => [a, b]
  | .scatter _ _ a b => [a, b]
  | .smpl _ a b => [a, b]
  | .fst _ a b => [a, b]
  | .fstOf _ a b => [a, b]
  | .fstSp _ a b => [a, b]
  | .fstOfSp _ a b => [a, b]
  | .ratomAdd _ a b => [a, b]
  | .ratomAnd _ a b => [a, b]
  | .ratomOr _ a b => [a, b]
  | .ratomXor _ a b => [a, b]
  | .ratomMinI64 _ a b => [a, b]
  | .ratomMaxI64 _ a b => [a, b]
  | .ratomMinZ64 _ a b => [a, b]
  | .ratomMaxZ64 _ a b => [a, b]
  | .ackf => []
  | .jopen _ a => [a]
  | .jarrive _ a b => [a, b]
  | .jwait _ a b => [a, b]
  | .jrule _ a b => [a, b]
  | .fillreg _ a b => [a, b]
  | .fillregT _ b => [b]
  | .fillregTf _ b => [b]
  | .fillregTm _ a b => [a, b]
  | .fillregW _ a b => [a, b]
  | .accept _ a => [a]
  | .ahpush _ a b => [a, b]
  | .ahsel _ a b => [a, b]
  | .mapreq _ a b => [a, b]
  | .wqpop _ a => [a]
  | .wqtry _ a => [a]
  | .wqpush _ a => [a]
  | .wqclose _ a => [a]
  | .kvalloc _ a b => [a, b]
  | .kvgrow _ a b => [a, b]
  | .kvfork _ a b => [a, b]
  | .kvfree _ a => [a]
  | .kvinval _ a b => [a, b]
  | .qpushX _ _ => []
  | .brC c _ => [c]
  | .brzC c _ => [c]
  | .callC c _ => [c]
  | .ret a => [a]
  | .fjmp a b => [a, b]
  | .lap _ a => [a]
  | .lapLr _ => []
  | .phase _ => []
  | .bar _ a b => [a, b]
  | .wait a => [a]
  | .waitP => []
  | .tend => []
  | .kpoint => []
  | .spawn a b => [a, b]
  | .trap a => [a]
  | .rti => []
  | .srd _ a => [a]
  | .swr _ a b => [a, b]
  | .ubrd _ a b => [a, b]
  | .ubwr _ a b => [a, b]
  | .lctlPark _ a => [a]
  | .lctlRes _ a => [a]
  | .lctlAbort _ a => [a]
  | .otinv a => [a]
  | .otinvAll => []
  | .mcall _ a b => [a, b]
  | .mans a b => [a, b]
  | .erpost _ a b => [a, b]
  | .launchQueuePop _ => []
  | .placement _ _ => []
  | .placementWaitLimit _ _ => []
  | .candidateAging _ _ => []
  | .urgencyWindowEntry _ _ => []
  | .preemptionDecision _ _ => []
  | .parkComplete _ => []
  | .parkAbandon _ => []
  | .saveComplete _ => []
  | .resumption _ => []
  | .restoreComplete _ => []
  | .pacerOverrun _ _ => []
  | .agingHold _ => []
  | .faultDelivery _ _ => []
  | .resultLanding _ _ => []
  | .sectorArrival _ _ => []
  | .objectEntryArrival _ => []
  | .remoteScratchpadArrival _ => []
  | .engineHazardRelease _ _ _ => []
  | .engineOpComplete _ _ _ => []
  | .engineFault _ _ _ => []
  | .matrixStep _ => []
  | .attentionOperationStep _ => []
  | .contextEnded _ _ => []
  | .killTakesEffect _ _ => []
  | .taggedWriteStage _ _ _ _ _ _ => []
  | .handlerRecordPush _ _ => []
  | .taskReplayPush _ _ => []
  | .flagIncrement _ => []
  | .store _ => []
  | .storeWithFlag _ => []
  | .atomic _ => []
  | .loadRequest _ => []
  | .loadData _ _ _ => []
  | .acknowledgement _ _ _ => []
  | .taggedStore _ _ _ _ => []
  | .joinControl _ _ => []
  | .management _ => []
  | .gapTimeout _ _ => []
  | .quarantineResync _ _ _ => []
  | .heartbeat _ => []
  | .heartbeatMissFence _ => []
  | .prepare _ => []
  | .drainComplete => []
  | .rekeyArrival _ _ => []
  | .commit => []
  | .abort => []
  | .prepareTimeout _ => []
  | .fence _ => []
  | .leadAnnouncement _ => []
  | .rekeyRequest _ => []
  | .measurementChangeReport _ => []
  | .scrubLine _ => []
  | .patrolScrub _ _ => []
  | .readErrorLogWord _ _ _ => []
  | .createDomain _ _ _ => []
  | .admitModule _ _ _ _ => []
  | .removeModule _ _ => []
  | .rekeyNow _ _ => []
  | .leaveDomain _ => []
  | .readDomainStatus _ => []
  | .moduleResetRequest _ => []
  | .spdmRequest _ _ => []
  | .registerWrite _ _ _ => []
  | .take _ => []
  | .semaWrite _ _ => []
  | .leaseExpiry => []
  | .ahiPush _ _ => []
  | .queueWindowPush _ _ _ => []
  | .wqcfgReopen _ _ _ => []
  | .strictWrite _ _ _ => []
  | .pendingRecordWrite _ => []
  | .interruptCoalescingTimer _ => []
  | .transmitDescriptor _ _ => []
  | .frameReceive _ _ _ _ => []
  | .hostMemRead _ _ _ => []
  | .hostMemWrite _ _ _ _ => []
  | .hostAtomic _ _ _ _ _ _ => []
  | .hostLockedOperation _ _ _ _ _ _ => []
  | .hostSnoop _ _ _ => []
  | .translationResponse _ _ _ _ _ _ _ => []
  | .pageRequestResponse _ _ _ _ => []
  | .atsInvalidateRequest _ _ _ _ => []
  | .powerOn => []
  | .moduleReset => []
  | .portReset _ => []
  | .functionLevelReset _ => []
  | .linkStateChange _ _ _ => []
  | .functionReady _ => []
  | .functionFailure _ => []
  | .moduleWideError => []
  | .controlStateError _ => []
  | .softError _ _ _ _ _ => []
  | .errorSummaryRecord _ _ => []
  | .powerControlWindow _ _ => []
  | .kvPageMove _ _ _ => []
  | .slabReclaim _ _ _ => []
  | .fillEntryAdvance _ _ _ => []
  | .waitUntilTickReached _ _ => []
  | .publishComplete _ _ => []
  | .homeUnitExecution _ => []
  | .mapCopyFull _ _ => []
  | .configurationAccess _ _ => []
  | .ethernetLinkChange _ _ _ => []

end Sys2Proof
end

