-- ==== Sys2Proof/Machine/Issue.lean ====
section
/-! DEFINITION. The issue of a bundle: fetch and decode with the checks of spec/05 R154, what holds it (spec/01 R18), its slots in
order on the view at its start (R143 to R145), its pops (R24), and where the context goes on (R150, R153, spec/01 R16); and the
cycle of a core. -/

namespace Sys2Proof.Machine

/-! ### Decode (R154) -/

/-- Where an operation stands in code: the state that R138 and R151 look at. -/
def placementSlot (b : Bank) (h : Header) (ops : List (Slot × Instr)) : Option Nat :=
  let lap := fun (i : Instr) => match i with
    | .lap len _ => some len.toNat
    | .lapLr len => some len.toNat
    | _ => none
  let enclosing := vat ⟨0, 0, false, 0⟩ b.loops (b.depth.toNat - 1)
  let last := enclosing.bstart.toNat + 32 * (enclosing.blen.toNat - 1)
  if h.lbc ≠ 0 ∧ b.depth = 0 then some 7
  else (ops.find? fun o =>
    (b.delay ≠ 0 && (o.2.isBranch || o.2.isLap)) || (b.depth ≠ 0 && o.2.isBranch) ||
      (b.depth ≠ 0 && (lap o.2).any fun n => decide (last < b.pc.toNat + 32 * (n + 1) + 32))).map (·.1.num)

/-- Decode-time checks after the encoding: privilege (in slot order), then placement. -/
def decodeTrap (sv : Bool) (b : Bank) (u : Bundle) : Option Trap :=
  match u.ops.find? fun o => o.2.isPrivileged && (!sv || (match o.2 with | .mans _ _ => true | _ => false)) with
  | some o => some ⟨kPrivilege, o.1.num, o.1.num, 0, 0⟩
  | none => (placementSlot b u.hdr u.ops).map fun n => ⟨kPlacement, 0, n, 0, 0⟩

/-- The next bundle of the context in the issue stage, or the trap that its fetch or decode raises. -/
noncomputable def Mach.nextBundle (m : Mach) : Except Stop Bundle :=
  let part := (m.mod.launch (m.core.launch.getD 0)).record.part
  match m.mod.fetch m.ctx m.code part m.ctx.saved.isSome m.ctx.bank.pc.toNat with
  | .error e => .error e
  | .ok bytes =>
    match decodeBundle (decide (8 ≤ m.cid / 64)) (BitVec.ofNat 256 (leNat bytes)) with
    | .error (.illegal n) => trapAt n kIllegal n 0 0
    | .error (.reserved n) => trapAt n kReserved n 0 0
    | .ok u =>
      match decodeTrap m.ctx.saved.isSome m.ctx.bank u with
      | some t => .error (.trap t)
      | none => .ok u

/-! ### What holds a bundle before its slots are looked at -/

/-- Queues that a mask names. -/
def queuesOf (mask : BitVec 8) : List Nat := (upTo 8).filter fun i => mask.getLsbD i

/-- An earlier operation holds the bundle: what its context waits for, a result past its bound (R147), or an empty queue that it
pops. -/
def Mach.heldBefore (m : Mach) (pop : BitVec 8) : Bool :=
  m.ctx.pending ≠ [] ||
    m.ctx.windows.any (fun w => w.req.isSome && (match w.until' with | none => true | some u => decide (u ≤ m.mod.tick))) ||
    m.core.meq.any (fun o => o.ctx = m.xid && o.lands && decide (o.due ≤ m.mod.tick)) ||
    (queuesOf pop).any fun q => vat [] m.core.queues q = []

/-- A slot reads the head of an empty handoff queue: this holds the bundle before anything that its slots find (R18, spec/05 R154). -/
def Mach.headsMissing (m : Mach) (ops : List (Slot × Instr)) : Bool :=
  ops.any fun o => o.2.sources.any fun x => match x with
    | .q n => decide (vat [] m.core.queues n = [])
    | _ => false

/-- The pops of a bundle. -/
def Core.popAll (k : Core) (pop : BitVec 8) : Core :=
  (queuesOf pop).foldl (fun k q => { k with queues := vmod k.queues q fun l => l.drop 1 }) k

/-- A popped entry that is poisoned (spec/15 R385). -/
def Core.badPop (k : Core) (pop : BitVec 8) : Option Nat :=
  (queuesOf pop).find? fun q => ((vat [] k.queues q).head?.map (·.poison)).getD false

/-! ### The slots -/

/-- What the slots of a bundle lead to. -/
inductive Verdict where
  | held (s : State)
  | trapped (s : State)
  | issued (s : State)

/-- The slots run so far: the machine as they leave it, and the first trap of each class (spec/15 R377). -/
structure SlotRun where
  s : State
  urgent : Option State
  trap : Option State

/-- One slot acts on what the earlier ones have left. -/
def SlotRun.slot (r : SlotRun) (i : Instr) : SlotRun :=
  match exec i r.s with
  | .next t =>
    if t.iss.trapped then
      if t.iss.urgent then { r with urgent := r.urgent.or (some t) } else { r with trap := r.trap.or (some t) }
    else { r with s := t }
  | _ => r

/-- The bundle u at a state whose issue stage holds its context: nothing of it acts unless it issues. One that an earlier operation
holds keeps its place among the poppers of an empty work queue all the same (spec/01 R29). -/
def State.runBundle (s : State) (u : Bundle) : Verdict :=
  let s0 : State := { s with
    start := s.now, iss := { Iss.idle with pop := u.hdr.pop, yield := u.hdr.yld, rep := u.hdr.rep.toNat, lbc := u.hdr.lbc.toNat } }
  let r : SlotRun := u.ops.foldl (fun (r : SlotRun) o => r.slot o.2) ⟨s0.onCore fun k => k.popAll u.hdr.pop, none, none⟩
  if s.now.heldBefore u.hdr.pop then
    let waits := if s.now.ctx.windows.any (·.req.isSome) then none else r.s.iss.waitq
    .held { s0 with iss := { s0.iss with held := true, heldElse := true, waitq := waits } }
  else
    match r.urgent with
    | some t => .trapped t
    | none =>
      if r.s.iss.held ∨ s.now.headsMissing u.ops then
        .held { r.s with now := s.now, iss := { r.s.iss with held := true, heldElse := r.s.iss.heldElse || s.now.headsMissing u.ops } }
      else match r.trap with
        | some t => .trapped t
        | none =>
          match s.now.core.badPop u.hdr.pop with
          | some q =>
            let t := s0.raise ⟨kPoison, 4, 7, 160 + q, 0⟩
            if t.iss.held then .held t else .trapped t
          | none => .issued r.s

/-- The verdict on the next bundle of the context in the issue stage. -/
noncomputable def State.verdict (s : State) : Verdict :=
  match s.now.nextBundle with
  | .ok u => s.runBundle u
  | .error e =>
    let t := State.settle { s with start := s.now, iss := Iss.idle } (.error e)
    if t.iss.held then .held { t with now := s.now } else .trapped t

/-! ### After the bundle -/

/-- NextPc (R153). -/
def Bank.nextPc (b : Bank) (lbc : Nat) : Bank :=
  if b.depth = 0 then { b with pc := b.pc + 32 }
  else
    let k := b.depth.toNat - 1
    let l := vat ⟨0, 0, false, 0⟩ b.loops k
    let last := l.bstart + 32 * (l.blen.setWidth 64 - 1)
    let leave := { b with depth := b.depth - 1, pc := last + 32 }
    if lbc = 1 then leave
    else if lbc = 2 ∨ b.pc = last then
      let b1 := { b with loops := vmod b.loops k fun x => { x with remain := x.remain - 1 } }
      if l.remain.toNat ≤ 1 then { b1 with depth := b.depth - 1, pc := last + 32 } else { b1 with pc := l.bstart }
    else { b with pc := b.pc + 32 }

/-- Where the context goes on after a bundle: after its delay bundles at a branch's target (R150), after a lap opening where it
says (spec/06 R182), else at NextPc. -/
def Bank.advance (b : Bank) (i : Iss) : Bank :=
  if i.branch then { b with delay := 2, target := i.taken.getD (b.pc + 96), pc := b.pc + 32 }
  else if b.delay ≠ 0 then { b with delay := b.delay - 1, pc := if b.delay = 1 then b.target else b.pc + 32 }
  else match i.next with
    | some p => { b with pc := p }
    | none => b.nextPc i.lbc

/-- The pending fault of a user trap (spec/09 R296). -/
def userFault (code pc : W64) (tick : Nat) (sv : Bool) : PendFault :=
  ⟨kUser, 0, trapRecord ⟨kUser, 0, 6, code.toNat, 0⟩ pc.toNat, tick, 0, none, sv⟩

/-- Ages of the other Ready contexts after a bundle of context x (R21). -/
def Core.grow (k : Core) (x : Nat) : Core :=
  { k with ctxs := k.ctxs.mapIdx fun i c => if i ≠ x ∧ c.st = .ready then { c with age := c.age + 1 } else c }

/-- A run ends with the context in a state. -/
def Mach.runEnds (m : Mach) (st : CtxState) : Mach :=
  { m with core := { m.core with running := none }, ctx := { m.ctx with st := st, age := 0 } }

/-- The machine after an issued bundle: `pc` is the bundle's. -/
def Mach.afterIssue (m : Mach) (i : Iss) (pc : W64) : Mach :=
  if m.core.launch.isNone then m
  else
    let bank := if i.jumped then m.ctx.bank else m.ctx.bank.advance i
    let faults := match i.user with
      | some code => userFault code pc m.mod.tick m.ctx.saved.isSome :: m.ctx.faults
      | none => m.ctx.faults
    let m1 : Mach := { m with
      core := m.core.grow m.xid
      ctx := { m.ctx with
        bank := bank, faults := faults, pageFail := none, remoteFail := none, waitTick := none
        checked := [], lineGot := [], joinTold := none, joinWait := none, waitBank := false } }
    if (i.kpoint ∨ i.yield) ∧ i.user = none ∧ m1.ctx.killable then m1.killTake
    else if m1.ctx.st = .ending then { m1 with core := { m1.core with running := none } }
    else if m1.ctx.st ≠ .running then { m1 with core := { m1.core with running := none } }
    else if i.yield then m1.runEnds .ready
    else m1

/-- Ask the home of another module's join whether its generation has been released, once; a module that is cut off answers as
for a join that is gone. -/
def Mach.askJoin (m : Mach) (h : W64) (g : Nat) : Mach :=
  if m.ctx.pending.any fun p => match p with | .joinAsk .. => true | _ => false then m
  else if (m.mod.domainFault (joinModule h)).isSome then { m with ctx := { m.ctx with joinTold := some (h, g, freedSummary) } }
  else
    let rq := m.ctx.reqNext
    { m with
      mod := m.mod.joinSend (joinModule h) (.wait h g) [BitVec.ofNat 128 (m.memberOf m.cid + m.xid * 2 ^ 44 + rq * 2 ^ 64)]
      ctx := { m.ctx with reqNext := rq + 1, pending := m.ctx.pending ++ [.joinAsk rq h g] } }

/-- Ask another core for lines, once (spec/02 R61). -/
def Mach.askLines (m : Mach) (c off n key : Nat) : Mach :=
  if m.ctx.pending.any fun p => match p with | .lines .. => true | _ => false then m
  else
    let rq := m.ctx.reqNext
    let r : RemoteReq := ⟨m.cid, m.xid, rq, m.mod.tick, off, .lines n key, none, 5, m.ctx.bank.pc, m.ctx.saved.isSome⟩
    let m1 : Mach := { m with ctx := { m.ctx with reqNext := rq + 1, pending := m.ctx.pending ++ [.lines rq key] } }
    m1.onCore c fun k => { k with reqs := k.reqs ++ [r] }

/-- What a held bundle leaves (R18, spec/02 R61, R73, spec/15 R371, R372, spec/16 R404, spec/09 R274): requests for translations, pages,
data, lines and a join's release, and missed promises. -/
def Mach.sendHeld (m : Mach) (i : Iss) : Mach :=
  let fresh := i.packets.filter fun p =>
    !m.ctx.pending.contains (.fetch (remoteKey p.dst p.obj (16 * p.off.toNat)))
  let missed := i.missed.foldl (fun t n => sins n t) []
  let m1 : Mach := { m with
    mod := ((fresh.foldl Mod.send m.mod).request i.pageReqs).askAts i.ats
    ctx := { m.ctx.markMissed missed with
      bank := { m.ctx.bank with misses := BitVec.ofNat 16 (min 65535 (m.ctx.bank.misses.toNat + missed.length)) }
      pending := fresh.foldl (fun l p =>
        let f := Pending.fetch (remoteKey p.dst p.obj (16 * p.off.toNat))
        if l.contains f then l else l ++ [f]) m.ctx.pending
      joinWait := i.joinWait.or m.ctx.joinWait, waitTick := if i.heldElse then none else i.waitTick } }
  let m2 := match i.joinWait with
    | some w => if i.joinAsk then m1.askJoin w.1 w.2 else m1
    | none => m1
  match i.lines with
  | some (c, off, n, key) => m2.askLines c off n key
  | none => m2

/-- A blocking pop that has found its queue empty waits in order (spec/01 R29). -/
def Mach.joinPoppers (m : Mach) (i : Iss) : Mach :=
  match i.waitq with
  | none => m
  | some n =>
    let wait := fun (w : WorkQueue) =>
      if w.poppers.any (fun p => p.core = m.cid && p.ctx = m.xid) then w else { w with poppers := w.poppers ++ [⟨m.cid, m.xid⟩] }
    { m with mod := m.mod.setQueue (n / 64) (n % 64) wait }

/-- A held bundle ends the run: the context takes a kill, or is Blocked (R16, R34). -/
def Mach.afterHeld (m : Mach) (i : Iss) : Mach :=
  let m1 := (m.sendHeld i).joinPoppers i
  if m1.ctx.killable then m1.killTake
  else
    { m1 with
      core := { m1.core with running := none }
      ctx := { m1.ctx with st := if m1.ctx.st = .ending then .ending else .blocked, waitBank := false } }

/-! ### The cycle of a core -/

/-- The context in the issue stage delivers a fault, or its next bundle is taken up (spec/15 R377): a pending fault is delivered
before the first bundle that would issue after it was found (spec/03 R94, spec/08 R235, spec/09 Table 09-3; log 59). -/
noncomputable def State.attempt (s : State) : State :=
  let m := s.now
  match m.ctx.firstFault with
  | some f =>
    if m.core.landed m.xid m.ctx then { s with now := (m.deliver f).afterTrap }
    else { s with now := m.afterHeld { Iss.idle with heldElse := true } }
  | none =>
    match s.verdict with
    | .held t => { s with now := m.afterHeld t.iss }
    | .trapped t => { s with now := ({ t.now with mod := if t.now.core.launch.isSome then t.now.mod.dropPoppers m.cid (some m.xid) else t.now.mod } : Mach).afterTrap }
    | .issued t => { s with now := t.now.afterIssue t.iss m.ctx.bank.pc }

/-- Context x of core c is, or becomes, Running. -/
def Mach.run (m : Mach) (x : Nat) : Mach :=
  { m with
    core := { m.core with running := some x }
    ctx := { m.ctx with st := if m.ctx.st = .ready then .running else m.ctx.st } }

/-- A core issues at most one bundle in its cycle (R17). -/
noncomputable def State.issueCycle (s : State) (c : Nat) : State :=
  let m := s.now.agingHold c
  match (m.coreAt c).running with
  | some x =>
    let t := State.attempt { s with now := m.unload.load c x }
    { t with now := t.now.unload }
  | none =>
    match m.select c with
    | some x =>
      let t := State.attempt { s with now := (m.unload.load c x).run x }
      { t with now := t.now.unload }
    | none => { s with now := m }

/-- A Blocked context in the issue stage: the supervisor bank, a fault to deliver, a kill, or a held bundle that is held no longer
makes it Ready (R16, R19, R34, spec/13 R318, spec/15 R377). One that waits for the bank keeps its place until its bundle is
taken up. -/
noncomputable def State.wake (s : State) : State :=
  let m := s.now
  let ready : State := { s with now := { m with ctx := { m.ctx with st := .ready, age := 0 } } }
  if m.ctx.st ≠ .blocked then s
  else if m.ctx.waitBank then (if m.bankTaken then s else ready)
  else if m.dueFault.isSome then ready
  else if m.ctx.killable then { s with now := m.killTake }
  else if m.ctx.pending ≠ [] then s
  else match s.verdict with
    | .held t => { s with now := (m.sendHeld t.iss).joinPoppers t.iss }
    | _ => ready

/-- An operation on every context of core c with it in the issue stage, in index order. -/
def State.each (s : State) (c : Nat) (f : State → State) : State :=
  (upTo (s.now.coreAt c).ctxs.length).foldl (fun (t : State) x =>
    if (t.now.coreAt c).launch.isSome then
      let w := f { t with now := t.now.unload.load c x }
      { w with now := w.now.unload }
    else t) s

noncomputable def State.wakeCycle (s : State) (c : Nat) : State := s.each c State.wake

/-- The next bundle of the context in the issue stage cannot issue. -/
noncomputable def State.held (s : State) : Bool := match s.verdict with | .held _ => true | _ => false

/-- A kill takes effect where the held bundle stands, before the engines go on (spec/12 R312, R313): of a Blocked context, or of a
Running one whose next bundle cannot issue. A fault that is due comes first (spec/15 R377). -/
noncomputable def State.killHeld (s : State) : State :=
  let m := s.now
  if m.ctx.killable ∧ m.dueFault.isNone ∧ (m.ctx.st = .blocked ∨ (m.ctx.st = .running ∧ s.held)) then { s with now := m.killTake } else s

/-- Core c holds a launch that runs, or that runs or drains. -/
def Mach.runs (m : Mach) (c : Nat) : Bool :=
  (m.coreAt c).launch.isSome && decide ((m.mod.launch ((m.coreAt c).launch.getD 0)).state = .running)
def Mach.acts (m : Mach) (c : Nat) : Bool := m.runs c || ((m.coreAt c).launch.isSome && decide ((m.mod.launch ((m.coreAt c).launch.getD 0)).state = .draining))

/-- First part of a cycle of core c (spec/04 R129): kills, a park that begins, and the matrix and copy engines. -/
noncomputable def State.engines (s : State) (c : Nat) : State :=
  let t := if s.now.runs c then s.each c State.killHeld else s
  let id := (t.now.coreAt c).launch.getD 0
  let m1 := (t.now.beginPark id).onCore c Core.mapsArrive
  { t with now := (m1.meCycle s.free c).engineCycle s.free c }

/-- Second part: what contexts wait for is attempted, contexts end, and a bundle issues. -/
noncomputable def State.issues (s : State) (c : Nat) : State :=
  let t : State := { s with now := (s.now.pendCycle s.free c).endingCycle c }
  if t.now.runs c then t.issueCycle c else t

/-- Third part: the core serves the requests at its banks, and Blocked contexts that can go on become Ready. -/
noncomputable def State.serves (s : State) (c : Nat) : State :=
  let t : State := { s with now := s.now.serve s.free c }
  if t.now.runs c then t.wakeCycle c else t

/-- A part of the cycle of core c (log 15). -/
noncomputable def State.coreCycle (s : State) (part c : Nat) : State :=
  if !s.now.acts c then s
  else match part with
    | 0 => s.engines c
    | 1 => s.issues c
    | _ => s.serves c

/-- The tick advances once every core has had its cycle; before it joins take what has arrived and are released (spec/09 R271, R272)
and the takes of the cycle are decided (spec/13 R336); after it strict settings written in the cycle hold (spec/14 R354), and
Brosy answers the oldest request of its mailbox (spec/13 R327). -/
def Mach.nextTick (m : Mach) : Mach :=
  let m0 := m.joinsCycle.decideTakes []
  let m1 : Mach := { m0 with mod := { m0.mod with tick := m0.mod.tick + 1, dies := m0.mod.dies.map fun d => { d with strictOn := d.strict } } }
  match m1.mod.mail with
  | [] => m1
  | r :: _ => m1.mailAnswer (BitVec.ofNat 64 r.num) (m1.mod.monitorAnswer r.a r.b)

/-- The place of a core in a part of the cycle: by logical core index (spec/04 R129), then by physical core (log 15). -/
def coreKey (e : Nat × Core) : Nat := e.2.lcore * 1024 + e.1

/-- The first core whose place is not before n. -/
def Mod.coreFrom (m : Mod) (n : Nat) : Option (Nat × Core) :=
  (m.cores.filter fun e => decide (n ≤ coreKey e)).foldl (fun r e => match r with
    | none => some e
    | some b => if coreKey e < coreKey b then some e else some b) none

/-- The turn of a place in a part of the cycle. -/
def turnOf (part key : Nat) : Nat := part * 2 ^ 20 + key

/-- Between steps the issue stage is empty and nothing is being issued. -/
def State.rest (s : State) : State :=
  let m := s.now.unload
  { s with now := m, start := m, iss := Iss.idle, free := s.free + 1 }

/-- A part of the next core's cycle, the next part of the cycle, or the next tick. -/
noncomputable def State.advance (s : State) : State :=
  let part := s.turn / 2 ^ 20
  match s.now.mod.coreFrom (s.turn % 2 ^ 20) with
  | some e => State.rest { s.coreCycle part e.1 with turn := turnOf part (coreKey e + 1) }
  | none =>
    if part < 2 then State.rest { s with turn := turnOf (part + 1) 0 }
    else State.rest { s with now := s.now.nextTick, turn := 0 }

/-! ### A bundle to be fetched next (log 10) -/

/-- The kernel image of a launch made to run one bundle: one leg at offset 0. -/
def wordImage : Image := ⟨0, 4096, 0, 4096, [⟨0, 0, 0, 0⟩], Vector.replicate 32 0, []⟩

/-- Its record: one core, one context, 16 accumulators, 16 granules of scratchpad; object 1 holds the image. -/
def wordRecord (att : Bool) : LaunchRec :=
  { tag := 0, n := 1, att := att, pword := 0x00102001, hq := none, dl := false, pclass := 0, ring := 0
    image := BitVec.ofNat 128 (1 * 2 ^ 64 + 9 * 2 ^ 88 + 4096 * 2 ^ 96), arg := 0, acap := 0, deadline := 0, part := 0 }

/-- The entry of object 1: 4,096 bytes at the start of the die's memory, that users may load and execute. -/
def wordEntry (die : Nat) : Entry := BitVec.ofNat 256 (1 + 9 * 2 ^ 2 + 2 ^ 8 + 2 ^ 12 + 4096 * 2 ^ 32 + die * 2 ^ 80)

/-- The core that a word runs on: a compute core, or an attention core for an attention operation. -/
noncomputable def wordCore (w : Nat) : Nat :=
  match findWord (BitVec.ofNat 32 w) with
  | some (_, i) => if i.isAttention then 512 else 0
  | none => 0

/-- The slot that a word stands in. -/
noncomputable def wordSlot (w : Nat) : Slot :=
  match findWord (BitVec.ofNat 32 w) with
  | some (sl, _) => sl
  | none => .s0

/-- The machine about to issue, on one core, a bundle whose only operation is a word: a launch is on the core, its image is in
memory, and nothing else comes first. -/
noncomputable def State.placeWord (s : State) (w : Nat) : State :=
  let c := wordCore w
  let die := c / 64
  let id : W32 := BitVec.ofNat 32 (die + 16)
  let r := wordRecord (decide (8 ≤ die))
  let l : Launch := { Launch.none with record := r, img := wordImage, die := die, tier := 1, cores := [c] }
  let u := s.now.unload.mod
  let mem := Memory.fill u.mem (dieBase die) (leBytes 32 (bundleOfWord (wordSlot w) (BitVec.ofNat 32 w)).toNat)
  let m : Mod := { u with
    mem := mem
    poison := u.poison.filter (· ≠ dieBase die / 128)
    dom := { u.dom with lines := tdel (dieBase die / 512) u.dom.lines }
    entries := tset 1 (wordEntry die) u.entries
    rdy := BitVec.allOnes 30
    launches := tset id.toNat l u.launches }
  let mach : Mach := ⟨{ m with cores := tset c (m.entered id r wordImage 0 c) u.cores }, Core.idle, Ctx.idle, 0, 0⟩
  { s with now := mach, start := mach, iss := Iss.idle, agenda := [], turn := turnOf 1 c }

end Sys2Proof.Machine
end

