-- ==== Sys2Proof/Machine/Step.lean ====
section
/-! DEFINITION. The step of the machine: the next event of the agenda, or the next core's cycle; and a state in which a given
word is the next bundle (log 10). -/

namespace Sys2Proof.Machine

/-- An event of the agenda takes place. A slot operation is no event: only a bundle issues one, and it is left out. -/
def State.event1 (s : State) (i : Instr) : Host.Outcome State Fault Refusal :=
  match slotOf i with
  | some _ => .next s
  | none =>
    match exec i s with
    | .next t => .next t.rest
    | o => o

/-- One step (log 9, log 15): an event placed by another agent comes first; otherwise the next core has its cycle. -/
noncomputable def step (s : State) : Host.Outcome State Fault Refusal :=
  match s.agenda with
  | i :: rest => State.event1 { s with agenda := rest } i
  | [] => .next s.advance

/-- s with the word as the one operation of the next bundle (log 10). -/
noncomputable def State.withFetchWord (s : State) (nbits w : Nat) : State := s.placeWord (if nbits = 32 then w else 0)

end Sys2Proof.Machine
end

