-- ==== Sys2Proof/Safety.lean ====
section
/-! DEFINITION. The words in which claims about the machine are made: what an operation answers, what it writes, and what it
leaves alone. -/

namespace Sys2Proof.Machine

/-- What exec and step answer. -/
abbrev Answer := Host.Outcome State Fault Refusal

/-- A step goes on: it neither stops with a fault nor is refused. -/
def Runs (o : Answer) : Prop := ∃ t, o = .next t

/-! ### Registers -/

/-- What a register or latch of a bank holds, with zeros above its width. -/
def Bank.get (b : Bank) : WReg → VecReg
  | .s n => b.s[n].setWidth 2048
  | .a n => b.a[n].setWidth 2048
  | .v n => b.v[n]
  | .p n => b.p[n].setWidth 2048
  | .sh n => b.sh[n].setWidth 2048
  | .lat k => b.lat k
  | .link => b.link.setWidth 2048
  | .lrc => b.lrc.setWidth 2048

/-- What a register or latch of the issuing context holds. -/
def State.get (s : State) (r : WReg) : VecReg := s.now.ctx.bank.get r

/-- A register that exists: there are seven latches (spec/02 R45). -/
def WReg.real : WReg → Prop
  | .lat k => k < 7
  | _ => True

/-- What a bank holds besides the registers that results go to: status, promise, misses, loops, pc and task. -/
def Bank.rest (b : Bank) : Bank :=
  { Bank.zero with
    status := b.status, ptick := b.ptick, misses := b.misses, depth := b.depth, loops := b.loops, pc := b.pc
    target := b.target, delay := b.delay, task := b.task, xSeq := b.xSeq }

/-- t is s but for the registers, their open windows and their poison of the issuing context: the module, the core, every
other context, and everything else of this one are as in s. -/
def OnlyRegisters (s t : State) : Prop :=
  t = { s with now := { s.now with ctx := { s.now.ctx with
    bank := t.now.ctx.bank, windows := t.now.ctx.windows, poison := t.now.ctx.poison } } }

/-- Between s and t nothing has changed but the registers listed: no other register, window, status bit, special register or
pc of the context, and no byte of memory. -/
structure OnlyWrites (s t : State) (rs : List WReg) : Prop where
  outside : OnlyRegisters s t
  regs : ∀ r, r.real → r ∉ rs → t.get r = s.get r
  rest : t.now.ctx.bank.rest = s.now.ctx.bank.rest
  windows : ∀ r, r ∉ rs → ∀ k, s.tick ≤ k → t.now.ctx.open k r = s.now.ctx.open k r
  poison : ∀ r, r ∉ rs → (r ∈ t.now.ctx.poison ↔ r ∈ s.now.ctx.poison)
  memory : ∀ a, t.now.mod.byte a = s.now.mod.byte a

/-- A register written in s with bound l reads as Undefined() in t for the l − 1 ticks after the issue (spec/05 R146) and as long
as a window opened before it lasts; it no longer counts as never written. -/
def OpensFor (s t : State) (r : WReg) (l : Nat) : Prop :=
  ∀ k, s.tick ≤ k → (t.now.ctx.open k r = true ↔
    (1 < l ∧ k < s.tick + l) ∨ ∃ w ∈ s.now.ctx.windows, w.reg = r ∧ ∃ u, w.until' = some u ∧ k < u)

/-- The operation answers a next state in which the destination (none: the latch alone) and the low n bits of the slot's latch
hold v, and nothing else has changed; a write of p0 is ignored, and p0 stays readable as it was (spec/02 R69). -/
def Gives (s : State) (o : Answer) (slot l n : Nat) (d : Option WReg) (v : VecReg) : Prop :=
  ∃ t, o = .next t ∧ OnlyWrites s t (.lat slot :: d.toList) ∧
    (∀ r ∈ d, r ≠ .p 0 → t.get r = v) ∧
    (d = some (.p 0) → t.get (.p 0) = s.get (.p 0) ∧ ∀ k, s.tick ≤ k → t.now.ctx.open k (.p 0) = s.now.ctx.open k (.p 0)) ∧
    (n ≤ latWidth slot → ∀ i, i < n → (t.get (.lat slot)).getLsbD i = v.getLsbD i) ∧
    ∀ r ∈ WReg.lat slot :: d.toList, r ≠ .p 0 → OpensFor s t r l ∧ r ∉ t.now.ctx.poison

/-- Results by class of the destination. -/
def GivesS (s : State) (o : Answer) (slot l : Nat) (d : Option (Fin 64)) (v : W64) : Prop :=
  Gives s o slot l 64 (d.map .s) (v.setWidth 2048)
def GivesA (s : State) (o : Answer) (slot l : Nat) (d : Option (Fin 16)) (v : Cap) : Prop :=
  Gives s o slot l 128 (d.map .a) (v.setWidth 2048)
def GivesV (s : State) (o : Answer) (slot l : Nat) (d : Option (Fin 32)) (v : VecReg) : Prop :=
  Gives s o slot l 2048 (d.map .v) v
def GivesP (s : State) (o : Answer) (slot l : Nat) (d : Option (Fin 24)) (v : Pred) : Prop :=
  Gives s o slot l 128 (d.map .p) (v.setWidth 2048)
def GivesSh (s : State) (o : Answer) (slot l : Nat) (d : Option (Fin 16)) (v : Shape) : Prop :=
  Gives s o slot l 512 (d.map .sh) (v.setWidth 2048)

/-- m is s but for the issuing context's view of memory: a load settles a racing byte in it, and its bytes are in the L1 data cache
(spec/04 R105). -/
def OnlySnapshot (s m : State) : Prop :=
  m = { s with now := { s.now with ctx := { s.now.ctx with snap := m.now.ctx.snap, seen := m.now.ctx.seen, l1 := m.now.ctx.l1 } } }

/-- In t the n bytes `data` stand among the issuing context's unpublished stores at offsets off to off + n − 1 of object obj, not yet
sent; a poisoned sector is clean only when all its 128 bytes are stored (spec/15 R384); every other unpublished store, and
everything else, memory included, is as in s. -/
structure StoredBuffered (s t : State) (obj off n : Nat) (data : Nat → Byte) : Prop where
  outside : t = { s with now := { s.now with ctx := { s.now.ctx with
    unpub := t.now.ctx.unpub, unpubPoison := t.now.ctx.unpubPoison, out := t.now.ctx.out } } }
  stored : ∀ i, i < n → tfind (cellKey obj (off + i)) t.now.ctx.unpub = some (data i)
  poison : ∀ k, k ∈ t.now.ctx.unpubPoison ↔
    k ∈ s.now.ctx.unpubPoison ∧ ((upTo n).filter fun i => cellKey obj (off + i) / 128 = k / 128).length < 128
  others : ∀ k, (∀ i, i < n → k ≠ cellKey obj (off + i)) → tfind k t.now.ctx.unpub = tfind k s.now.ctx.unpub
  memory : ∀ a, t.now.mod.byte a = s.now.mod.byte a

/-- In t the n bytes `data` stand at off in the issuing core's scratchpad bank; the lines they lie in are full when `fill`; every
other byte and line, and everything else, memory included, is as in s. -/
structure ScratchWritten (s t : State) (off n : Nat) (data : Nat → Byte) (fill : Bool) : Prop where
  outside : t = { s with now := { s.now with core := { s.now.core with
    sp := t.now.core.sp, spPoison := t.now.core.spPoison, full := t.now.core.full } } }
  stored : ∀ i, i < n → tfind (off + i) t.now.core.sp = some (data i)
  others : ∀ k, (k < off ∨ off + n ≤ k) → tfind k t.now.core.sp = tfind k s.now.core.sp
  full : ∀ l, l ∈ t.now.core.full ↔ l ∈ s.now.core.full ∨ (fill = true ∧ l ∈ linesOf off n)
  memory : ∀ a, t.now.mod.byte a = s.now.mod.byte a

/-- Nothing of the issuing context waits to be published: it has no unpublished store, no scratchpad write on its way to another
core, and nothing that its next bundle waits for (spec/04 R109). -/
def Published (s : State) : Prop := s.now.ctx.unpub = [] ∧ s.now.remoteQuiet = true ∧ s.now.ctx.pending = []

/-- No earlier slot of the bundle has changed memory, and the context has nothing to publish at its start either: what a strong load
reads there is what its home holds now (spec/05 R143). -/
def AtStart (s : State) : Prop := s.start.mod = s.now.mod ∧ s.start.self = s.now.self ∧ s.start.ctx.unpub = []

/-- Record r has joined a queue in order: behind all that it held, but for pushes of this very cycle by parties that come later than
rank (spec/04 R129, spec/01 R28). -/
def Appended (w w' : WorkQueue) (tick rank : Nat) (r : Rec) : Prop :=
  ∃ l l', w.recs = l ++ l' ∧ w'.recs = l ++ r :: l' ∧ (w.freshTick ≠ tick ∨ (∀ k ∈ w.freshRanks, k ≤ rank) → l' = [])

/-- The n bytes at addr as the issuing context finds them at their home, through a domain-protected object or another (none). -/
def State.homeWord (s : State) (dp : Option Nat) (addr n : Nat) : Nat := (s.now.mod.homeOp (some s.now.self) dp addr n .ld 0 0).2

/-- A strong access at a word of this module's memory has taken place in t (spec/04 R112, R129, spec/06 R176, R177): the n bytes
at addr hold the operation's result and every other byte of memory is as in s; an operation other than a store gives the old
word to the destination and the slot's latch, with bound 128; an acquire has refreshed the view of memory at the scope; no other
register has changed, nor has the core, and an atomic has set the effect bit of a held task. -/
structure StrongDone (s t : State) (slot : Nat) (d : Option (Fin 64)) (op : HomeOp) (n addr : Nat) (dp : Option Nat) (v v2 : W64)
    (sg acq : Bool) (sc : Scope) : Prop where
  word : op ≠ .ld → t.now.mod.word addr n = homeNew op n (s.homeWord dp addr n) v.toNat v2.toNat
  load : op = .ld → t.now.mod.word addr n = s.now.mod.word addr n
  memory : ∀ a, ¬(addr ≤ a ∧ a < addr + n) → t.now.mod.byte a = s.now.mod.byte a
  value : op ≠ .st → ∀ r ∈ d, t.get (.s r) = (if sg then BitVec.ofInt 64 (sgn (8 * n) (s.homeWord dp addr n))
    else BitVec.ofNat 64 (s.homeWord dp addr n) : W64).setWidth 2048
  bound : op ≠ .st → ∀ r ∈ d, OpensFor s t (.s r) 128
  regs : ∀ r, r.real → (op = .st ∨ r ∉ WReg.lat slot :: (d.map WReg.s).toList) → t.get r = s.get r
  rest : t.now.ctx.bank.rest = (if op = .ld ∨ op = .st then s.now.ctx else s.now.ctx.setEffect).bank.rest
  acquired : acq = true → t.now.ctx.l1 = [] ∧ t.now.ctx.rcache = [] ∧
    ∃ k : Ctx, t.now.ctx.snap = (k.refreshed t.now.mod t.now.self sc).snap ∧ t.now.ctx.seen = (k.refreshed t.now.mod t.now.self sc).seen
  core : t.now.core = s.now.core ∧ t.now.cid = s.now.cid ∧ t.now.xid = s.now.xid
  others : t.now.mod.cores = s.now.mod.cores ∧ t.now.mod.launches = s.now.mod.launches ∧ t.now.mod.dies = s.now.mod.dies
  stage : t.start = s.start ∧ t.iss = s.iss ∧ t.agenda = s.agenda ∧ t.turn = s.turn ∧ t.free = s.free

/-- Every byte of memory reads as before. -/
def SameMemory (s t : State) : Prop := ∀ a, t.now.mod.byte a = s.now.mod.byte a

/-- The operation gives the number n to its destination and its slot's latch with bound l, and no other register but lrc has changed; of
the special registers only the effect bit, and the count of X results, may differ. -/
structure CountGiven (s t : State) (slot l : Nat) (d : Option (Fin 64)) (n : Nat) : Prop where
  value : ∀ r ∈ d, t.get (.s r) = (BitVec.ofNat 64 n).setWidth 2048
  latch : (t.get (.lat slot)).setWidth 64 = BitVec.ofNat 64 n
  regs : ∀ r, r.real → r ≠ .lrc → r ∉ WReg.lat slot :: (d.map WReg.s).toList → t.get r = s.get r
  bound : ∀ r ∈ WReg.lat slot :: (d.map WReg.s).toList, OpensFor s t r l ∧ r ∉ t.now.ctx.poison
  rest : t.now.ctx.bank.rest = { s.now.ctx.bank.rest with xSeq := t.now.ctx.bank.xSeq, status := t.now.ctx.bank.status }
  status : t.now.ctx.bank.status = s.now.ctx.bank.status ∨ t.now.ctx.bank.status = s.now.ctx.setEffect.bank.status

/-- What the issuing launch owns of the logical cluster after the earlier slots of the bundle. -/
def State.clusterNow (s : State) : Cluster := tget Cluster.fresh s.lcluster (s.now.mod.launch s.launchId).clusters

/-- Of a cluster only rows have changed. -/
def OnlyRows (c c' : Cluster) : Prop := c' = { c with rows := c'.rows }

/-- The line moves of slices, by place × 2^15 + line: from a source line, or zeros (spec/07 R217). -/
def sliceMoves (place : Nat) (sl : List Slice) : List (Nat × Option Nat) :=
  sl.flatMap fun x => (upTo x.k).map fun l =>
    (spKeyOf place x.dst / 128 + l, x.src.bind fun a => if l < x.from' then some (spKeyOf place a / 128 + l) else none)

/-- One more engine operation stands in the window, which copies the lines of the slices; nothing of it is done yet. -/
def PacksLines (s t : State) (major fn : Nat) (sl : List Slice) : Prop :=
  ∃ o : EngOp, t.now.ctx.engine = s.now.ctx.engine ++ [o] ∧ o.cmd = s.now.ctx.cmd ∧ o.major = major ∧ o.fn = fn ∧ o.at' = 0 ∧
    o.body = .lines ((sl.head?.map (·.k)).getD 1) (sliceMoves s.place sl)

/-- The operation has entered the matrix engine behind those it holds, with its sources as read at issue, none of its steps done; its
result is due by the bound, and lat.m is open until then when it has one. Nothing else has changed. -/
structure EntersEngine (s t : State) (acc bound : Nat) (lands : Bool) (body : MeBody) : Prop where
  outside : t = { s with now := { s.now with
    core := { s.now.core with meq := t.now.core.meq, meSeq := s.now.core.meSeq + 1 }
    ctx := { s.now.ctx with windows := t.now.ctx.windows, poison := t.now.ctx.poison } } }
  queue : ∃ op : MeOp, t.now.core.meq = s.now.core.meq ++ [op] ∧ op.ctx = s.now.xid ∧ op.acc = acc ∧ op.body = body ∧ op.step = 0 ∧
    op.due = s.tick + bound ∧ op.lands = lands ∧ op.sv = s.sv ∧ op.pc = s.src.pc ∧ op.seq = s.now.core.meSeq
  open' : lands = true → OpensFor s t (.lat 4) bound
  closed : lands = false → t.now.ctx.windows = s.now.ctx.windows
  others : ∀ r, r ≠ .lat 4 → (∀ k, s.tick ≤ k → t.now.ctx.open k r = s.now.ctx.open k r) ∧ (r ∈ t.now.ctx.poison ↔ r ∈ s.now.ctx.poison)

/-- What an mma form does when every check of R230 passes, from a shape or from two registers of rows: with an empty walk only its
result is to come; else it has entered the engine with the operand vectors of every step, and its shapes have advanced by its steps. -/
def MmaIssues (s : State) (o : Answer) (ty : MmaTy) (form : Nat) (acc sh : Fin 16) (a b : Src) : Prop :=
  ∀ (hb : Shape) (ha : Option Shape) (n : Nat) (cap : Cap) (steps : List (List MmaVec × List MmaVec)),
    mmaOk sh a b (ty = .f4x) = true → s.start.core.meq = [] → s.accOk acc.val = true →
    s.shape 4 0 (.sh sh) = .ok hb → ((∃ k h, a = .sh k ∧ ha = some h ∧ s.shape 4 1 a = .ok h) ∨ (∀ k, a ≠ .sh k) ∧ ha = none) →
    shapeOk hb = true → bShapeOk hb = true → (∀ h ∈ ha, shapeOk h = true ∧ aShapeOk h = true ∧ shSpace h = 1) → n = max 1 s.iss.rep →
    shSpace hb = (if form = 2 then 0 else 1) → (if form = 2 then s.capReg 4 2 (fld (shAux1 hb) 4 4) = .ok cap else cap = 0) →
    s.mmaSteps ty form hb ha cap a b n = .ok steps →
    (shapeEmpty hb = true ∨ (∃ h ∈ ha, shapeEmpty h = true) →
      ∃ t lat, o = .next t ∧ EntersEngine s t acc.val (mmaBound form n) true (.mma ty (fld (shAux1 hb) 0 2) 0 [] lat) ∧ lat.setWidth 512 = hb) ∧
    (shapeEmpty hb = false → (∀ h ∈ ha, shapeEmpty h = false) → s.lineWait 4 (s.mmaNear steps) = .ok () →
      ∃ t op lat, o = .next t ∧ t.now.core.meq = s.now.core.meq ++ [op] ∧ op.ctx = s.now.xid ∧ op.acc = acc.val ∧ op.step = 0 ∧
        op.lands = true ∧ op.due = s.tick + mmaBound form n ∧ op.body = .mma ty (fld (shAux1 hb) 0 2) cap steps lat ∧
        lat.setWidth 512 = shapeSteps n hb ∧ OpensFor s t (.lat 4) (mmaBound form n) ∧
        (a ≠ .sh sh → t.get (.sh sh) = (shapeSteps n hb).setWidth 2048) ∧
        (∀ k h, a = .sh k → ha = some h → t.get (.sh k) = (shapeSteps n h).setWidth 2048) ∧
        (∀ r, r.real → r ≠ .sh sh → (∀ k, a = .sh k → r ≠ .sh k) → t.get r = s.get r) ∧ t.now.ctx.bank.rest = s.now.ctx.bank.rest ∧
        (form ≠ 2 → ∀ x, t.now.mod.byte x = s.now.mod.byte x))

/-- One more engine operation stands in the window, of which nothing is done yet. -/
structure EntersWindow (s t : State) (o : EngOp) (major fn : Nat) (body : EngBody) : Prop where
  engine : t.now.ctx.engine = s.now.ctx.engine ++ [o]
  cmd : o.cmd = s.now.ctx.cmd ∧ t.now.ctx.cmd = (s.now.ctx.cmd + 1) % 2 ^ 32
  form : o.major = major ∧ o.fn = fn ∧ o.body = body ∧ o.at' = 0 ∧ o.sv = s.sv ∧ o.missed = false
  core : t.now.cid = s.now.cid ∧ t.now.xid = s.now.xid ∧ t.now.core.accs = s.now.core.accs ∧ t.now.core.queues = s.now.core.queues ∧
    t.now.core.sp = s.now.core.sp
  unread : s.now.ctx.unpub = [] → SameMemory s t

/-- The operation's promised tick is given to its destination, to lat.x and to ptick (spec/02 R72); no other register has changed. -/
structure Promised (s t : State) (d : Option (Fin 64)) (p : Nat) : Prop where
  value : ∀ r ∈ d, t.get (.s r) = (BitVec.ofNat 64 p).setWidth 2048
  latch : (t.get (.lat 5)).setWidth 64 = BitVec.ofNat 64 p
  ptick : t.now.ctx.bank.ptick = BitVec.ofNat 64 p
  regs : ∀ r, r.real → r ∉ WReg.lat 5 :: (d.map WReg.s).toList → t.get r = s.get r
  bound : ∀ r ∈ WReg.lat 5 :: (d.map WReg.s).toList, OpensFor s t r 2 ∧ r ∉ t.now.ctx.poison
  rest : t.now.ctx.bank.rest = { s.now.ctx.bank.rest with
    xSeq := s.now.ctx.bank.xSeq + 1, ptick := BitVec.ofNat 64 p, status := t.now.ctx.bank.status }
  status : t.now.ctx.bank.status = s.now.ctx.bank.status ∨ t.now.ctx.bank.status = s.now.ctx.setEffect.bank.status

/-- What a transfer does that passes every check of spec/09 R256: it stands in the window, its destination lines are empty, and its
promised tick follows spec/17 R432 from the bytes it moves and the rates of its sides. -/
def TransferIssues (s : State) (o : Answer) (major fn : Nat) (d : Option (Fin 64)) (sa sb : Side) : Prop :=
  ∀ (a b : Side) (w run : Nat), s.now.ctx.engine.length < 16 → s.transfer sa sb = .ok (a, b, w, run) →
    ∃ t op p, o = .next t ∧ EntersWindow s t op major fn
        (.move a b w run ((shAux0 a.shape).getLsbD 4 && shSpace a.shape = 1) none (tagOf b.shape)) ∧
      op.ptick = some p ∧ Promised s t d p ∧
      (∀ l ∈ lineSet (b.from s.place s.spBank w run 0), t.now.lineFull s.now.cid l = false) ∧
      ∀ ra rb, s.sideRate a = some ra → s.sideRate b = some rb →
        p = s.tick + 24 + ceilDiv (s.queuedBytes + ((upTo b.positions).map (b.bytes w run)).sum) (min (min 256 ra.2) rb.2) + max ra.1 rb.1

/-- What a remote atomic does whose operands are readable, whose word lies within its capability and is aligned (spec/09 R266): it stands
in the window, and one more acknowledgement is outstanding, whose number goes to lat.x alone. -/
def RemoteAtomicIssues (s : State) (o : Answer) (fn : Nat) (op : HomeOp) (r : Fin 64) (a b : Src) : Prop :=
  ∀ (cap : Cap) (x v : W64), s.now.ctx.engine.length < 16 → a.capOk = true → b.scalarOk = true → s.cap 5 0 a = .ok cap →
    s.scalar 5 1 b = .ok x → s.dataS 5 2 r = .ok v → checkCap cap x.toInt 8 rAt = none →
    lowBits 64 ((capOffset cap : Int) + x.toInt) % 8 = 0 →
    ∃ t e, o = .next t ∧ EntersWindow s t e 6 fn (.ratom op cap x.toInt v) ∧
      e.serial = some (s.now.ctx.serial (s.now.mod.moduleOf (capObject cap))) ∧
      t.now.ctx.acks = s.now.ctx.acks ++ [s.now.ctx.serial (s.now.mod.moduleOf (capObject cap))] ∧
      CountGiven s t 5 2 none t.now.ctx.acks.length ∧ t.get .lrc = s.get .lrc

/-- A handle names a live sequence of the caller's partition, at the start of the bundle and now. -/
def LiveHere (s : State) (h : W64) (e : Seq) : Prop :=
  fld h 36 28 = 0 ∧ (s.start.mod.kvLive s.part h).isSome ∧ s.now.mod.kvLive s.part h = some e ∧ s.part < 8

/-- Of the sequence tables only entry i of the partition's has changed, to e; where the manager's table has a place in memory, the entry
stands there as Table 09-11 lays it out, and no other byte of memory has changed (spec/09 R277). -/
structure EntryBecomes (s t : State) (die part i : Nat) (e : Seq) : Prop where
  entry : (t.now.mod.kvSlice die part).seq i = e
  others : ∀ j, j ≠ i → (t.now.mod.kvSlice die part).seq j = (s.now.mod.kvSlice die part).seq j
  parts : ∀ p, p ≠ part → t.now.mod.kvSlice die p = s.now.mod.kvSlice die p
  unplaced : (s.now.mod.kv die).table = none → SameMemory s t
  placed : ∀ a, (s.now.mod.kv die).table = some a → t.now.mod.word (a + (part * 65536 + i) * 128) 128 = e.layout.toNat ∧
    ∀ x, x < a + (part * 65536 + i) * 128 ∨ a + (part * 65536 + i) * 128 + 128 ≤ x → t.now.mod.byte x = s.now.mod.byte x

/-- A form of the key-value manager fails with a code: bit 63 of its result is set, and no entry and no byte of memory changes
(spec/09 R279). -/
def KvFails (s : State) (o : Answer) (d : Option (Fin 64)) (die code : Nat) : Prop :=
  ∃ t, o = .next t ∧ CountGiven s t 5 16 d (2 ^ 63 + code) ∧ SameMemory s t ∧
    ∀ p, (t.now.mod.kvSlice die p).seqs = (s.now.mod.kvSlice die p).seqs

/-- An X result of 2048 bits has landed in its destination and in lat.x with bound 32, and no other register has changed; the rest of
the bank is as in s but for the count of X results and what a delivery writes (spec/06 R189). -/
structure XResult (s t : State) (d : Option (Fin 32)) (v : VecReg) : Prop where
  latch : t.get (.lat 5) = v
  value : ∀ k ∈ d, t.get (.v k) = v
  bound : ∀ r ∈ WReg.lat 5 :: (d.map WReg.v).toList, OpensFor s t r 32 ∧ r ∉ t.now.ctx.poison
  regs : ∀ r, r.real → r ∉ WReg.lat 5 :: (d.map WReg.v).toList → t.get r = s.get r
  rest : t.now.ctx.bank.rest = { s.now.ctx.bank.rest with
    xSeq := s.now.ctx.bank.xSeq + 1, status := t.now.ctx.bank.status, task := t.now.ctx.bank.task }
  memory : SameMemory s t

/-- ahsel's n entries stand at a scratchpad key, 16 bytes each: deadline, cost and id; their lines are full (spec/09 R293). -/
def EntriesAt (s t : State) (key : Nat) (out : List HeapEntry) : Prop :=
  ∀ (i k : Nat) (e : HeapEntry), out[i]? = some e → k < 16 → t.now.lineFull s.now.cid ((key + 16 * i) / 128) = true ∧
    t.now.spByteAt 0 s.now.cid (key + 16 * i + k) = BitVec.ofNat 8 ((e.deadline + e.cost * 2 ^ 48 + e.id.toNat * 2 ^ 64) / 256 ^ k)

/-- The operation's result is still to come: its destination and the slot's latch wait for the answer to the context's next request
number; no register has changed and no other is open (spec/05 R147). -/
structure AwaitsAnswer (s t : State) (slot l : Nat) (d : Option (Fin 64)) : Prop where
  bank : t.now.ctx.bank = s.now.ctx.bank
  waits : ∀ r ∈ WReg.lat slot :: (d.map WReg.s).toList, ⟨r, some (s.tick + l), some s.now.ctx.reqNext⟩ ∈ t.now.ctx.windows ∧ r ∉ t.now.ctx.poison
  others : ∀ r, r ∉ WReg.lat slot :: (d.map WReg.s).toList → ∀ k, s.tick ≤ k → t.now.ctx.open k r = s.now.ctx.open k r
  fresh : t.now.ctx.reqNext = s.now.ctx.reqNext + 1

/-- The operation cannot issue: its bundle is held, and nothing has changed (spec/01 R18). -/
def Holds (s : State) (o : Answer) : Prop := ∃ t, o = .next t ∧ t.now = s.now ∧ t.iss.held = true

/-- A decision of a die's scheduler has read its page: a field that breaks its range has set bad, and no byte of memory has changed unless
the die has reported that (spec/14 R340). -/
def PageJudged (s t : State) (die : Nat) : Prop :=
  (s.now.mod.pageBad die = false ∨ (s.now.mod.die die).bad = true → SameMemory s t) ∧
  (s.now.mod.pageBad die = true → die < 10 → (t.now.mod.die die).bad = true)

/-- A core holds a launch from its entry: every context of the image's legs stands ready at its entry with the registers of spec/01 R15,
and sees of memory what has reached its home. -/
def EnteredCore (m : Mod) (id : W32) (r : LaunchRec) (i : Image) (lcore c : Nat) : Prop :=
  ∃ k, tfind c m.cores = some k ∧ k = { entryCore id r i lcore m.mem with ctxs := k.ctxs } ∧ k.ctxs.length = i.legs.length ∧
    ∀ x y, k.ctxs[x]? = some y → ∃ leg, i.legs[x]? = some leg ∧
      y = { entryCtx r leg lcore x m.mem with snap := y.snap, seen := y.seen } ∧
      ∀ a, Memory.read y.snap a = m.shown (some (m.source c k x)) a

/-- A launch whose park has been asked for by a source: it drains, or waits for a supervisor bank (spec/14 R355). -/
def ParkAsked (t : State) (id : Nat) (src : ParkSource) : Prop :=
  ∃ l, tfind id t.now.mod.launches = some l ∧ l.source = src ∧
    ((l.state = .draining ∧ l.parkTick = t.now.mod.tick) ∨ (l.asked = true ∧ l.state = .running ∧ ∃ e ∈ t.now.launchCores (BitVec.ofNat 32 id), e.2.svHolder ≠ none))

/-- A packet of the operation, on one of the channels, is for this module and is accepted, which leaves the module m (spec/16 R399,
R406, R407). -/
def Arrives (s : State) (p : Packet) (op : BitVec 5) (vcs : List (BitVec 2)) (m : Mod) : Prop :=
  p.dst = s.now.mod.addr ∧ p.op = op ∧ p.vc ∈ vcs ∧ p.payload.length = p.len.toNat ∧ s.now.mod.receive p = .accepted m

/-- A logical core of a launch of this module that is on a core: its launch and physical core. -/
def OnMember (m : Mod) (c : Nat) (l : Launch) (pc : Nat) : Prop :=
  tfind (c / 512) m.launches = some l ∧ l.images = [] ∧ l.cores[c % 512]? = some pc

/-- The module has answered a source over VC1 with a packet as described: it has left, or waits while the channel has no number left
(spec/16 R399, R406). -/
def Replied (m m' : Mod) (src : BitVec 13) (q : Packet → Prop) : Prop :=
  ∃ p, p.dst = src ∧ p.vc = 1 ∧ q p ∧
    if (m.dom.number src 1).1 < lastNumber then p ∈ m'.dom.sent.drop m.dom.sent.length else p ∈ m'.dom.queued

/-- The module has acknowledged a packet with a code, an offset and a payload (log 19). -/
def Acknowledged (m m' : Mod) (src : BitVec 13) (kind off : Nat) (payload : List (BitVec 128)) : Prop :=
  Replied m m' src fun q => q.op = opAck ∧ q.obj = BitVec.ofNat 24 kind ∧ q.off = BitVec.ofNat 39 off ∧ q.payload = payload

/-- Nothing of a module is awaited any more (spec/16 R408): no acknowledgement, no answer, no flag of its stores. -/
def CutOff (t : State) (peer : BitVec 13) : Prop :=
  (∀ core ctx, ∀ n ∈ (t.now.ctxAt core ctx).acks, serialModule n ≠ peer) ∧ (∀ w ∈ t.now.mod.flags, w.src ≠ peer) ∧
  tget 0 peer.toNat t.now.mod.dom.opens = 0

/-- This module holds another as fenced (spec/16 R414): accesses to it meet sub-code 2. -/
def PeerFenced (t : State) (peer : BitVec 13) : Prop :=
  peer ∈ t.now.mod.dom.fence ∧ peer ∉ t.now.mod.dom.members ∧ (t.now.mod.rdy.getLsbD 29 = true → t.now.mod.domainFault peer = some 2) ∧ CutOff t peer

/-- A management message has left for a module (spec/16 R399; log 19). -/
def Told (s t : State) (dst : BitVec 13) (code arg : Nat) : Prop :=
  ∃ q ∈ t.now.mod.dom.sent.drop s.now.mod.dom.sent.length, q.dst = dst ∧ q.vc = 3 ∧ q.op = opManage ∧ q.payload.headD 0 = BitVec.ofNat 128 (code + arg * 2 ^ 8)

/-- The leader has fenced a module: the other members are told, and a rekey without it starts unless a member holds more than one
older epoch (spec/16 R411, R412, R414). -/
def LeaderFenced (s t : State) (peer : BitVec 13) : Prop :=
  PeerFenced t peer ∧ (∀ p ∈ s.now.mod.dom.members, p ≠ peer → p ≠ s.now.mod.addr → Told s t p mgFence peer.toNat) ∧
  (s.now.mod.dom.older ≤ 1 → (∀ p ∈ s.now.mod.dom.members, tget 0 p.toNat s.now.mod.dom.olders ≤ 1) →
    t.now.mod.dom.rekey = .draining ∧ t.now.mod.dom.newKeys = some (Config.freshKeys s.free) ∧ peer ∉ t.now.mod.dom.party)

/-- This module has learned that it is fenced (spec/16 R414). -/
def SelfFenced (s t : State) : Prop :=
  t.now.mod.dom.state = .fenced ∧ t.now.mod.dom.keys = [] ∧ t.now.mod.dom.newKeys = none ∧ (∀ q, t.now.mod.domainFault q = some 3) ∧
  ∀ l ∈ s.now.mod.dom.lines, ∀ a, a / 512 = l.1 → t.now.mod.poisoned true a = true

/-- The management window of a port holds a request with these words, or none that waits for Brosy (spec/16 R393). -/
def Asked (s : State) (port : Nat) (words : List Nat) : Prop := (vat Mgmt.reset s.now.mod.mgmt port).holds words = true

/-- Brosy has answered a port's request: busy and go are clear. -/
def Answered (t : State) (port : Nat) (a : W64) : Prop :=
  (vat Mgmt.reset t.now.mod.mgmt port).answer = a ∧ (vat Mgmt.reset t.now.mod.mgmt port).busy = false ∧
  (vat 0 (vat Mgmt.reset t.now.mod.mgmt port).words 0).getLsbD 63 = false

/-- A register write by a port, by a supervisor for the partition of its die, or by the monitor is allowed and leaves the module m1
(spec/13 R321). -/
def Accepts (m : Mod) (who : Claimant) (num : Nat) (v : W64) (m1 : Mod) : Prop :=
  match who with
  | .port _ => m.writeReg who 0 num v = .ok m1
  | .supervisor die _ => m.writeReg who (fld (m.die die).dpart 0 3) num v = .ok m1
  | .monitor => m.writeReg who 0 num v = .ok m1

/-- The module after a claimant's write that is allowed, or refused: a port's refusal sets its sticky bit (spec/13 R321). -/
def Written (m : Mod) (who : Claimant) (num : Nat) (v : W64) (m1 : Mod) : Prop :=
  Accepts m who num v m1 ∨
  ((∀ m2, ¬Accepts m who num v m2) ∧ m1 = match who with | .port p => { m with werr := vmod m.werr p fun _ => true } | _ => m)

/-- Bytes that cells leave in memory: the last cell of an address counts. -/
def Overwritten (m : Mod) (cells : List Host.Cell) (a : Nat) : Byte := (cells.reverse.lookup a).getD (m.byte a)

/-- A module reset (spec/17 R420, R421): every register and every part of the machine is as after reset, but for the contents of
memory with their poison, what lies encrypted there, which reads as poisoned, the count of resets and the management windows. -/
def HasReset (s t : State) : Prop :=
  t.now = { Mach.reset with mod := { Mod.reset with
    mem := t.now.mod.mem, poison := t.now.mod.poison, resets := s.now.mod.resets + 1, mgmt := t.now.mod.mgmt
    dom := { Domain.reset with lines := t.now.mod.dom.lines } } } ∧
  ∀ l ∈ t.now.mod.dom.lines, ∀ a, a / 512 = l.1 → t.now.mod.poisoned false a = true

/-- Nothing is under issue: the issue stage is empty, and the bundle that it would hold is none. -/
def State.AtRest (s : State) : Prop :=
  s.now.core = Core.idle ∧ s.now.ctx = Ctx.idle ∧ s.now.cid = 0 ∧ s.now.xid = 0 ∧ s.start = s.now ∧ s.iss = Iss.idle

end Sys2Proof.Machine
end

