-- ==== Sys2Proof/Certificates/Slice0/Obligations.lean ====
section
/-! DEFINITION. The statements for the provers, in the order of OBLIGATIONS.json. -/

open Sys2Proof Sys2Proof.Machine

/-- Scalar adds, subtracts, minima, maxima and saturating adds give the exact result cut to the register. Whenever both sources
can be read, each of the fourteen operations of majors 0x01 and 0x02 answers a next state in which the destination and the
latch of the slot hold the result of Table 06-1 (the 32-bit forms work on the low halves and extend the result by their type),
p0, every other register, status, the pc, memory and the rest of the machine are unchanged, and the registers written are open
for no tick (bound 1). (spec/06 R163; spec/06 R164; spec/05 R146) -/
def Obligations.ScalarSumsAndExtremaComplete : Prop :=
  ∀ (s : State) (u : SU) (d : Option (Fin 64)) (a b : Src) (x y : W64), a.scalarOk = true → b.scalarOk = true →
    s.scalar (slotS u) 0 a = .ok x → s.scalar (slotS u) 1 b = .ok y →
    GivesS s (exec (.addI64 u d a b) s) (slotS u) 1 d (BitVec.ofInt 64 (x.toInt + y.toInt)) ∧
    GivesS s (exec (.subI64 u d a b) s) (slotS u) 1 d (BitVec.ofInt 64 (x.toInt - y.toInt)) ∧
    GivesS s (exec (.minI64 u d a b) s) (slotS u) 1 d (if x.toInt ≤ y.toInt then x else y) ∧
    GivesS s (exec (.maxI64 u d a b) s) (slotS u) 1 d (if x.toInt ≤ y.toInt then y else x) ∧
    GivesS s (exec (.addsI64 u d a b) s) (slotS u) 1 d (BitVec.ofInt 64 (max (-2 ^ 63) (min (2 ^ 63 - 1) (x.toInt + y.toInt)))) ∧
    GivesS s (exec (.minZ64 u d a b) s) (slotS u) 1 d (if x.toNat ≤ y.toNat then x else y) ∧
    GivesS s (exec (.maxZ64 u d a b) s) (slotS u) 1 d (if x.toNat ≤ y.toNat then y else x) ∧
    GivesS s (exec (.addI32 u d a b) s) (slotS u) 1 d ((BitVec.ofInt 32 ((x.setWidth 32 : W32).toInt + (y.setWidth 32 : W32).toInt)).signExtend 64) ∧
    GivesS s (exec (.subI32 u d a b) s) (slotS u) 1 d ((BitVec.ofInt 32 ((x.setWidth 32 : W32).toInt - (y.setWidth 32 : W32).toInt)).signExtend 64) ∧
    GivesS s (exec (.minI32 u d a b) s) (slotS u) 1 d (BitVec.ofInt 64 (min (x.setWidth 32 : W32).toInt (y.setWidth 32 : W32).toInt)) ∧
    GivesS s (exec (.maxI32 u d a b) s) (slotS u) 1 d (BitVec.ofInt 64 (max (x.setWidth 32 : W32).toInt (y.setWidth 32 : W32).toInt)) ∧
    GivesS s (exec (.addsI32 u d a b) s) (slotS u) 1 d (BitVec.ofInt 64 (max (-2 ^ 31) (min (2 ^ 31 - 1) ((x.setWidth 32 : W32).toInt + (y.setWidth 32 : W32).toInt)))) ∧
    GivesS s (exec (.minZ32 u d a b) s) (slotS u) 1 d (BitVec.ofNat 64 (min (x.setWidth 32 : W32).toNat (y.setWidth 32 : W32).toNat)) ∧
    GivesS s (exec (.maxZ32 u d a b) s) (slotS u) 1 d (BitVec.ofNat 64 (max (x.setWidth 32 : W32).toNat (y.setWidth 32 : W32).toNat))

/-- Scalar logic, shifts, immediates and bit counts give their result to the destination and the latch. Whenever the sources can
be read, and, or, xor, andn, orn, not, shl, shr and sar answer a next state in which the destination and the latch hold the
result of Table 06-2: a shift count is the whole unsigned source, so a large count gives 0 (shl, shr) or copies of the sign
(sar). Nothing else changes. li needs no source; lis, addi and andi read their destination; mov, clz, ctz, popc read a; sext
and zext also b, of which the low six bits name the width, 0 meaning 64. Each answers a next state whose destination and latch
hold the result; nothing else changes. (spec/06 R163; spec/06 R164; spec/06 Table 06-3) -/
def Obligations.ScalarLogicShiftsImmediatesAndCountsComplete : Prop :=
  (∀ (s : State) (u : SU) (d : Option (Fin 64)) (a b : Src) (x y : W64), a.scalarOk = true → b.scalarOk = true →
    s.scalar (slotS u) 0 a = .ok x → s.scalar (slotS u) 1 b = .ok y →
    GivesS s (exec (.and u d a b) s) (slotS u) 1 d (x &&& y) ∧
    GivesS s (exec (.or u d a b) s) (slotS u) 1 d (x ||| y) ∧
    GivesS s (exec (.xor u d a b) s) (slotS u) 1 d (x ^^^ y) ∧
    GivesS s (exec (.andn u d a b) s) (slotS u) 1 d (x &&& ~~~y) ∧
    GivesS s (exec (.orn u d a b) s) (slotS u) 1 d (x ||| ~~~y) ∧
    GivesS s (exec (.shl u d a b) s) (slotS u) 1 d (BitVec.ofNat 64 (x.toNat * 2 ^ y.toNat)) ∧
    GivesS s (exec (.shr u d a b) s) (slotS u) 1 d (BitVec.ofNat 64 (x.toNat / 2 ^ y.toNat)) ∧
    GivesS s (exec (.sar u d a b) s) (slotS u) 1 d (BitVec.ofInt 64 (x.toInt / 2 ^ y.toNat)) ∧
    GivesS s (exec (.not u d a) s) (slotS u) 1 d (~~~x)) ∧
  (∀ (s : State) (u : SU) (d : Option (Fin 64)) (r : Fin 64) (k : Fin 3) (imm : BitVec 16) (a b : Src) (w x y : W64),
    a.scalarOk = true → b.scalarOk = true → s.scalar (slotS u) 0 (.s r) = .ok w →
    s.scalar (slotS u) 0 a = .ok x → s.scalar (slotS u) 1 b = .ok y →
    GivesS s (exec (.li u r imm) s) (slotS u) 1 (some r) (BitVec.ofInt 64 imm.toInt) ∧
    (∃ v : W64, (∀ i, i < 64 → v.getLsbD i = if i / 16 = k.val + 1 then imm.getLsbD (i % 16) else w.getLsbD i) ∧
      GivesS s (exec (.lis u r k imm) s) (slotS u) 1 (some r) v) ∧
    GivesS s (exec (.addi u r imm) s) (slotS u) 1 (some r) (BitVec.ofInt 64 (w.toInt + imm.toInt)) ∧
    GivesS s (exec (.andi u r imm) s) (slotS u) 1 (some r) (w &&& BitVec.ofNat 64 imm.toNat) ∧
    GivesS s (exec (.mov u d a) s) (slotS u) 1 d x ∧
    GivesS s (exec (.clz u d a) s) (slotS u) 1 d (BitVec.ofNat 64 (((List.range 64).find? fun i => x.getLsbD (63 - i)).getD 64)) ∧
    GivesS s (exec (.ctz u d a) s) (slotS u) 1 d (BitVec.ofNat 64 (((List.range 64).find? fun i => x.getLsbD i).getD 64)) ∧
    GivesS s (exec (.popc u d a) s) (slotS u) 1 d (BitVec.ofNat 64 ((List.range 64).countP fun i => x.getLsbD i)) ∧
    GivesS s (exec (.sext u d a b) s) (slotS u) 1 d
      ((x.setWidth (if y.toNat % 64 = 0 then 64 else y.toNat % 64)).signExtend 64) ∧
    GivesS s (exec (.zext u d a b) s) (slotS u) 1 d
      ((x.setWidth (if y.toNat % 64 = 0 then 64 else y.toNat % 64)).setWidth 64))

/-- Scalar compares, products, quotients and remainders, with division by zero defined. Whenever both sources can be read, the
compares answer 1 or 0, mul the low half and mulh the high half of the exact product, and the divisions the quotient truncated
toward zero and its remainder: all ones and the dividend when the divisor is 0. The 32-bit forms work on the low halves and
extend by their type. Bounds are 1, 3, 20 and 12 ticks. (spec/06 R164; spec/06 R165; spec/05 R146) -/
def Obligations.ScalarComparesMultipliesAndDividesComplete : Prop :=
  ∀ (s : State) (u : SU) (d : Option (Fin 64)) (a b : Src) (x y : W64), a.scalarOk = true → b.scalarOk = true →
    s.scalar (slotS u) 0 a = .ok x → s.scalar (slotS u) 1 b = .ok y →
    GivesS s (exec (.ceq u d a b) s) (slotS u) 1 d (if x.toNat = y.toNat then 1 else 0) ∧
    GivesS s (exec (.cne u d a b) s) (slotS u) 1 d (if x.toNat = y.toNat then 0 else 1) ∧
    GivesS s (exec (.cltI64 u d a b) s) (slotS u) 1 d (if x.toInt < y.toInt then 1 else 0) ∧
    GivesS s (exec (.cleI64 u d a b) s) (slotS u) 1 d (if x.toInt ≤ y.toInt then 1 else 0) ∧
    GivesS s (exec (.cltZ64 u d a b) s) (slotS u) 1 d (if x.toNat < y.toNat then 1 else 0) ∧
    GivesS s (exec (.cleZ64 u d a b) s) (slotS u) 1 d (if x.toNat ≤ y.toNat then 1 else 0) ∧
    GivesS s (exec (.mul u d a b) s) (slotS u) 3 d (BitVec.ofInt 64 (x.toInt * y.toInt)) ∧
    GivesS s (exec (.mulhI64 u d a b) s) (slotS u) 3 d (BitVec.ofInt 64 (x.toInt * y.toInt / 2 ^ 64)) ∧
    GivesS s (exec (.mulhZ64 u d a b) s) (slotS u) 3 d (BitVec.ofNat 64 (x.toNat * y.toNat / 2 ^ 64)) ∧
    GivesS s (exec (.divI64 u d a b) s) (slotS u) 20 d (if y.toNat = 0 then BitVec.allOnes 64 else BitVec.ofInt 64 (x.toInt.tdiv y.toInt)) ∧
    GivesS s (exec (.divZ64 u d a b) s) (slotS u) 20 d (if y.toNat = 0 then BitVec.allOnes 64 else BitVec.ofNat 64 (x.toNat / y.toNat)) ∧
    GivesS s (exec (.remI64 u d a b) s) (slotS u) 20 d (if y.toNat = 0 then x else BitVec.ofInt 64 (x.toInt.tmod y.toInt)) ∧
    GivesS s (exec (.remZ64 u d a b) s) (slotS u) 20 d (if y.toNat = 0 then x else BitVec.ofNat 64 (x.toNat % y.toNat)) ∧
    GivesS s (exec (.divI32 u d a b) s) (slotS u) 12 d ((if (y.setWidth 32 : W32).toNat = 0 then BitVec.allOnes 32 else BitVec.ofInt 32 ((x.setWidth 32 : W32).toInt.tdiv (y.setWidth 32 : W32).toInt)).signExtend 64) ∧
    GivesS s (exec (.divZ32 u d a b) s) (slotS u) 12 d ((if (y.setWidth 32 : W32).toNat = 0 then BitVec.allOnes 32 else BitVec.ofNat 32 ((x.setWidth 32 : W32).toNat / (y.setWidth 32 : W32).toNat)).setWidth 64) ∧
    GivesS s (exec (.remI32 u d a b) s) (slotS u) 12 d ((if (y.setWidth 32 : W32).toNat = 0 then (x.setWidth 32 : W32) else BitVec.ofInt 32 ((x.setWidth 32 : W32).toInt.tmod (y.setWidth 32 : W32).toInt)).signExtend 64) ∧
    GivesS s (exec (.remZ32 u d a b) s) (slotS u) 12 d ((if (y.setWidth 32 : W32).toNat = 0 then (x.setWidth 32 : W32) else BitVec.ofNat 32 ((x.setWidth 32 : W32).toNat % (y.setWidth 32 : W32).toNat)).setWidth 64)

/-- Capability operations derive, bound, move and read capabilities as Table 06-4 says, and CheckCap passes exactly as R67 says.
With both sources readable: csetoff, caddoff and cmov always complete, cder and cbnd when the capability has no reserved bit
set and the right to derive (cbnd also when the length asked for is not above its length), cchk and cget always. cder keeps
the rights that both have, cbnd gives the greatest representable length that is at most the one asked for and changes only the
length word, csetoff and caddoff change only the offset. The result is open for one tick more than the issue (bound 2);
nothing else changes. Where cder or cbnd may not derive, it takes the capability trap: sub-code 1 for a reserved bit set, 2
without the right, and cbnd 3 for a longer length. An access of n bytes at displacement d passes exactly when bits 95 and 94 of
the capability are 0, every right needed is held, and offset + d is at least 0 and offset + d + n at most the length; otherwise
the sub-code is that of the first condition that fails. (spec/06 R166; spec/02 R66; spec/05 R155; spec/02 R67) -/
def Obligations.CapabilityOperationsAndChecksFollowTheirRules : Prop :=
  (∀ (s : State) (u : SU) (d : Option (Fin 16)) (e : Option (Fin 64)) (a b : Src) (c : Cap) (y : W64),
    a.capOk = true → b.scalarOk = true → s.cap (slotS u) 0 a = .ok c → s.scalar (slotS u) 1 b = .ok y →
    (fld c 94 2 = 0 → capRights c &&& rDer = rDer →
      (∃ v : Cap, capRights v = capRights c &&& y.setWidth 6 ∧ (∀ i, ¬(88 ≤ i ∧ i < 94) → v.getLsbD i = c.getLsbD i) ∧
        GivesA s (exec (.cder u d a b) s) (slotS u) 2 d v) ∧
      (y.toNat ≤ capLength c → ∃ v : Cap, capLength v ≤ y.toNat ∧ (∀ w : Cap, capLength w ≤ y.toNat → capLength w ≤ capLength v) ∧
        (∀ i, i < 96 → v.getLsbD i = c.getLsbD i) ∧ GivesA s (exec (.cbnd u d a b) s) (slotS u) 2 d v) ∧
      (capLength c < y.toNat → exec (.cbnd u d a b) s = .next (s.raise ⟨5, 3, slotS u, 0, capObject c⟩))) ∧
    (∀ i ∈ ([.cder u d a b, .cbnd u d a b] : List Instr),
      (fld c 94 2 ≠ 0 → exec i s = .next (s.raise ⟨5, 1, slotS u, 0, capObject c⟩)) ∧
      (fld c 94 2 = 0 → capRights c &&& rDer ≠ rDer → exec i s = .next (s.raise ⟨5, 2, slotS u, 0, capObject c⟩))) ∧
    GivesA s (exec (.csetoff u d a b) s) (slotS u) 2 d (BitVec.ofNat 128 (c.toNat / 2 ^ 64 * 2 ^ 64 + y.toNat)) ∧
    GivesA s (exec (.caddoff u d a b) s) (slotS u) 2 d (BitVec.ofNat 128 (c.toNat / 2 ^ 64 * 2 ^ 64 + (c.toNat + y.toNat) % 2 ^ 64)) ∧
    GivesA s (exec (.cmov u d a) s) (slotS u) 2 d c ∧
    GivesS s (exec (.cchk u e a b) s) (slotS u) 2 e
      (if fld c 94 2 ≠ 0 then 1
       else if capRights c &&& y.extractLsb' 48 6 ≠ y.extractLsb' 48 6 then 2
       else if capLength c < capOffset c + y.toNat % 2 ^ 48 then 3 else 0) ∧
    GivesS s (exec (.cget u e a b) s) (slotS u) 2 e
      (match y.toNat with
       | 0 => c.extractLsb' 0 64
       | 1 => (c.extractLsb' 64 24).setWidth 64
       | 2 => (c.extractLsb' 88 6).setWidth 64
       | 3 => BitVec.ofNat 64 (capLength c)
       | 4 => c.extractLsb' 64 64
       | _ => 0)) ∧
  (∀ (c : Cap) (d : Int) (n : Nat) (need : BitVec 6),
    (checkCap c d n need = none ↔ (c.getLsbD 94 = false ∧ c.getLsbD 95 = false ∧ (∀ i, need.getLsbD i = true → c.getLsbD (88 + i) = true) ∧
      0 ≤ (c.toNat % 2 ^ 64 : Nat) + d ∧
      (c.toNat % 2 ^ 64 : Nat) + d + n ≤ (c.toNat / 2 ^ 96 % 2 ^ 28 * 2 ^ (c.toNat / 2 ^ 124) : Nat))) ∧
    (checkCap c d n need = some 1 ↔ (c.getLsbD 94 = true ∨ c.getLsbD 95 = true)) ∧
    (checkCap c d n need = some 2 ↔ (c.getLsbD 94 = false ∧ c.getLsbD 95 = false ∧
      ∃ i, need.getLsbD i = true ∧ c.getLsbD (88 + i) = false)) ∧
    (checkCap c d n need = some 3 ↔ (c.getLsbD 94 = false ∧ c.getLsbD 95 = false ∧
      (∀ i, need.getLsbD i = true → c.getLsbD (88 + i) = true) ∧ ((c.toNat % 2 ^ 64 : Nat) + d < 0 ∨
      (c.toNat / 2 ^ 96 % 2 ^ 28 * 2 ^ (c.toNat / 2 ^ 124) : Nat) < (c.toNat % 2 ^ 64 : Nat) + d + n))))

/-- Shape registers are loaded, and their fields read and written, as Table 06-5 lays them out. shld and shld.img load 64 bytes,
with the reserved bits of the image loaded as 0, and only the context's view of memory may change beside the result; shset replaces
the field that the selector names and keeps the rest; shget reads it, sign-extended for the strides. (spec/06 R167; spec/06
R169) -/
def Obligations.ShapeRegisterOperationsComplete : Prop :=
  ∀ (s : State) (u : SU) (d : Option (Fin 16)) (r : Fin 16) (e : Option (Fin 64)) (a b : Src) (x y : W64) (h : Shape),
    b.scalarOk = true → s.scalar (slotS u) 1 b = .ok y →
    (∀ (bytes : List Byte) (gone : List Bool) (m : State), a.capOk = true →
      s.load (slotS u) a b 64 64 false = .ok (bytes, gone, m) →
      OnlySnapshot s m ∧ ∃ v : Shape,
        (∀ i, i < 512 → v.getLsbD i = if 326 ≤ i ∧ i < 384 then false else (bytes.getD (i / 8) 0).getLsbD (i % 8)) ∧
        GivesSh m (exec (.shld u d a b) s) (slotS u) 12 d v) ∧
    (∀ (c : Cap) (off len : Nat) (bytes : List Byte) (gone : List Bool) (m : State), s.start.data = (c, off, len) →
      y.toNat + 64 ≤ len → y.toNat % 64 = 0 →
      s.start.mod.protect (capObject c) (capOffset c + off + y.toNat : Nat) 64 rEx (capRights c) s.part s.sv = none →
      s.loadFrom (slotS u) (capObject c) (capOffset c + off + y.toNat) 64 false = .ok (bytes, gone, m) →
      OnlySnapshot s m ∧ ∃ v : Shape,
        (∀ i, i < 512 → v.getLsbD i = if 326 ≤ i ∧ i < 384 then false else (bytes.getD (i / 8) 0).getLsbD (i % 8)) ∧
        GivesSh m (exec (.shldImg u d b) s) (slotS u) 12 d v) ∧
    (a.scalarOk = true → s.shape (slotS u) 2 (.sh r) = .ok h → s.scalar (slotS u) 0 a = .ok x →
      ∃ v : Shape, (∀ i, i < 512 → v.getLsbD i =
          if (shapeField (y.toNat % 16)).1 ≤ i ∧ i < (shapeField (y.toNat % 16)).1 + (shapeField (y.toNat % 16)).2.1
          then x.getLsbD (i - (shapeField (y.toNat % 16)).1) else h.getLsbD i) ∧
        GivesSh s (exec (.shset u r a b) s) (slotS u) 2 (some r) v) ∧
    (a.shapeOk = true → s.shape (slotS u) 0 a = .ok h →
      GivesS s (exec (.shget u e a b) s) (slotS u) 2 e
        (if 5 ≤ y.toNat % 16 ∧ y.toNat % 16 ≤ 8
         then (h.extractLsb' (shapeField (y.toNat % 16)).1 32).signExtend 64
         else (h.extractLsb' (shapeField (y.toNat % 16)).1 (shapeField (y.toNat % 16)).2.1).setWidth 64))

/-- Predicate operations work bit by bit, pset makes a prefix, pany and pcnt read one. With the sources readable the predicate
operations of Table 06-6 answer a next state in which the destination holds their result, p0 keeps all its bits when it is the
destination, and nothing else changes. (spec/06 R170; spec/06 Table 06-6) -/
def Obligations.PredicateOperationsComplete : Prop :=
  ∀ (s : State) (u : SU) (d : Option (Fin 24)) (e : Option (Fin 64)) (a b c : Src) (p q : Pred) (x : W64),
    a.predOk = true → b.predOk = true → c.scalarOk = true →
    s.pred (slotS u) 0 a = .ok p → s.pred (slotS u) 1 b = .ok q → s.scalar (slotS u) 0 c = .ok x →
    GivesP s (exec (.pand u d a b) s) (slotS u) 1 d (p &&& q) ∧
    GivesP s (exec (.por u d a b) s) (slotS u) 1 d (p ||| q) ∧
    GivesP s (exec (.pxor u d a b) s) (slotS u) 1 d (p ^^^ q) ∧
    GivesP s (exec (.pandn u d a b) s) (slotS u) 1 d (p &&& ~~~q) ∧
    GivesP s (exec (.pnot u d a) s) (slotS u) 1 d (~~~p) ∧
    GivesP s (exec (.pmov u d a) s) (slotS u) 1 d p ∧
    (∃ v : Pred, (∀ i, i < 128 → v.getLsbD i = decide (i < x.toNat)) ∧ GivesP s (exec (.pset u d c) s) (slotS u) 1 d v) ∧
    GivesS s (exec (.pany u e a) s) (slotS u) 2 e (if p.toNat = 0 then 0 else 1) ∧
    GivesS s (exec (.pcnt u e a) s) (slotS u) 2 e (BitVec.ofNat 64 ((List.range 128).countP fun i => p.getLsbD i))

/-- rdsr and wrsr read and write the special registers of Table 06-7, bfrd and bfwr the 32 bank formats of the core. rdsr of link,
lrc, status, ptick, the promise counters, depth and tick gives their values at bundle start (link and lrc when neither
poisoned nor open). wrsr of link clears its low five bits, of lrc caps it at 512, of status changes bits 36 to 34 alone, of
the promise counters the counter of misses alone; each leaves everything else as it was. On a core whose launch has
scratchpad, bfrd gives the format that the low five bits of b name, and bfwr of a legal format writes that register of the
core and changes nothing else. (spec/06 R171; spec/02 R46; spec/06 R172; spec/02 R53; spec/02 R54) -/
def Obligations.SpecialRegistersAndBankFormatsReadAndWrite : Prop :=
  (∀ (s : State) (u : SU) (d : Option (Fin 64)) (a : Src) (x : W64), a.scalarOk = true → s.scalar (slotS u) 0 a = .ok x →
    (s.start.ctx.poison.contains .link = false → s.start.ctx.open s.start.mod.tick .link = false →
      GivesS s (exec (.rdsr u d (.imm 0)) s) (slotS u) 2 d s.src.link) ∧
    (s.start.ctx.poison.contains .lrc = false → s.start.ctx.open s.start.mod.tick .lrc = false →
      GivesS s (exec (.rdsr u d (.imm 1)) s) (slotS u) 2 d (s.src.lrc.setWidth 64)) ∧
    GivesS s (exec (.rdsr u d (.imm 2)) s) (slotS u) 2 d s.src.status ∧
    GivesS s (exec (.rdsr u d (.imm 3)) s) (slotS u) 2 d s.src.ptick ∧
    GivesS s (exec (.rdsr u d (.imm 4)) s) (slotS u) 2 d
      (BitVec.ofNat 64 (s.src.misses.toNat + if (s.start.mod.die s.die).strictOn then 2 ^ 16 else 0)) ∧
    GivesS s (exec (.rdsr u d (.imm 5)) s) (slotS u) 2 d (s.src.depth.setWidth 64) ∧
    GivesS s (exec (.rdsr u d (.imm 6)) s) (slotS u) 2 d (BitVec.ofNat 64 s.now.mod.tick) ∧
    (∃ t, exec (.wrsr u a (.imm 0)) s = .next t ∧ OnlyWrites s t [.link] ∧
      t.now.ctx.bank.link.toNat = x.toNat / 32 * 32) ∧
    (∃ t, exec (.wrsr u a (.imm 1)) s = .next t ∧ OnlyWrites s t [.lrc] ∧ t.now.ctx.bank.lrc.toNat = min x.toNat 512) ∧
    (∃ v : W64, (∀ i, i < 64 → v.getLsbD i = if 34 ≤ i ∧ i ≤ 36 then x.getLsbD i else s.now.ctx.bank.status.getLsbD i) ∧
      exec (.wrsr u a (.imm 2)) s = .next (s.onBank fun k => { k with status := v })) ∧
    exec (.wrsr u a (.imm 4)) s = .next (s.onBank fun k => { k with misses := BitVec.ofNat 16 x.toNat })) ∧
  (∀ (s : State) (u : SU) (d : Option (Fin 64)) (a b : Src) (x y : W64), a.scalarOk = true → b.scalarOk = true →
    s.scalar (slotS u) 0 a = .ok x → s.scalar (slotS u) 1 b = .ok y → s.rcd.gSp ≠ 0 →
    GivesS s (exec (.bfrd u d b) s) (slotS u) 1 d ((s.start.core.bfmt.toList.getD (y.toNat % 32) 0).setWidth 64) ∧
    (x.toNat < 2 ^ 32 → bankFormatOk s.rcd.gSp (x.setWidth 32) = true →
      ∃ t, exec (.bfwr u a b) s = .next t ∧
        t = { s with now := { s.now with core := { s.now.core with bfmt := t.now.core.bfmt } } } ∧
        ∀ k, k < 32 → t.now.core.bfmt.toList.getD k 0 = if k = y.toNat % 32 then x.setWidth 32 else s.now.core.bfmt.toList.getD k 0))

/-- A source is read as it stood at the start of the bundle; inside an open window it is a free value. A scalar source that names
an s register gives the register of the bundle's start view when it holds no poison and no window is open on it, a free value
when a window is open, and raises the poisoned-data trap when it is poisoned; an immediate is sign-extended; a queue source
gives the head of the queue at the start, and an empty queue holds the bundle; a capability, vector, predicate or shape source
gives its register in the same way, and a scalar register read as a vector is copied to every lane. (spec/05 R143; spec/05
R146; spec/05 R142; spec/01 R24; spec/15 R385) -/
def Obligations.SourcesAreReadFromTheStartOfTheBundle : Prop :=
  ∀ (s : State) (slot pos : Nat),
    (∀ (r : WReg), s.start.ctx.poison.contains r = false → s.start.ctx.open s.start.mod.tick r = false →
      (∀ n, r = .s n → s.scalar slot pos (.s n) = .ok s.start.ctx.bank.s[n]) ∧
      (∀ n, r = .a n → s.cap slot pos (.a n) = .ok s.start.ctx.bank.a[n]) ∧
      (∀ n t, r = .v n → s.vector slot pos t (.v n) = .ok s.start.ctx.bank.v[n]) ∧
      (∀ n t, r = .s n → ∃ v, s.vector slot pos t (.s n) = .ok v ∧
        ∀ i, i < 2048 → v.getLsbD i = s.start.ctx.bank.s[n].getLsbD (i % t.width)) ∧
      (∀ n, r = .p n → s.pred slot pos (.p n) = .ok s.start.ctx.bank.p[n]) ∧
      (∀ n, r = .sh n → s.shape slot pos (.sh n) = .ok s.start.ctx.bank.sh[n])) ∧
    (∀ n : Fin 64, s.start.ctx.poison.contains (.s n) = false → s.start.ctx.open s.start.mod.tick (.s n) = true →
      s.scalar slot pos (.s n) = .ok (Config.undef 64 s.free slot pos)) ∧
    (∀ n : Fin 64, s.start.ctx.poison.contains (.s n) = true →
      s.scalar slot pos (.s n) = .error (.trap ⟨29, 2, slot, n.val, 0⟩)) ∧
    (∀ i : BitVec 6, s.scalar slot pos (.imm i) = .ok (BitVec.ofInt 64 i.toInt)) ∧
    (∀ q : Fin 8, s.start.core.queues[q] = [] → s.scalar slot pos (.q q) = .error (.hold {})) ∧
    (∀ (q : Fin 8) (e : QEntry) (es : List QEntry), s.start.core.queues[q] = e :: es → e.poison = false →
      s.scalar slot pos (.q q) = .ok (e.data.setWidth 64) ∧ s.cap slot pos (.q q) = .ok (e.data.setWidth 128) ∧
      ∀ t, s.vector slot pos t (.q q) = .ok e.data)

/-- Scalar loads give the little-endian word, of the context's own stores, else its snapshot or a byte now published. When the
capability and displacement are readable and the load of n bytes succeeds, ld of each width answers a next state whose
destination and latch hold the bytes as a little-endian number, zero-extended or sign-extended as its form says, ld.c128 the
16 bytes as a capability; nothing else changes but the context's own view of memory (its L1 data cache, and a racing byte that
it has read). ld.nr of a word with a byte in a page that is not resident gives 0 and all ones in the predicate, else the word
and 0; p0 stays as it is. Whenever an ordinary load (not .nr) succeeds it returns n bytes, the access passes its checks at some
object offset, and each byte is the context's own unpublished store to that byte when it has one; else, when the byte lies in
this module's memory, it is not poisoned and is what the snapshot holds, or what memory holds, or a later store to it that is
published and no host's (a sector of a protected line read beside the domain shows its ciphertext). (spec/06 R173; spec/06 R174; spec/06 Table 06-8; spec/02
R69; spec/04 R105; spec/04 R103) -/
def Obligations.ScalarLoadsComplete : Prop :=
  (∀ (s : State) (u : SU) (d : Option (Fin 64)) (e : Option (Fin 16)) (p : Fin 8) (a b : Src), a.capOk = true → b.scalarOk = true →
    (∀ bytes gone m, s.load (slotS u) a b 1 1 false = .ok (bytes, gone, m) →
      OnlySnapshot s m ∧ GivesS m (exec (.ldZ8 u d a b) s) (slotS u) 8 d (BitVec.ofNat 64 (leNat bytes))) ∧
    (∀ bytes gone m, s.load (slotS u) a b 2 2 false = .ok (bytes, gone, m) →
      OnlySnapshot s m ∧ GivesS m (exec (.ldZ16 u d a b) s) (slotS u) 8 d (BitVec.ofNat 64 (leNat bytes))) ∧
    (∀ bytes gone m, s.load (slotS u) a b 4 4 false = .ok (bytes, gone, m) →
      OnlySnapshot s m ∧ GivesS m (exec (.ldZ32 u d a b) s) (slotS u) 8 d (BitVec.ofNat 64 (leNat bytes))) ∧
    (∀ bytes gone m, s.load (slotS u) a b 1 1 false = .ok (bytes, gone, m) →
      OnlySnapshot s m ∧ GivesS m (exec (.ldI8 u d a b) s) (slotS u) 8 d ((BitVec.ofNat 8 (leNat bytes)).signExtend 64)) ∧
    (∀ bytes gone m, s.load (slotS u) a b 2 2 false = .ok (bytes, gone, m) →
      OnlySnapshot s m ∧ GivesS m (exec (.ldI16 u d a b) s) (slotS u) 8 d ((BitVec.ofNat 16 (leNat bytes)).signExtend 64)) ∧
    (∀ bytes gone m, s.load (slotS u) a b 4 4 false = .ok (bytes, gone, m) →
      OnlySnapshot s m ∧ GivesS m (exec (.ldI32 u d a b) s) (slotS u) 8 d ((BitVec.ofNat 32 (leNat bytes)).signExtend 64)) ∧
    (∀ bytes gone m, s.load (slotS u) a b 8 8 false = .ok (bytes, gone, m) →
      OnlySnapshot s m ∧ GivesS m (exec (.ldI64 u d a b) s) (slotS u) 8 d (BitVec.ofNat 64 (leNat bytes))) ∧
    (∀ bytes gone m, s.load (slotS u) a b 16 16 false = .ok (bytes, gone, m) →
      OnlySnapshot s m ∧ GivesA m (exec (.ldC128 u e a b) s) (slotS u) 8 e (BitVec.ofNat 128 (leNat bytes))) ∧
    (∀ bytes gone m, s.load (slotS u) a b 8 8 true = .ok (bytes, gone, m) → OnlySnapshot s m ∧
      ∃ t, exec (.ldNr u d p a b) s = .next t ∧
        OnlyWrites m t ((.lat (slotS u) :: (d.map WReg.s).toList) ++ [.p ⟨p.val, by omega⟩]) ∧
        (∀ r ∈ d, t.get (.s r) = (if gone.any id then 0 else BitVec.ofNat 64 (leNat bytes) : W64).setWidth 2048) ∧
        (p ≠ 0 → t.get (.p ⟨p.val, by omega⟩) = (if gone.any id then BitVec.allOnes 128 else 0 : Pred).setWidth 2048) ∧
        (p = 0 → t.get (.p 0) = s.get (.p 0) ∧ ∀ k, s.tick ≤ k → t.now.ctx.open k (.p 0) = s.now.ctx.open k (.p 0)))) ∧
  (∀ (s : State) (slot : Nat) (a b : Src) (n align : Nat) (bytes : List Byte) (gone : List Bool) (m : State),
    s.load slot a b n align false = .ok (bytes, gone, m) →
    bytes.length = n ∧ ∃ c y off e, s.cap slot 0 a = .ok c ∧ s.scalar slot 1 b = .ok y ∧
      s.capAccess slot c y.toInt n align rLd = .ok off ∧ s.start.mod.entry (capObject c) = some e ∧
      (off : Int) = capOffset c + y.toInt ∧ off % align = 0 ∧
      ∀ i, i < n →
        (∀ b, tfind (cellKey (capObject c) (off + i)) s.start.ctx.unpub = some b → bytes.getD i 0 = b) ∧
        (tfind (cellKey (capObject c) (off + i)) s.start.ctx.unpub = none →
          ∀ addr, s.start.mod.place (capObject c) e (off + i) false = .phys addr →
            s.start.mod.poisoned (entDp e) addr = false ∧
            ∃ v, bytes.getD i 0 = s.start.mod.outer (entDp e) addr v ∧
              (v = Memory.read s.start.ctx.snap addr ∨
                (tfind addr s.start.mod.pubs = none ∧ v = s.start.mod.byte addr) ∨
                ∃ l w, tfind addr s.start.mod.pubs = some l ∧ w ∈ l ∧ w.shown (some s.start.self) = true ∧ w.src ≠ .host ∧
                  tget 0 addr s.start.ctx.seen < w.seq ∧ v = w.val)))

/-- Scalar stores enter the store buffer, and scratchpad accesses read, write, fill, consume and drain lines of the bank named.
When its sources are readable and the access passes its checks at object offset off, st of n bytes answers a next state in
which the n bytes of the register stand, little-endian, as unpublished stores at offsets off to off + n − 1 of the object;
every other unpublished store, every register, the snapshot, and every byte of memory are unchanged. At an address in the bank
of the issuing core: lds gives the 8 bytes of a full line and lds.c also empties it; sts writes 8 bytes and leaves the full
bits, sts.f also fills the line; drain empties it. At an address in another core's bank each sends that core a request; a
load's registers wait for its answer. No other byte, line, register or core changes. (spec/06 R173; spec/04 R103; spec/15
R372; spec/06 R175; spec/02 R51; spec/02 R52; spec/02 R59; spec/02 R60; spec/02 R61) -/
def Obligations.ScalarStoresAndScratchpadAccessesComplete : Prop :=
  (∀ (s : State) (u : SU) (d : Fin 64) (a b : Src) (c : Cap) (x y : W64), a.capOk = true → b.scalarOk = true →
    s.cap (slotS u) 0 a = .ok c → s.scalar (slotS u) 1 b = .ok y → s.scalar (slotS u) 2 (.s d) = .ok x →
    (∀ off, s.capAccess (slotS u) c y.toInt 1 1 rSt = .ok off →
      ∃ t, exec (.stZ8 u d a b) s = .next t ∧ StoredBuffered s t (capObject c) off 1 fun i => (x >>> (8 * i)).setWidth 8) ∧
    (∀ off, s.capAccess (slotS u) c y.toInt 2 2 rSt = .ok off →
      ∃ t, exec (.stZ16 u d a b) s = .next t ∧ StoredBuffered s t (capObject c) off 2 fun i => (x >>> (8 * i)).setWidth 8) ∧
    (∀ off, s.capAccess (slotS u) c y.toInt 4 4 rSt = .ok off →
      ∃ t, exec (.stZ32 u d a b) s = .next t ∧ StoredBuffered s t (capObject c) off 4 fun i => (x >>> (8 * i)).setWidth 8) ∧
    (∀ off, s.capAccess (slotS u) c y.toInt 8 8 rSt = .ok off →
      ∃ t, exec (.stZ64 u d a b) s = .next t ∧ StoredBuffered s t (capObject c) off 8 fun i => (x >>> (8 * i)).setWidth 8)) ∧
  (∀ (s : State) (u : SU) (d : Option (Fin 64)) (a b : Src) (x y : W64) (t0 : SpAddr),
    a.scalarOk = true → b.scalarOk = true → s.scalar (slotS u) 0 a = .ok x → s.scalar (slotS u) 1 b = .ok y →
    s.spScalar (slotS u) x y = .ok t0 →
    (t0.core = s.place →
      (s.start.core.linesFull (linesOf t0.off 8) = true → s.start.core.spBad t0.off 8 = false →
        GivesS s (exec (.lds u d a b) s) (slotS u) 4 d (BitVec.ofNat 64 (leNat (s.start.core.spBytesAt s.free t0.off 8))) ∧
        GivesS (s.onCore fun k => k.setEmpty (linesOf t0.off 8)) (exec (.ldsC u d a b) s) (slotS u) 4 d
          (BitVec.ofNat 64 (leNat (s.start.core.spBytesAt s.free t0.off 8)))) ∧
      (∃ t, exec (.drain u a b) s = .next t ∧ t = { s with now := { s.now with core := { s.now.core with full := t.now.core.full } } } ∧
        ∀ l, l ∈ t.now.core.full ↔ l ∈ s.now.core.full ∧ l ∉ linesOf t0.off 8)) ∧
    (t0.core ≠ s.place →
      exec (.lds u d a b) s = .next ((s.newReq.2.expect (slotS u) 24 (d.map .s) s.newReq.1).remote (slotS u) t0 s.newReq.1 (d.map .s) (.read false 8 none)) ∧
      exec (.ldsC u d a b) s = .next ((s.newReq.2.expect (slotS u) 24 (d.map .s) s.newReq.1).remote (slotS u) t0 s.newReq.1 (d.map .s) (.read true 8 none)) ∧
      exec (.drain u a b) s = .next (s.remote (slotS u) t0 0 none .drain)) ∧
    ∀ (r : Fin 64) (v : W64), s.scalar (slotS u) 2 (.s r) = .ok v →
      (t0.core = s.place →
        (∃ t, exec (.sts u r a b) s = .next t ∧ ScratchWritten s t t0.off 8 (fun i => (v >>> (8 * i)).setWidth 8) false) ∧
        (∃ t, exec (.stsF u r a b) s = .next t ∧ ScratchWritten s t t0.off 8 (fun i => (v >>> (8 * i)).setWidth 8) true)) ∧
      (t0.core ≠ s.place →
        exec (.sts u r a b) s = .next (s.remote (slotS u) t0 0 none (.write (leBytes 8 v.toNat) [] false)) ∧
        exec (.stsF u r a b) s = .next (s.remote (slotS u) t0 0 none (.write (leBytes 8 v.toNat) [] true))))

/-- Strong loads, stores and atomics act on the word at its home by Table 06-11 and return its old value. When a context has
nothing to publish and the word that the target names lies in this module's memory, each strong load, strong store and atomic,
of every width, scope and order, acts on that word at once: memory holds the operation's result there and is unchanged
elsewhere, the destination takes the old word (a load: when no earlier slot of its bundle has changed memory, for it reads as
at bundle start), an acquire refreshes the view of memory, an atomic sets the effect bit of a held task. For a word of n bytes and operands below 2 to the 8n, the result of each home operation is the one of Table 06-11: sums
wrap, minima and maxima compare as signed or unsigned words of that width, cas stores its second operand exactly when the word
equals the first. (spec/06 R176; spec/06 R177; spec/04 R112; spec/04 R113; spec/01 R32; spec/04 R129) -/
def Obligations.StrongAccessesCompleteAtTheirHome : Prop :=
  (∀ (s : State) (u : SU) (d : Option (Fin 64)) (sc : Scope) (w : BitVec 2) (sg : Bool) (a : Src),
    a.capOrScalarOk = true → Published s →
    (∀ addr obj off dp, s.strongAt (slotS u) a (2 ^ w.toNat) .ld rLd = .ok (.phys addr obj off dp) → AtStart s →
      ∃ t, exec (.ldRlx u d sc w sg a) s = .next t ∧ StrongDone s t (slotS u) d .ld (2 ^ w.toNat) addr (if dp then some obj else none) 0 0 sg false sc) ∧
    (∀ addr obj off dp, s.strongAt (slotS u) a (2 ^ w.toNat) .ld rLd = .ok (.phys addr obj off dp) → AtStart s →
      ∃ t, exec (.ldAcq u d sc w sg a) s = .next t ∧ StrongDone s t (slotS u) d .ld (2 ^ w.toNat) addr (if dp then some obj else none) 0 0 sg true sc)) ∧
  (∀ (s : State) (u : SU) (r : Fin 64) (sc : Scope) (w o : BitVec 2) (a : Src) (x y : W64),
    a.capOrScalarOk = true → Published s → s.scalar (slotS u) 2 (.s r) = .ok x →
    (∀ addr obj off dp, s.strongAt (slotS u) a (2 ^ w.toNat) .st rSt = .ok (.phys addr obj off dp) →
      ∃ t, exec (.stRlx u r sc w a) s = .next t ∧ StrongDone s t (slotS u) none .st (2 ^ w.toNat) addr (if dp then some obj else none) x 0 false false sc) ∧
    (∀ addr obj off dp, s.strongAt (slotS u) a (2 ^ w.toNat) .st rSt = .ok (.phys addr obj off dp) →
      ∃ t, exec (.stRel u r sc w a) s = .next t ∧ StrongDone s t (slotS u) none .st (2 ^ w.toNat) addr (if dp then some obj else none) x 0 false false sc) ∧
    (∀ addr obj off dp, s.strongAt (slotS u) a (2 ^ w.toNat) .add rAt = .ok (.phys addr obj off dp) →
      ∃ t, exec (.atomAdd u r sc w o a) s = .next t ∧ StrongDone s t (slotS u) (some r) .add (2 ^ w.toNat) addr (if dp then some obj else none) x 0 false (o.getLsbD 0) sc) ∧
    (∀ addr obj off dp, s.strongAt (slotS u) a (2 ^ w.toNat) .and rAt = .ok (.phys addr obj off dp) →
      ∃ t, exec (.atomAnd u r sc w o a) s = .next t ∧ StrongDone s t (slotS u) (some r) .and (2 ^ w.toNat) addr (if dp then some obj else none) x 0 false (o.getLsbD 0) sc) ∧
    (∀ addr obj off dp, s.strongAt (slotS u) a (2 ^ w.toNat) .or rAt = .ok (.phys addr obj off dp) →
      ∃ t, exec (.atomOr u r sc w o a) s = .next t ∧ StrongDone s t (slotS u) (some r) .or (2 ^ w.toNat) addr (if dp then some obj else none) x 0 false (o.getLsbD 0) sc) ∧
    (∀ addr obj off dp, s.strongAt (slotS u) a (2 ^ w.toNat) .xor rAt = .ok (.phys addr obj off dp) →
      ∃ t, exec (.atomXor u r sc w o a) s = .next t ∧ StrongDone s t (slotS u) (some r) .xor (2 ^ w.toNat) addr (if dp then some obj else none) x 0 false (o.getLsbD 0) sc) ∧
    (∀ addr obj off dp, s.strongAt (slotS u) a (2 ^ w.toNat) .minI rAt = .ok (.phys addr obj off dp) →
      ∃ t, exec (.atomMinI u r sc w o a) s = .next t ∧ StrongDone s t (slotS u) (some r) .minI (2 ^ w.toNat) addr (if dp then some obj else none) x 0 false (o.getLsbD 0) sc) ∧
    (∀ addr obj off dp, s.strongAt (slotS u) a (2 ^ w.toNat) .maxI rAt = .ok (.phys addr obj off dp) →
      ∃ t, exec (.atomMaxI u r sc w o a) s = .next t ∧ StrongDone s t (slotS u) (some r) .maxI (2 ^ w.toNat) addr (if dp then some obj else none) x 0 false (o.getLsbD 0) sc) ∧
    (∀ addr obj off dp, s.strongAt (slotS u) a (2 ^ w.toNat) .minZ rAt = .ok (.phys addr obj off dp) →
      ∃ t, exec (.atomMinZ u r sc w o a) s = .next t ∧ StrongDone s t (slotS u) (some r) .minZ (2 ^ w.toNat) addr (if dp then some obj else none) x 0 false (o.getLsbD 0) sc) ∧
    (∀ addr obj off dp, s.strongAt (slotS u) a (2 ^ w.toNat) .maxZ rAt = .ok (.phys addr obj off dp) →
      ∃ t, exec (.atomMaxZ u r sc w o a) s = .next t ∧ StrongDone s t (slotS u) (some r) .maxZ (2 ^ w.toNat) addr (if dp then some obj else none) x 0 false (o.getLsbD 0) sc) ∧
    (∀ addr obj off dp, s.strongAt (slotS u) a (2 ^ w.toNat) .swap rAt = .ok (.phys addr obj off dp) →
      ∃ t, exec (.atomSwap u r sc w o a) s = .next t ∧ StrongDone s t (slotS u) (some r) .swap (2 ^ w.toNat) addr (if dp then some obj else none) x 0 false (o.getLsbD 0) sc) ∧
    (∀ addr obj off dp (q : Fin 64), q.val = r.val + 1 → s.scalar (slotS u) 3 (.s q) = .ok y →
      s.strongAt (slotS u) a (2 ^ w.toNat) .cas rAt = .ok (.phys addr obj off dp) →
      ∃ t, exec (.atomCas u r sc w o a) s = .next t ∧ StrongDone s t (slotS u) (some r) .cas (2 ^ w.toNat) addr (if dp then some obj else none) x y false (o.getLsbD 0) sc)) ∧
  (∀ (n old v v2 : Nat), old < 2 ^ (8 * n) → v < 2 ^ (8 * n) → v2 < 2 ^ (8 * n) →
    homeNew .ld n old v v2 = old ∧ homeNew .st n old v v2 = v ∧ homeNew .swap n old v v2 = v ∧
    homeNew .add n old v v2 = (old + v) % 2 ^ (8 * n) ∧
    (∀ i, (homeNew .and n old v v2).testBit i = (old.testBit i && v.testBit i)) ∧
    (∀ i, (homeNew .or n old v v2).testBit i = (old.testBit i || v.testBit i)) ∧
    (∀ i, (homeNew .xor n old v v2).testBit i = (old.testBit i != v.testBit i)) ∧
    homeNew .minZ n old v v2 = (if old ≤ v then old else v) ∧ homeNew .maxZ n old v v2 = (if old ≤ v then v else old) ∧
    homeNew .minI n old v v2 = (if (BitVec.ofNat (8 * n) old).toInt ≤ (BitVec.ofNat (8 * n) v).toInt then old else v) ∧
    homeNew .maxI n old v v2 = (if (BitVec.ofNat (8 * n) old).toInt ≤ (BitVec.ofNat (8 * n) v).toInt then v else old) ∧
    homeNew .cas n old v v2 = (if old = v then v2 else old))

/-- A strong access to another home sends a request, and one to the own scratchpad acts on its word at once. When a context has
nothing to publish: a strong access whose word lies in the scratchpad of the issuing core acts on that word at once, leaving
every other byte of the bank, every line's bit and all of memory as they were; one whose word lies in another core's
scratchpad or another module leaves every register and all of memory as they were, and its number stands among what the next
bundle waits for. (spec/06 R176; spec/06 R177; spec/04 R112; spec/16 R404) -/
def Obligations.StrongAccessesElsewhereWaitForAnAnswer : Prop :=
  ∀ (s : State) (u : SU) (d : Option (Fin 64)) (r : Fin 64) (sc : Scope) (w o : BitVec 2) (sg : Bool) (a : Src) (x y : W64)
    (i : Instr) (op : HomeOp) (need : BitVec 6), a.capOrScalarOk = true → Published s →
    (op ≠ .ld → s.scalar (slotS u) 2 (.s r) = .ok x) →
    (op = .cas → ∃ q : Fin 64, q.val = r.val + 1 ∧ s.scalar (slotS u) 3 (.s q) = .ok y) →
    (i, op, need) ∈ ([(.ldRlx u d sc w sg a, .ld, rLd),
       (.ldAcq u d sc w sg a, .ld, rLd),
       (.stRlx u r sc w a, .st, rSt),
       (.stRel u r sc w a, .st, rSt),
       (.atomAdd u r sc w o a, .add, rAt),
       (.atomAnd u r sc w o a, .and, rAt),
       (.atomOr u r sc w o a, .or, rAt),
       (.atomXor u r sc w o a, .xor, rAt),
       (.atomMinI u r sc w o a, .minI, rAt),
       (.atomMaxI u r sc w o a, .maxI, rAt),
       (.atomMinZ u r sc w o a, .minZ, rAt),
       (.atomMaxZ u r sc w o a, .maxZ, rAt),
       (.atomSwap u r sc w o a, .swap, rAt),
       (.atomCas u r sc w o a, .cas, rAt)] : List (Instr × HomeOp × BitVec 6)) →
    (∀ off, s.strongAt (slotS u) a (2 ^ w.toNat) op need = .ok (.sp s.now.cid off) →
      ∃ t, exec i s = .next t ∧
        (op ≠ .ld → ∀ k, k < 2 ^ w.toNat → tfind (off + k) t.now.core.sp = some (BitVec.ofNat 8
          (homeNew op (2 ^ w.toNat) (leNat (s.now.core.spBytesAt s.free off (2 ^ w.toNat))) (if op = .ld then 0 else x.toNat)
            (if op = .cas then y.toNat else 0) / 256 ^ k))) ∧
        (∀ k, (k < off ∨ off + 2 ^ w.toNat ≤ k ∨ op = .ld) → tfind k t.now.core.sp = tfind k s.now.core.sp) ∧
        t.now.core.full = s.now.core.full ∧ (∀ b, t.now.mod.byte b = s.now.mod.byte b)) ∧
    (∀ loc, s.strongAt (slotS u) a (2 ^ w.toNat) op need = .ok loc →
      (match loc with | .phys .. => False | .sp c _ => c ≠ s.now.cid | .remote .. => True) →
      ∃ t z key, exec i s = .next t ∧ z.loc = loc ∧ z.op = op ∧ z.bytes = 2 ^ w.toNat ∧
        Pending.remote s.now.ctx.reqNext key z ∈ t.now.ctx.pending ∧
        (∀ q, q.real → t.get q = s.get q) ∧ ∀ b, t.now.mod.byte b = s.now.mod.byte b)

/-- qpush of each slot appends its register to the handoff queue while the queue has fewer than 16 entries. With the register
readable and fewer than 16 entries in queue q, qpush of the S, V and X slots answers a next state in which the queue has the
register, zero-extended to 2048 bits, as its last entry; with 16 entries the bundle is held. No other queue and nothing else
changes. (spec/06 R178; spec/01 R24; spec/01 R26) -/
def Obligations.QueuePushesAppendAnEntry : Prop :=
  ∀ (s : State) (u : SU) (w : VU) (r : Fin 64) (k : Fin 32) (q : Fin 8) (x : W64) (v z : VecReg),
    s.scalar (slotS u) 0 (.s r) = .ok x → s.dataV (slotV w) 0 k = .ok v → s.dataV 5 0 k = .ok z →
    (s.now.core.queues[q].length < 16 →
      exec (.qpushS u r q) s = .next (s.onCore fun c => { c with queues := c.queues.set q (c.queues[q] ++ [⟨x.setWidth 2048, false⟩]) }) ∧
      exec (.qpushV w k q) s = .next (s.onCore fun c => { c with queues := c.queues.set q (c.queues[q] ++ [⟨v, false⟩]) }) ∧
      exec (.qpushX k q) s = .next (s.onCore fun c => { c with queues := c.queues.set q (c.queues[q] ++ [⟨z, false⟩]) })) ∧
    (16 ≤ s.now.core.queues[q].length → ∃ t, exec (.qpushS u r q) s = .next t ∧ t.iss.held = true ∧ t.now = s.now)

/-- Branches and calls name pc + 32 × off, ret names link, and fjmp an entry of a jump table, when their condition holds. With the
condition readable, br, brz and call of slots S1 and C answer a next state whose bundle has a branch, taken to pc + 32 × off
when the condition holds and otherwise not taken; a taken call also makes link pc + 96; a taken branch of C restores link as a
call of S1 in its bundle found it. No other register, and no memory, changes. With its condition readable ret answers a next
state whose bundle has a branch, taken to link when the condition is not 0; fjmp with an index below the count of an existing
table and a readable entry is always taken to the offset the entry holds, which it reads as an ordinary load does (the model's
choice, log 64); with no such table or entry it takes the fragment trap. (spec/06 R179; spec/05 R150; spec/06 R180; spec/06 R181) -/
def Obligations.BranchesReturnsAndJumpsNameTheirTarget : Prop :=
  (∀ (s : State) (c : Src) (off : BitVec 18) (x y : W64), c.scalarOk = true → s.scalar 1 0 c = .ok x → s.scalar 6 0 c = .ok y →
    s.iss.link = none →
    (let target := some (BitVec.ofInt 64 (s.start.ctx.bank.pc.toInt + 32 * off.toInt))
     exec (.brS1 c off) s = .next (s.onIss fun i => { i with branch := true, taken := if x ≠ 0 then target else i.taken }) ∧
     exec (.brzS1 c off) s = .next (s.onIss fun i => { i with branch := true, taken := if x = 0 then target else i.taken }) ∧
     exec (.brC c off) s = .next (s.onIss fun i => { i with branch := true, taken := if y ≠ 0 then target else i.taken }) ∧
     exec (.brzC c off) s = .next (s.onIss fun i => { i with branch := true, taken := if y = 0 then target else i.taken }) ∧
     (x = 0 → exec (.callS1 c off) s = .next (s.onIss fun i => { i with branch := true })) ∧
     (y = 0 → exec (.callC c off) s = .next (s.onIss fun i => { i with branch := true })) ∧
     (x ≠ 0 → ∃ t, exec (.callS1 c off) s = .next t ∧ OnlyWrites s { t with iss := s.iss } [.link] ∧
       t.now.ctx.bank.link = s.start.ctx.bank.pc + 96 ∧ t.iss.branch = true ∧ t.iss.taken = target ∧
       t.iss.link = some (s.now.ctx.bank.link, s.now.ctx.windows)) ∧
     (y ≠ 0 → ∃ t, exec (.callC c off) s = .next t ∧ OnlyWrites s { t with iss := s.iss } [.link] ∧
       t.now.ctx.bank.link = s.start.ctx.bank.pc + 96 ∧ t.iss.branch = true ∧ t.iss.taken = target)) ∧
    ∀ l w, y ≠ 0 → ∃ t, exec (.brC c off) { s with iss := { s.iss with link := some (l, w) } } = .next t ∧
      t.now.ctx.bank = { s.now.ctx.bank with link := l }) ∧
  (∀ (s : State) (a b : Src) (x y : W64), a.scalarOk = true → b.scalarOk = true → s.scalar 6 0 a = .ok x → s.scalar 6 1 b = .ok y →
    s.iss.link = none →
    (x = 0 → exec (.ret a) s = .next (s.onIss fun i => { i with branch := true })) ∧
    (x ≠ 0 → s.start.ctx.poison.contains .link = false → s.start.ctx.open s.start.mod.tick .link = false →
      exec (.ret a) s = .next (s.onIss fun i => { i with branch := true, taken := some s.start.ctx.bank.link })) ∧
    (∀ off n c dataOff len bytes gone m, s.start.jtab y.toNat = some (off, n) → x.toNat < n → s.start.data = (c, dataOff, len) →
      s.loadFrom 6 (capObject c) (capOffset c + dataOff + off + 4 * x.toNat) 4 false = .ok (bytes, gone, m) →
      OnlySnapshot s m ∧
      exec (.fjmp a b) s = .next (m.onIss fun i => { i with branch := true, taken := some (BitVec.ofNat 64 (leNat bytes)) })) ∧
    ((∀ off n, s.start.jtab y.toNat = some (off, n) → n ≤ x.toNat) →
      exec (.fjmp a b) s = .next (s.raise ⟨13, 0, 6, 0, 0⟩)))

/-- A taken branch lands after two delay bundles, and lap opens a loop level or skips an empty loop. A bundle with a branch leaves
two delay bundles and the target named (or the bundle after those two when the branch is not taken); each following bundle in
order takes one off, and after the second the pc is the target. Below four levels, lap opens a level whose count is its source
capped at 2 to the 32 less 1, and lap.lr one of an eighth of the row count rounded up; the body is len + 1 bundles from the
next bundle on. A count of 0 goes on after the body and opens nothing. With four levels open the loop-depth trap is taken.
(spec/05 R150; spec/05 R153; spec/06 R182; spec/05 R152) -/
def Obligations.BranchesLandAfterTwoBundlesAndLoopsOpen : Prop :=
  (∀ (b : Bank) (i j k : Iss), i.branch = true → j.branch = false → k.branch = false →
    let b1 := b.advance i
    let b2 := b1.advance j
    let b3 := b2.advance k
    b1.pc = b.pc + 32 ∧ b2.pc = b.pc + 64 ∧ b3.pc = i.taken.getD (b.pc + 96) ∧ b3.delay = 0 ∧
      b3 = { b with pc := b3.pc, delay := 0, target := b3.pc }) ∧
  (∀ (s : State) (len : BitVec 6) (a : Src) (x : W64), a.scalarOk = true → s.scalar 6 0 a = .ok x →
    s.start.ctx.poison.contains .lrc = false → s.start.ctx.open s.start.mod.tick .lrc = false →
    (s.start.ctx.bank.depth.toNat < 4 → ∀ (i : Instr) (n : Nat) (lr : Bool),
      (i = .lap len a ∧ n = min x.toNat (2 ^ 32 - 1) ∧ lr = false) ∨
        (i = .lapLr len ∧ n = (s.start.ctx.bank.lrc.toNat + 7) / 8 ∧ lr = true) →
      (n = 0 → exec i s = .next (s.onIss fun k => { k with next := some (s.start.ctx.bank.pc + BitVec.ofNat 64 (32 * (len.toNat + 2))) })) ∧
      (n ≠ 0 → ∃ t, exec i s = .next t ∧ t.iss = { s.iss with next := some (s.start.ctx.bank.pc + 32) } ∧
        t.now = { s.now with ctx := { s.now.ctx with bank := { s.now.ctx.bank with
          loops := t.now.ctx.bank.loops, depth := s.start.ctx.bank.depth + 1 } } } ∧
        ∀ k, k < 4 → vat ⟨0, 0, false, 0⟩ t.now.ctx.bank.loops k =
          if k = s.start.ctx.bank.depth.toNat then ⟨BitVec.ofNat 32 n, BitVec.ofNat 7 (len.toNat + 1), lr, s.start.ctx.bank.pc + 32⟩
          else vat ⟨0, 0, false, 0⟩ s.now.ctx.bank.loops k)) ∧
    (s.start.ctx.bank.depth.toNat = 4 → exec (.lap len a) s = .next (s.raise ⟨11, 0, 6, 0, 0⟩) ∧
      exec (.lapLr len) s = .next (s.raise ⟨11, 0, 6, 0, 0⟩)))

/-- A phase with nothing left to publish refreshes, a barrier waits for its count, and a wait goes on at its tick. A refresh
at a scope makes the context's view hold, of every byte, what memory holds when all parties see it, and the latest store to it
when that store is published to the context within that scope; it drops what the caches hold. When the context has nothing to
publish and no remote read on its way, phase refreshes and changes nothing else but how far its earlier stores are published. bar of a legal number and count that is not the last arrival records the arrival and holds the next bundle; the
last arrival (here: a count of 1) lets the context go on with a fresh snapshot and the ceiling as its duty, and the instance
is gone. While something is still to be published the next bundle waits for that first. With its source readable, wait changes
nothing when the tick has reached it, and otherwise the bundle is held for that tick; wait.p does the same with the promised
tick. (spec/06 R184; spec/06 R185; spec/04 R109; spec/04 R110; spec/14 R352; spec/06 R186) -/
def Obligations.PhasesBarriersAndWaitsComplete : Prop :=
  (∀ (c : Ctx) (m : Mod) (b : PubSource) (sc : Scope) (a : Nat), (m.pubs.map (·.1)).Nodup →
    (tfind a m.pubs = none → Memory.read (c.refreshed m b sc).snap a = m.byte a) ∧
    (∀ p l, tfind a m.pubs = some (p :: l) → p.due b sc = true → Memory.read (c.refreshed m b sc).snap a = p.val) ∧
    (c.refreshed m b sc).l1 = [] ∧ (c.refreshed m b sc).rcache = []) ∧
  (∀ (s : State) (sc : Scope) (a b : Src) (x n : W64), a.scalarOk = true → b.scalarOk = true →
    s.scalar 6 0 a = .ok x → s.scalar 6 1 b = .ok n →
    (Published s → s.now.readsQuiet = true → ∃ t, exec (.phase sc) s = .next t ∧
      t = { s with now := { s.now with
        mod := { s.now.mod with pubs := t.now.mod.pubs }
        ctx := { s.now.ctx.refreshed t.now.mod s.now.self sc with stuck := t.now.ctx.stuck } } }) ∧
    ((s.now.publish sc (.refresh sc)).2 = false → ∃ t, exec (.phase sc) s = .next t ∧
      Pending.publish sc (.refresh sc) ∈ t.now.ctx.pending) ∧
    (let key := s.barrierKey sc x.toNat
     Published s → s.start.mod.barriers = s.now.mod.barriers → (∀ i ∈ s.now.mod.barriers, i.key ≠ key) →
      s.now.core.launch.isSome = true → s.now.xid < s.now.core.ctxs.length → x.toNat ≤ 15 →
      (sc ≠ .ctx → 2 ≤ n.toNat → n.toNat ≤ 65535 → ∃ t, exec (.bar sc a b) s = .next t ∧
        t.now.ctx.pending = [Pending.barrier key] ∧
        ⟨key, n.toNat, 1, s.now.mod.arrivalCeil (s.now.cid / 64) (s.now.core.launch.getD 0)⟩ ∈ t.now.mod.barriers ∧
        t.now.ctx.bank = s.now.ctx.bank ∧ ∀ k, t.now.mod.byte k = s.now.mod.byte k) ∧
      (n = 1 → ∃ t, exec (.bar sc a b) s = .next t ∧ t.now.ctx.pending = [] ∧
        t.now.ctx.snap = (s.now.ctx.refreshed t.now.mod s.now.self sc).snap ∧
        t.now.ctx.duty = some (s.now.mod.arrivalCeil (s.now.cid / 64) (s.now.core.launch.getD 0)) ∧
        (∀ i ∈ t.now.mod.barriers, i.key ≠ key) ∧ t.now.ctx.bank = s.now.ctx.bank ∧ ∀ k, t.now.mod.byte k = s.now.mod.byte k))) ∧
  (∀ (s : State) (a : Src) (x : W64), a.scalarOk = true → s.scalar 6 0 a = .ok x →
    (x.toNat ≤ s.now.mod.tick → exec (.wait a) s = .next s) ∧
    (s.now.mod.tick < x.toNat → ∃ t, exec (.wait a) s = .next t ∧ t.now = s.now ∧ t.iss.held = true ∧ t.iss.waitTick = some x.toNat) ∧
    (s.start.ctx.bank.ptick.toNat ≤ s.now.mod.tick → exec .waitP s = .next s) ∧
    (s.now.mod.tick < s.start.ctx.bank.ptick.toNat → ∃ t, exec .waitP s = .next t ∧ t.now = s.now ∧ t.iss.held = true))

/-- Ends, yields, user traps and spawns do to the context, its task and the handler queue what their rules say. tend with a task
held clears handle, held and effect of the user bank's status and the task record, and with none makes the context Ending;
kpoint makes the bundle a kill point; trap names a user trap with the code of its source, which is also a kill point. Nothing
else changes. When the launch has an open handler queue with room that is no event feed and the context has nothing to
publish, spawn answers a next state in which a record joins the queue, last but for this cycle's pushes of later parties, with the low bits of the source, the spawn mark, the
parent's effect and handle, the code of b and the rest of the source; the effect bit of a held task is set; memory is
unchanged. (spec/06 R190; spec/01 R33; spec/09 R296; spec/06 R191; spec/01 R28; spec/01 R32) -/
def Obligations.TasksEndTrapsAreNamedAndRecordsSpawned : Prop :=
  (∀ (s : State) (a : Src) (x : W64), a.scalarOk = true → s.scalar 6 0 a = .ok x →
    (s.start.ctx.user.status.getLsbD 32 = true → ∃ t, exec .tend s = .next t ∧
      t = s.onCtx (fun c => c.onUser fun b => { b with status := t.now.ctx.user.status, task := 0 }) ∧
      (∀ i, i < 64 → t.now.ctx.user.status.getLsbD i = if i < 34 then false else s.now.ctx.user.status.getLsbD i)) ∧
    (s.start.ctx.user.status.getLsbD 32 = false → exec .tend s = .next (s.onCtx fun c => { c with st := .ending })) ∧
    exec .kpoint s = .next (s.onIss fun i => { i with kpoint := true }) ∧
    exec (.trap a) s = .next (s.onIss fun i => { i with user := some x, kpoint := true })) ∧
  (∀ (s : State) (a b : Src) (x : VecReg) (y : W64) (die q : Nat), a.vectorOk = true → b.scalarOk = true →
    s.vector 6 0 .z64 a = .ok x → s.scalar 6 1 b = .ok y → s.rcd.hq = some (die, q) → die < 10 → Published s →
    s.start.mod = s.now.mod → (s.now.mod.queue die q).open = true → (s.now.mod.queue die q).full = false →
    (s.now.mod.queue die q).mode ≠ 2 →
    ∃ t r, exec (.spawn a b) s = .next t ∧ Appended (s.now.mod.queue die q) (t.now.mod.queue die q) s.tick s.now.selfRank r ∧
      fld r 0 49 = fld x 0 49 ∧ r.getLsbD 49 = true ∧ r.getLsbD 50 = s.start.ctx.user.status.getLsbD 33 ∧
      fld r 64 32 = s.start.ctx.user.status.toNat % 2 ^ 32 ∧ fld r 96 32 = y.toNat % 2 ^ 32 ∧ fld r 128 384 = fld x 128 384 ∧
      t.now.ctx.bank = s.now.ctx.setEffect.bank ∧ t.now.ctx.saved = s.now.ctx.setEffect.saved ∧
      ∀ k, t.now.mod.byte k = s.now.mod.byte k)

/-- Taking an exception switches to the supervisor bank at the vector of its kind, with the record in s2 to s5. A user context
whose die has a usable supervisor entry for the kind, and whose core's supervisor bank is free, enters the supervisor: its
user bank is saved whole, the supervisor bank has the kind in s0, the context number in s1 and the record in s2 to s5, its pc
is tvec + 256 × kind, it has no open loop and no pending branch, the core names the context as the holder; memory and every
other context are unchanged. In the supervisor bank, or without a usable entry, the launch ends. (spec/13 R317; spec/13 R318;
spec/13 R319; spec/15 R378) -/
def Obligations.ExceptionsEnterTheSupervisor : Prop :=
  ∀ (m : Mach) (kind sub : Nat) (rcd : BitVec 256) (op : Option EngOp), kind < 32 →
    (m.ctx.saved = none → m.enterable kind = true → m.bankTaken = false →
      let t := m.exception kind sub rcd op
      t.ctx.saved = some m.ctx.bank ∧ t.ctx.bank.pc = (m.mod.die (m.cid / 64)).tvec + BitVec.ofNat 64 (256 * kind) ∧
      t.ctx.bank.s[0].toNat = kind ∧ t.ctx.bank.s[1] = BitVec.ofNat 64 m.xid ∧
      t.ctx.bank.s[2] = rcd.extractLsb' 0 64 ∧ t.ctx.bank.s[3] = rcd.extractLsb' 64 64 ∧
      t.ctx.bank.s[4] = rcd.extractLsb' 128 64 ∧ t.ctx.bank.s[5] = rcd.extractLsb' 192 64 ∧
      (∀ n : Fin 64, 6 ≤ n.val → t.ctx.bank.s[n] = (tget Bank.zero m.cid m.mod.svBanks).s[n]) ∧
      t.ctx.bank.depth = 0 ∧ t.ctx.bank.delay = 0 ∧ t.core.svHolder = some m.xid ∧ t.ctx.svKind = kind ∧ t.ctx.svRecord = rcd ∧
      t.mod = m.mod ∧ t.core.ctxs = m.core.ctxs) ∧
    (∀ l, m.core.launch = some l → (tfind l.toNat m.mod.launches).isSome = true →
      m.ctx.saved.isSome = true ∨ m.enterable kind = false →
      tfind l.toNat (m.exception kind sub rcd op).mod.launches = none)

/-- rti with disposition 0 frees the supervisor bank and resumes the user bank as it was saved. In the supervisor bank, with a
legal disposition word in s6 that asks to resume, rti answers a next state in which the user bank is the one saved, the
supervisor bank is put back in the core and held by no context, the windows, poison and waits of the user bank are those
saved, and the bundle is marked as having redirected the context; memory is unchanged. In the user bank it takes the privilege
trap, and with an illegal word a supervisor fault. (spec/09 R297; spec/13 R319; spec/15 R379; spec/15 R380) -/
def Obligations.ReturnsResumeTheUserBank : Prop :=
  ∀ (s : State) (b : Bank) (w : W64), s.view 6 0 6 (.s 6) s.start.ctx.bank.s[6] = .ok w →
    (s.start.ctx.saved.isSome = true → dispositionOk w s.start.ctx.svKind = true → w.toNat = 0 → s.now.ctx.saved = some b →
      ∃ t, exec .rti s = .next t ∧ t.iss = { s.iss with jumped := true } ∧ t.now.ctx.bank = b ∧ t.now.ctx.saved = none ∧
        t.now.core = { s.now.core with svHolder := none } ∧ tget Bank.zero s.now.cid t.now.mod.svBanks = s.now.ctx.bank ∧
        t.now.ctx.windows = s.now.ctx.savedWin ∧ t.now.ctx.poison = s.now.ctx.savedPoison ∧
        t.now.ctx.pending = s.now.ctx.savedPend ∧ t.now.ctx.engine = s.now.ctx.engine ∧
        t.now.mod = { s.now.mod with svBanks := t.now.mod.svBanks }) ∧
    (s.start.ctx.saved = none → exec .rti s = .next (s.raise ⟨3, 6, 6, 0, 0⟩)) ∧
    (s.start.ctx.saved.isSome = true → dispositionOk w s.start.ctx.svKind = false → exec .rti s = .next (s.raise ⟨31, 0, 6, 0, 0⟩))

/-- A trap at issue leaves the machine as at the start of the bundle, with the exception taken from there. When every earlier
operation of the context has landed, a trap answers the exception of its kind taken from the machine as it was at the start of
the bundle (but for the marks that a promise-missed report and a poisoned-data record leave), so nothing that an earlier slot
of the bundle did remains; the record holds kind, sub-code, slot, pc, detail and object. Otherwise the bundle is held.
(spec/05 R144; spec/05 R148; spec/15 R375; spec/15 R377) -/
def Obligations.TrapsDiscardTheBundle : Prop :=
  ∀ (s : State) (t : Trap), t.kind ≠ 28 → t.kind ≠ 29 →
    (s.start.core.landed s.start.xid s.start.ctx = true →
      (s.raise t).now = ({ s.start with ctx := { s.start.ctx with pageFail := none, remoteFail := none } } : Mach).exception t.kind t.sub
          (trapRecord t s.start.ctx.bank.pc.toNat) ∧ (s.raise t).iss.trapped = true ∧
        (t.kind < 32 → t.sub < 256 → t.slot < 8 → t.obj < 2 ^ 24 → t.detail < 2 ^ 64 →
          let r := trapRecord t s.start.ctx.bank.pc.toNat
          fld r 0 8 = t.kind ∧ fld r 8 8 = t.sub ∧ fld r 16 3 = t.slot ∧ fld r 64 64 = s.start.ctx.bank.pc.toNat ∧
          fld r 128 64 = t.detail ∧ fld r 192 24 = t.obj)) ∧
    (s.start.core.landed s.start.xid s.start.ctx = false → (s.raise t).now = s.now ∧ (s.raise t).iss.held = true)

/-- Every slot operation with an operand of an illegal kind takes the illegal-encoding trap of its slot. For every slot operation
of the opcode table, in every state: when an operand has a kind that its description does not allow, the operation has none of
its effect and takes the illegal-encoding trap, whose sub-code and slot are those of the operation. (spec/05 R142; spec/05
R144; spec/05 R154) -/
def Obligations.IllFormedOperationsTrap : Prop :=
  ∀ (s : State) (i : Instr) (sl : Slot), slotOf i = some sl → i.wf = false →
    exec i s = .next (s.raise ⟨1, sl.num, sl.num, 0, 0⟩)

/-- A bundle of user code with a privileged operation is refused with the privilege trap; the monitor alone answers its mailbox.
For every bundle with a privileged operation, its decode in user code gives a privilege trap that names the slot of the first
one; in supervisor code only mans does. No other operation is privileged. (spec/13 R322; spec/09 R297; spec/05 R154) -/
def Obligations.PrivilegedOperationsTrapInUserCode : Prop :=
  ∀ (b : Bank) (u : Bundle),
    (∀ o ∈ u.ops, o.2.isPrivileged = true → ∃ p ∈ u.ops, p.2.isPrivileged = true ∧
      decodeTrap false b u = some ⟨3, p.1.num, p.1.num, 0, 0⟩) ∧
    (∀ o ∈ u.ops, (∃ x y, o.2 = .mans x y) → ∃ n, decodeTrap true b u = some ⟨3, n, n, 0, 0⟩) ∧
    ((∀ o ∈ u.ops, o.2.isPrivileged = false) → ∀ t sv, decodeTrap sv b u = some t → t.kind = 4)

/-- An access that fails its capability check, its object check or its alignment takes the trap of the first failure. For a scalar
load or store of n bytes with readable sources: a capability that lacks the right or the bounds takes the capability trap, else an
object-table check that fails takes the protection trap, else an object offset that is no multiple of n takes the alignment
trap; none of them loads or stores anything. (spec/02 R67; spec/05 R155; spec/15 R368; spec/15 R377) -/
def Obligations.MisalignedAndOutOfBoundsAccessesTrap : Prop :=
  ∀ (s : State) (u : SU) (d : Option (Fin 64)) (e : Option (Fin 16)) (r : Fin 64) (p : Fin 8) (a b : Src) (c : Cap) (y : W64)
    (i : Instr) (n : Nat) (rights : BitVec 6),
    (i, n, rights) ∈ ([(.ldZ8 u d a b, 1, rLd), (.ldZ16 u d a b, 2, rLd), (.ldZ32 u d a b, 4, rLd), (.ldI8 u d a b, 1, rLd),
      (.ldI16 u d a b, 2, rLd), (.ldI32 u d a b, 4, rLd), (.ldI64 u d a b, 8, rLd), (.ldC128 u e a b, 16, rLd),
      (.ldNr u d p a b, 8, rLd), (.stZ8 u r a b, 1, rSt), (.stZ16 u r a b, 2, rSt), (.stZ32 u r a b, 4, rSt),
      (.stZ64 u r a b, 8, rSt)] : List (Instr × Nat × BitVec 6)) →
    a.capOk = true → b.scalarOk = true → s.cap (slotS u) 0 a = .ok c → s.scalar (slotS u) 1 b = .ok y →
    let off : Int := capOffset c + y.toInt
    let obj := capObject c
    (∀ k, checkCap c y.toInt n rights = some k → ∃ detail, exec i s = .next (s.raise ⟨5, k, slotS u, detail, obj⟩)) ∧
    (checkCap c y.toInt n rights = none →
      (∀ k, s.start.mod.protect obj off n rights (capRights c) s.part s.sv = some k →
        ∃ detail, exec i s = .next (s.raise ⟨24, k, slotS u, detail, obj⟩)) ∧
      (s.start.mod.protect obj off n rights (capRights c) s.part s.sv = none → off % n ≠ 0 →
        exec i s = .next (s.raise ⟨6, 0, slotS u, off.toNat % 2 ^ 64, obj⟩)))

/-- Guarded floating vector operations act on each active lane, rounded once, and keep the other lanes. With its sources, guard
and destination readable, each floating operation of two sources answers a next state in which every active lane of the
destination holds the exact result of the decoded lanes, rounded once to nearest even, and every inactive lane its old value;
guard p0 makes every lane active; lanes of 32 bits take the predicate bit of their lowest 16-bit lane. Nothing else changes.
With its source, guard and destination readable, each floating operation of one source answers a next state in which every
active lane holds its function of the decoded lane, encoded to nearest even, and every inactive lane its old value; nothing
else changes. exp2 carries the model's own precision beyond the bits the manual fixes (log 12). (spec/07 R192; spec/07 R194;
spec/03 R76; spec/03 R85; spec/07 R195; spec/07 R196) -/
def Obligations.VectorFloatOperationsComplete : Prop :=
  (∀ (s : State) (u : VU) (r : Fin 32) (g : Fin 8) (a b : Src) (p : Pred) (x y z : VecReg), a.vectorOk = true → b.vectorOk = true →
    s.guard (slotV u) 4 g = .ok p → s.dataV (slotV u) 2 r = .ok z →
    (s.vector (slotV u) 0 .f32 a = .ok x → s.vector (slotV u) 1 .f32 b = .ok y →
      ∃ v : VecReg, (∀ i, i < 64 → lane 32 v i = if g = 0 ∨ p.getLsbD (2 * i) = true then encodeNum .f32 (Machine.Num.add (decodeNum .f32 (lane 32 x i)) (decodeNum .f32 (lane 32 y i))) .rne false else lane 32 z i) ∧
        GivesV s (exec (.vaddF32 u (some r) g a b) s) (slotV u) 4 (some r) v) ∧
    (s.vector (slotV u) 0 .f32 a = .ok x → s.vector (slotV u) 1 .f32 b = .ok y →
      ∃ v : VecReg, (∀ i, i < 64 → lane 32 v i = if g = 0 ∨ p.getLsbD (2 * i) = true then encodeNum .f32 (Machine.Num.add (decodeNum .f32 (lane 32 x i)) (Machine.Num.neg (decodeNum .f32 (lane 32 y i)))) .rne false else lane 32 z i) ∧
        GivesV s (exec (.vsubF32 u (some r) g a b) s) (slotV u) 4 (some r) v) ∧
    (s.vector (slotV u) 0 .f32 a = .ok x → s.vector (slotV u) 1 .f32 b = .ok y →
      ∃ v : VecReg, (∀ i, i < 64 → lane 32 v i = if g = 0 ∨ p.getLsbD (2 * i) = true then encodeNum .f32 (Machine.Num.mul (decodeNum .f32 (lane 32 x i)) (decodeNum .f32 (lane 32 y i))) .rne false else lane 32 z i) ∧
        GivesV s (exec (.vmulF32 u (some r) g a b) s) (slotV u) 4 (some r) v) ∧
    (s.vector (slotV u) 0 .f32 a = .ok x → s.vector (slotV u) 1 .f32 b = .ok y →
      ∃ v : VecReg, (∀ i, i < 64 → lane 32 v i = if g = 0 ∨ p.getLsbD (2 * i) = true then encodeNum .f32 (Machine.Num.min (decodeNum .f32 (lane 32 x i)) (decodeNum .f32 (lane 32 y i))) .rne false else lane 32 z i) ∧
        GivesV s (exec (.vminF32 u (some r) g a b) s) (slotV u) 4 (some r) v) ∧
    (s.vector (slotV u) 0 .f32 a = .ok x → s.vector (slotV u) 1 .f32 b = .ok y →
      ∃ v : VecReg, (∀ i, i < 64 → lane 32 v i = if g = 0 ∨ p.getLsbD (2 * i) = true then encodeNum .f32 (Machine.Num.max (decodeNum .f32 (lane 32 x i)) (decodeNum .f32 (lane 32 y i))) .rne false else lane 32 z i) ∧
        GivesV s (exec (.vmaxF32 u (some r) g a b) s) (slotV u) 4 (some r) v) ∧
    (s.vector (slotV u) 0 .f32 a = .ok x → s.vector (slotV u) 1 .f32 b = .ok y →
      ∃ v : VecReg, (∀ i, i < 64 → lane 32 v i = if g = 0 ∨ p.getLsbD (2 * i) = true then encodeNum .f32 (Machine.Num.add (Machine.Num.mul (decodeNum .f32 (lane 32 x i)) (decodeNum .f32 (lane 32 y i))) (decodeNum .f32 (lane 32 z i))) .rne false else lane 32 z i) ∧
        GivesV s (exec (.vfmaF32 u r g a b) s) (slotV u) 4 (some r) v) ∧
    (s.vector (slotV u) 0 .bf16 a = .ok x → s.vector (slotV u) 1 .bf16 b = .ok y →
      ∃ v : VecReg, (∀ i, i < 128 → lane 16 v i = if g = 0 ∨ p.getLsbD (1 * i) = true then encodeNum .bf16 (Machine.Num.add (decodeNum .bf16 (lane 16 x i)) (decodeNum .bf16 (lane 16 y i))) .rne false else lane 16 z i) ∧
        GivesV s (exec (.vaddBf16 u (some r) g a b) s) (slotV u) 4 (some r) v) ∧
    (s.vector (slotV u) 0 .bf16 a = .ok x → s.vector (slotV u) 1 .bf16 b = .ok y →
      ∃ v : VecReg, (∀ i, i < 128 → lane 16 v i = if g = 0 ∨ p.getLsbD (1 * i) = true then encodeNum .bf16 (Machine.Num.add (decodeNum .bf16 (lane 16 x i)) (Machine.Num.neg (decodeNum .bf16 (lane 16 y i)))) .rne false else lane 16 z i) ∧
        GivesV s (exec (.vsubBf16 u (some r) g a b) s) (slotV u) 4 (some r) v) ∧
    (s.vector (slotV u) 0 .bf16 a = .ok x → s.vector (slotV u) 1 .bf16 b = .ok y →
      ∃ v : VecReg, (∀ i, i < 128 → lane 16 v i = if g = 0 ∨ p.getLsbD (1 * i) = true then encodeNum .bf16 (Machine.Num.mul (decodeNum .bf16 (lane 16 x i)) (decodeNum .bf16 (lane 16 y i))) .rne false else lane 16 z i) ∧
        GivesV s (exec (.vmulBf16 u (some r) g a b) s) (slotV u) 4 (some r) v) ∧
    (s.vector (slotV u) 0 .bf16 a = .ok x → s.vector (slotV u) 1 .bf16 b = .ok y →
      ∃ v : VecReg, (∀ i, i < 128 → lane 16 v i = if g = 0 ∨ p.getLsbD (1 * i) = true then encodeNum .bf16 (Machine.Num.min (decodeNum .bf16 (lane 16 x i)) (decodeNum .bf16 (lane 16 y i))) .rne false else lane 16 z i) ∧
        GivesV s (exec (.vminBf16 u (some r) g a b) s) (slotV u) 4 (some r) v) ∧
    (s.vector (slotV u) 0 .bf16 a = .ok x → s.vector (slotV u) 1 .bf16 b = .ok y →
      ∃ v : VecReg, (∀ i, i < 128 → lane 16 v i = if g = 0 ∨ p.getLsbD (1 * i) = true then encodeNum .bf16 (Machine.Num.max (decodeNum .bf16 (lane 16 x i)) (decodeNum .bf16 (lane 16 y i))) .rne false else lane 16 z i) ∧
        GivesV s (exec (.vmaxBf16 u (some r) g a b) s) (slotV u) 4 (some r) v) ∧
    (s.vector (slotV u) 0 .bf16 a = .ok x → s.vector (slotV u) 1 .bf16 b = .ok y →
      ∃ v : VecReg, (∀ i, i < 128 → lane 16 v i = if g = 0 ∨ p.getLsbD (1 * i) = true then encodeNum .bf16 (Machine.Num.add (Machine.Num.mul (decodeNum .bf16 (lane 16 x i)) (decodeNum .bf16 (lane 16 y i))) (decodeNum .bf16 (lane 16 z i))) .rne false else lane 16 z i) ∧
        GivesV s (exec (.vfmaBf16 u r g a b) s) (slotV u) 4 (some r) v)) ∧
  (∀ (s : State) (u : VU) (r : Fin 32) (g : Fin 8) (a b : Src) (p : Pred) (x y z : VecReg), a.vectorOk = true → b.vectorOk = true →
    s.guard (slotV u) 4 g = .ok p → s.dataV (slotV u) 2 r = .ok z →
    (s.vector (slotV u) 0 .f32 a = .ok x → s.vector (slotV u) 1 .f32 b = .ok y →
      ∃ v : VecReg, (∀ i, i < 64 → lane 32 v i = if g = 0 ∨ p.getLsbD (2 * i) = true then encodeNum .f32 (Machine.Num.abs (decodeNum .f32 (lane 32 x i))) .rne false else lane 32 z i) ∧
        GivesV s (exec (.vabsF32 u (some r) g a) s) (slotV u) 2 (some r) v) ∧
    (s.vector (slotV u) 0 .f32 a = .ok x → s.vector (slotV u) 1 .f32 b = .ok y →
      ∃ v : VecReg, (∀ i, i < 64 → lane 32 v i = if g = 0 ∨ p.getLsbD (2 * i) = true then encodeNum .f32 (Machine.Num.neg (decodeNum .f32 (lane 32 x i))) .rne false else lane 32 z i) ∧
        GivesV s (exec (.vnegF32 u (some r) g a) s) (slotV u) 2 (some r) v) ∧
    (s.vector (slotV u) 0 .f32 a = .ok x → s.vector (slotV u) 1 .f32 b = .ok y →
      ∃ v : VecReg, (∀ i, i < 64 → lane 32 v i = if g = 0 ∨ p.getLsbD (2 * i) = true then encodeNum .f32 (exp2Num (decodeNum .f32 (lane 32 x i))) .rne false else lane 32 z i) ∧
        GivesV s (exec (.vexp2F32 u (some r) g a) s) (slotV u) 8 (some r) v) ∧
    (s.vector (slotV u) 0 .f32 a = .ok x → s.vector (slotV u) 1 .f32 b = .ok y →
      ∃ v : VecReg, (∀ i, i < 64 → lane 32 v i = if g = 0 ∨ p.getLsbD (2 * i) = true then encodeNum .f32 (rcpNum (decodeNum .f32 (lane 32 x i))) .rne false else lane 32 z i) ∧
        GivesV s (exec (.vrcpF32 u (some r) g a) s) (slotV u) 8 (some r) v) ∧
    (s.vector (slotV u) 0 .f32 a = .ok x → s.vector (slotV u) 1 .f32 b = .ok y →
      ∃ v : VecReg, (∀ i, i < 64 → lane 32 v i = if g = 0 ∨ p.getLsbD (2 * i) = true then encodeNum .f32 (rsqrtNum (decodeNum .f32 (lane 32 x i))) .rne false else lane 32 z i) ∧
        GivesV s (exec (.vrsqrtF32 u (some r) g a) s) (slotV u) 8 (some r) v) ∧
    (s.vector (slotV u) 0 .bf16 a = .ok x → s.vector (slotV u) 1 .bf16 b = .ok y →
      ∃ v : VecReg, (∀ i, i < 128 → lane 16 v i = if g = 0 ∨ p.getLsbD (1 * i) = true then encodeNum .bf16 (Machine.Num.abs (decodeNum .bf16 (lane 16 x i))) .rne false else lane 16 z i) ∧
        GivesV s (exec (.vabsBf16 u (some r) g a) s) (slotV u) 2 (some r) v) ∧
    (s.vector (slotV u) 0 .bf16 a = .ok x → s.vector (slotV u) 1 .bf16 b = .ok y →
      ∃ v : VecReg, (∀ i, i < 128 → lane 16 v i = if g = 0 ∨ p.getLsbD (1 * i) = true then encodeNum .bf16 (Machine.Num.neg (decodeNum .bf16 (lane 16 x i))) .rne false else lane 16 z i) ∧
        GivesV s (exec (.vnegBf16 u (some r) g a) s) (slotV u) 2 (some r) v) ∧
    (s.vector (slotV u) 0 .bf16 a = .ok x → s.vector (slotV u) 1 .bf16 b = .ok y →
      ∃ v : VecReg, (∀ i, i < 128 → lane 16 v i = if g = 0 ∨ p.getLsbD (1 * i) = true then encodeNum .bf16 (exp2Num (decodeNum .bf16 (lane 16 x i))) .rne false else lane 16 z i) ∧
        GivesV s (exec (.vexp2Bf16 u (some r) g a) s) (slotV u) 8 (some r) v) ∧
    (s.vector (slotV u) 0 .bf16 a = .ok x → s.vector (slotV u) 1 .bf16 b = .ok y →
      ∃ v : VecReg, (∀ i, i < 128 → lane 16 v i = if g = 0 ∨ p.getLsbD (1 * i) = true then encodeNum .bf16 (rcpNum (decodeNum .bf16 (lane 16 x i))) .rne false else lane 16 z i) ∧
        GivesV s (exec (.vrcpBf16 u (some r) g a) s) (slotV u) 8 (some r) v) ∧
    (s.vector (slotV u) 0 .bf16 a = .ok x → s.vector (slotV u) 1 .bf16 b = .ok y →
      ∃ v : VecReg, (∀ i, i < 128 → lane 16 v i = if g = 0 ∨ p.getLsbD (1 * i) = true then encodeNum .bf16 (rsqrtNum (decodeNum .bf16 (lane 16 x i))) .rne false else lane 16 z i) ∧
        GivesV s (exec (.vrsqrtBf16 u (some r) g a) s) (slotV u) 8 (some r) v))

/-- Integer vector operations compute each lane modulo its width or clamped; logic works on all bits, shifts on each lane. With
both sources readable, each integer add, subtract, product, minimum and maximum gives the exact result of the lanes modulo 2
to the lane width, the saturating forms the result clamped to the type; nothing else changes. With its sources readable, each
bitwise operation gives its bitwise result and each shift moves every lane by the unsigned count in the same lane of b, so
that a count of the width or more gives 0, or the sign in every bit; nothing else changes. (spec/07 R197; spec/03 R84; spec/07
R198; spec/07 R199) -/
def Obligations.VectorIntegerOperationsComplete : Prop :=
  (∀ (s : State) (u : VU) (d : Option (Fin 32)) (a b : Src) (x y : VecReg), a.vectorOk = true → b.vectorOk = true →
    (s.vector (slotV u) 0 .i16 a = .ok x → s.vector (slotV u) 1 .i16 b = .ok y →
      ∃ v : VecReg, (∀ i, i < 128 → lane 16 v i = (BitVec.ofInt 16 ((BitVec.ofNat 16 (lane 16 x i)).toInt + (BitVec.ofNat 16 (lane 16 y i)).toInt)).toNat) ∧
        GivesV s (exec (.vaddI16 u d a b) s) (slotV u) 2 d v) ∧
    (s.vector (slotV u) 0 .i16 a = .ok x → s.vector (slotV u) 1 .i16 b = .ok y →
      ∃ v : VecReg, (∀ i, i < 128 → lane 16 v i = (BitVec.ofInt 16 ((BitVec.ofNat 16 (lane 16 x i)).toInt - (BitVec.ofNat 16 (lane 16 y i)).toInt)).toNat) ∧
        GivesV s (exec (.vsubI16 u d a b) s) (slotV u) 2 d v) ∧
    (s.vector (slotV u) 0 .i16 a = .ok x → s.vector (slotV u) 1 .i16 b = .ok y →
      ∃ v : VecReg, (∀ i, i < 128 → lane 16 v i = (BitVec.ofInt 16 ((BitVec.ofNat 16 (lane 16 x i)).toInt * (BitVec.ofNat 16 (lane 16 y i)).toInt)).toNat) ∧
        GivesV s (exec (.vmulI16 u d a b) s) (slotV u) 4 d v) ∧
    (s.vector (slotV u) 0 .i16 a = .ok x → s.vector (slotV u) 1 .i16 b = .ok y →
      ∃ v : VecReg, (∀ i, i < 128 → lane 16 v i = (BitVec.ofInt 16 (min (BitVec.ofNat 16 (lane 16 x i)).toInt (BitVec.ofNat 16 (lane 16 y i)).toInt)).toNat) ∧
        GivesV s (exec (.vminI16 u d a b) s) (slotV u) 2 d v) ∧
    (s.vector (slotV u) 0 .i16 a = .ok x → s.vector (slotV u) 1 .i16 b = .ok y →
      ∃ v : VecReg, (∀ i, i < 128 → lane 16 v i = (BitVec.ofInt 16 (max (BitVec.ofNat 16 (lane 16 x i)).toInt (BitVec.ofNat 16 (lane 16 y i)).toInt)).toNat) ∧
        GivesV s (exec (.vmaxI16 u d a b) s) (slotV u) 2 d v) ∧
    (s.vector (slotV u) 0 .i16 a = .ok x → s.vector (slotV u) 1 .i16 b = .ok y →
      ∃ v : VecReg, (∀ i, i < 128 → lane 16 v i = (BitVec.ofInt 16 (max (-2 ^ 15) (min (2 ^ 15 - 1) ((BitVec.ofNat 16 (lane 16 x i)).toInt + (BitVec.ofNat 16 (lane 16 y i)).toInt)))).toNat) ∧
        GivesV s (exec (.vaddsI16 u d a b) s) (slotV u) 2 d v) ∧
    (s.vector (slotV u) 0 .i16 a = .ok x → s.vector (slotV u) 1 .i16 b = .ok y →
      ∃ v : VecReg, (∀ i, i < 128 → lane 16 v i = (BitVec.ofInt 16 (max (-2 ^ 15) (min (2 ^ 15 - 1) ((BitVec.ofNat 16 (lane 16 x i)).toInt - (BitVec.ofNat 16 (lane 16 y i)).toInt)))).toNat) ∧
        GivesV s (exec (.vsubsI16 u d a b) s) (slotV u) 2 d v) ∧
    (s.vector (slotV u) 0 .i32 a = .ok x → s.vector (slotV u) 1 .i32 b = .ok y →
      ∃ v : VecReg, (∀ i, i < 64 → lane 32 v i = (BitVec.ofInt 32 ((BitVec.ofNat 32 (lane 32 x i)).toInt + (BitVec.ofNat 32 (lane 32 y i)).toInt)).toNat) ∧
        GivesV s (exec (.vaddI32 u d a b) s) (slotV u) 2 d v) ∧
    (s.vector (slotV u) 0 .i32 a = .ok x → s.vector (slotV u) 1 .i32 b = .ok y →
      ∃ v : VecReg, (∀ i, i < 64 → lane 32 v i = (BitVec.ofInt 32 ((BitVec.ofNat 32 (lane 32 x i)).toInt - (BitVec.ofNat 32 (lane 32 y i)).toInt)).toNat) ∧
        GivesV s (exec (.vsubI32 u d a b) s) (slotV u) 2 d v) ∧
    (s.vector (slotV u) 0 .i32 a = .ok x → s.vector (slotV u) 1 .i32 b = .ok y →
      ∃ v : VecReg, (∀ i, i < 64 → lane 32 v i = (BitVec.ofInt 32 ((BitVec.ofNat 32 (lane 32 x i)).toInt * (BitVec.ofNat 32 (lane 32 y i)).toInt)).toNat) ∧
        GivesV s (exec (.vmulI32 u d a b) s) (slotV u) 4 d v) ∧
    (s.vector (slotV u) 0 .i32 a = .ok x → s.vector (slotV u) 1 .i32 b = .ok y →
      ∃ v : VecReg, (∀ i, i < 64 → lane 32 v i = (BitVec.ofInt 32 (min (BitVec.ofNat 32 (lane 32 x i)).toInt (BitVec.ofNat 32 (lane 32 y i)).toInt)).toNat) ∧
        GivesV s (exec (.vminI32 u d a b) s) (slotV u) 2 d v) ∧
    (s.vector (slotV u) 0 .i32 a = .ok x → s.vector (slotV u) 1 .i32 b = .ok y →
      ∃ v : VecReg, (∀ i, i < 64 → lane 32 v i = (BitVec.ofInt 32 (max (BitVec.ofNat 32 (lane 32 x i)).toInt (BitVec.ofNat 32 (lane 32 y i)).toInt)).toNat) ∧
        GivesV s (exec (.vmaxI32 u d a b) s) (slotV u) 2 d v) ∧
    (s.vector (slotV u) 0 .i32 a = .ok x → s.vector (slotV u) 1 .i32 b = .ok y →
      ∃ v : VecReg, (∀ i, i < 64 → lane 32 v i = (BitVec.ofInt 32 (max (-2 ^ 31) (min (2 ^ 31 - 1) ((BitVec.ofNat 32 (lane 32 x i)).toInt + (BitVec.ofNat 32 (lane 32 y i)).toInt)))).toNat) ∧
        GivesV s (exec (.vaddsI32 u d a b) s) (slotV u) 2 d v) ∧
    (s.vector (slotV u) 0 .i32 a = .ok x → s.vector (slotV u) 1 .i32 b = .ok y →
      ∃ v : VecReg, (∀ i, i < 64 → lane 32 v i = (BitVec.ofInt 32 (max (-2 ^ 31) (min (2 ^ 31 - 1) ((BitVec.ofNat 32 (lane 32 x i)).toInt - (BitVec.ofNat 32 (lane 32 y i)).toInt)))).toNat) ∧
        GivesV s (exec (.vsubsI32 u d a b) s) (slotV u) 2 d v) ∧
    (s.vector (slotV u) 0 .z16 a = .ok x → s.vector (slotV u) 1 .z16 b = .ok y →
      ∃ v : VecReg, (∀ i, i < 128 → lane 16 v i = (BitVec.ofInt 16 (((lane 16 x i : Nat) : Int) + ((lane 16 y i : Nat) : Int))).toNat) ∧
        GivesV s (exec (.vaddZ16 u d a b) s) (slotV u) 2 d v) ∧
    (s.vector (slotV u) 0 .z16 a = .ok x → s.vector (slotV u) 1 .z16 b = .ok y →
      ∃ v : VecReg, (∀ i, i < 128 → lane 16 v i = (BitVec.ofInt 16 (((lane 16 x i : Nat) : Int) - ((lane 16 y i : Nat) : Int))).toNat) ∧
        GivesV s (exec (.vsubZ16 u d a b) s) (slotV u) 2 d v) ∧
    (s.vector (slotV u) 0 .z16 a = .ok x → s.vector (slotV u) 1 .z16 b = .ok y →
      ∃ v : VecReg, (∀ i, i < 128 → lane 16 v i = (BitVec.ofInt 16 (((lane 16 x i : Nat) : Int) * ((lane 16 y i : Nat) : Int))).toNat) ∧
        GivesV s (exec (.vmulZ16 u d a b) s) (slotV u) 4 d v) ∧
    (s.vector (slotV u) 0 .z16 a = .ok x → s.vector (slotV u) 1 .z16 b = .ok y →
      ∃ v : VecReg, (∀ i, i < 128 → lane 16 v i = (BitVec.ofInt 16 (min ((lane 16 x i : Nat) : Int) ((lane 16 y i : Nat) : Int))).toNat) ∧
        GivesV s (exec (.vminZ16 u d a b) s) (slotV u) 2 d v) ∧
    (s.vector (slotV u) 0 .z16 a = .ok x → s.vector (slotV u) 1 .z16 b = .ok y →
      ∃ v : VecReg, (∀ i, i < 128 → lane 16 v i = (BitVec.ofInt 16 (max ((lane 16 x i : Nat) : Int) ((lane 16 y i : Nat) : Int))).toNat) ∧
        GivesV s (exec (.vmaxZ16 u d a b) s) (slotV u) 2 d v) ∧
    (s.vector (slotV u) 0 .z16 a = .ok x → s.vector (slotV u) 1 .z16 b = .ok y →
      ∃ v : VecReg, (∀ i, i < 128 → lane 16 v i = (BitVec.ofInt 16 (max (0) (min (2 ^ 16 - 1) (((lane 16 x i : Nat) : Int) + ((lane 16 y i : Nat) : Int))))).toNat) ∧
        GivesV s (exec (.vaddsZ16 u d a b) s) (slotV u) 2 d v) ∧
    (s.vector (slotV u) 0 .z16 a = .ok x → s.vector (slotV u) 1 .z16 b = .ok y →
      ∃ v : VecReg, (∀ i, i < 128 → lane 16 v i = (BitVec.ofInt 16 (max (0) (min (2 ^ 16 - 1) (((lane 16 x i : Nat) : Int) - ((lane 16 y i : Nat) : Int))))).toNat) ∧
        GivesV s (exec (.vsubsZ16 u d a b) s) (slotV u) 2 d v) ∧
    (s.vector (slotV u) 0 .z32 a = .ok x → s.vector (slotV u) 1 .z32 b = .ok y →
      ∃ v : VecReg, (∀ i, i < 64 → lane 32 v i = (BitVec.ofInt 32 (((lane 32 x i : Nat) : Int) + ((lane 32 y i : Nat) : Int))).toNat) ∧
        GivesV s (exec (.vaddZ32 u d a b) s) (slotV u) 2 d v) ∧
    (s.vector (slotV u) 0 .z32 a = .ok x → s.vector (slotV u) 1 .z32 b = .ok y →
      ∃ v : VecReg, (∀ i, i < 64 → lane 32 v i = (BitVec.ofInt 32 (((lane 32 x i : Nat) : Int) - ((lane 32 y i : Nat) : Int))).toNat) ∧
        GivesV s (exec (.vsubZ32 u d a b) s) (slotV u) 2 d v) ∧
    (s.vector (slotV u) 0 .z32 a = .ok x → s.vector (slotV u) 1 .z32 b = .ok y →
      ∃ v : VecReg, (∀ i, i < 64 → lane 32 v i = (BitVec.ofInt 32 (((lane 32 x i : Nat) : Int) * ((lane 32 y i : Nat) : Int))).toNat) ∧
        GivesV s (exec (.vmulZ32 u d a b) s) (slotV u) 4 d v) ∧
    (s.vector (slotV u) 0 .z32 a = .ok x → s.vector (slotV u) 1 .z32 b = .ok y →
      ∃ v : VecReg, (∀ i, i < 64 → lane 32 v i = (BitVec.ofInt 32 (min ((lane 32 x i : Nat) : Int) ((lane 32 y i : Nat) : Int))).toNat) ∧
        GivesV s (exec (.vminZ32 u d a b) s) (slotV u) 2 d v) ∧
    (s.vector (slotV u) 0 .z32 a = .ok x → s.vector (slotV u) 1 .z32 b = .ok y →
      ∃ v : VecReg, (∀ i, i < 64 → lane 32 v i = (BitVec.ofInt 32 (max ((lane 32 x i : Nat) : Int) ((lane 32 y i : Nat) : Int))).toNat) ∧
        GivesV s (exec (.vmaxZ32 u d a b) s) (slotV u) 2 d v) ∧
    (s.vector (slotV u) 0 .z32 a = .ok x → s.vector (slotV u) 1 .z32 b = .ok y →
      ∃ v : VecReg, (∀ i, i < 64 → lane 32 v i = (BitVec.ofInt 32 (max (0) (min (2 ^ 32 - 1) (((lane 32 x i : Nat) : Int) + ((lane 32 y i : Nat) : Int))))).toNat) ∧
        GivesV s (exec (.vaddsZ32 u d a b) s) (slotV u) 2 d v) ∧
    (s.vector (slotV u) 0 .z32 a = .ok x → s.vector (slotV u) 1 .z32 b = .ok y →
      ∃ v : VecReg, (∀ i, i < 64 → lane 32 v i = (BitVec.ofInt 32 (max (0) (min (2 ^ 32 - 1) (((lane 32 x i : Nat) : Int) - ((lane 32 y i : Nat) : Int))))).toNat) ∧
        GivesV s (exec (.vsubsZ32 u d a b) s) (slotV u) 2 d v)) ∧
  (∀ (s : State) (u : VU) (d : Option (Fin 32)) (a b : Src) (x y : VecReg), a.vectorOk = true → b.vectorOk = true →
    (s.vector (slotV u) 0 .i16 a = .ok x → s.vector (slotV u) 1 .i16 b = .ok y →
      GivesV s (exec (.vand u d a b) s) (slotV u) 1 d (x &&& y)) ∧
    (s.vector (slotV u) 0 .i16 a = .ok x → s.vector (slotV u) 1 .i16 b = .ok y →
      GivesV s (exec (.vor u d a b) s) (slotV u) 1 d (x ||| y)) ∧
    (s.vector (slotV u) 0 .i16 a = .ok x → s.vector (slotV u) 1 .i16 b = .ok y →
      GivesV s (exec (.vxor u d a b) s) (slotV u) 1 d (x ^^^ y)) ∧
    (s.vector (slotV u) 0 .i16 a = .ok x → s.vector (slotV u) 1 .i16 b = .ok y →
      GivesV s (exec (.vandn u d a b) s) (slotV u) 1 d (x &&& ~~~y)) ∧
    (s.vector (slotV u) 0 .i16 a = .ok x → GivesV s (exec (.vnot u d a) s) (slotV u) 1 d (~~~x)) ∧
    (s.vector (slotV u) 0 .z16 a = .ok x → s.vector (slotV u) 1 .z16 b = .ok y →
      ∃ v : VecReg, (∀ i, i < 128 → lane 16 v i = lane 16 x i * 2 ^ lane 16 y i % 2 ^ 16) ∧ GivesV s (exec (.vshlW16 u d a b) s) (slotV u) 2 d v) ∧
    (s.vector (slotV u) 0 .z16 a = .ok x → s.vector (slotV u) 1 .z16 b = .ok y →
      ∃ v : VecReg, (∀ i, i < 128 → lane 16 v i = lane 16 x i / 2 ^ lane 16 y i) ∧ GivesV s (exec (.vshrW16 u d a b) s) (slotV u) 2 d v) ∧
    (s.vector (slotV u) 0 .z16 a = .ok x → s.vector (slotV u) 1 .z16 b = .ok y →
      ∃ v : VecReg, (∀ i, i < 128 → lane 16 v i = (BitVec.ofInt 16 ((BitVec.ofNat 16 (lane 16 x i)).toInt / 2 ^ lane 16 y i)).toNat) ∧ GivesV s (exec (.vsarW16 u d a b) s) (slotV u) 2 d v) ∧
    (s.vector (slotV u) 0 .z32 a = .ok x → s.vector (slotV u) 1 .z32 b = .ok y →
      ∃ v : VecReg, (∀ i, i < 64 → lane 32 v i = lane 32 x i * 2 ^ lane 32 y i % 2 ^ 32) ∧ GivesV s (exec (.vshlW32 u d a b) s) (slotV u) 2 d v) ∧
    (s.vector (slotV u) 0 .z32 a = .ok x → s.vector (slotV u) 1 .z32 b = .ok y →
      ∃ v : VecReg, (∀ i, i < 64 → lane 32 v i = lane 32 x i / 2 ^ lane 32 y i) ∧ GivesV s (exec (.vshrW32 u d a b) s) (slotV u) 2 d v) ∧
    (s.vector (slotV u) 0 .z32 a = .ok x → s.vector (slotV u) 1 .z32 b = .ok y →
      ∃ v : VecReg, (∀ i, i < 64 → lane 32 v i = (BitVec.ofInt 32 ((BitVec.ofNat 32 (lane 32 x i)).toInt / 2 ^ lane 32 y i)).toNat) ∧ GivesV s (exec (.vsarW32 u d a b) s) (slotV u) 2 d v))

/-- Vector compares write a predicate, and selects, moves and permutes place the lanes, as their rules say. With both sources
readable, each compare gives a predicate whose bit i is the relation of the lane that covers 16-bit lane i: NaN is unordered
and the zeros are equal in floating compares, integers compare as signed or unsigned. p0 keeps its value when it is the
destination; nothing else changes. With their sources readable, sel takes each 16-bit lane of a or b by the guard's bit, and
each permute takes each lane from the lane of its source that its index names, modulo the number of lanes; nothing else
changes. (spec/07 R200; spec/00 Table 00-4; spec/07 R201; spec/07 R202) -/
def Obligations.VectorComparesSelectsAndPermutesComplete : Prop :=
  (∀ (s : State) (u : VU) (d : Option (Fin 24)) (a b : Src) (x y : VecReg), a.vectorOk = true → b.vectorOk = true →
    (s.vector (slotV u) 0 .f32 a = .ok x → s.vector (slotV u) 1 .f32 b = .ok y →
      ∃ v : Pred, (∀ i, i < 128 → v.getLsbD i = Machine.Num.eqv (decodeNum .f32 (lane 32 x (i / 2))) (decodeNum .f32 (lane 32 y (i / 2)))) ∧ GivesP s (exec (.vceqF32 u d a b) s) (slotV u) 1 d v) ∧
    (s.vector (slotV u) 0 .f32 a = .ok x → s.vector (slotV u) 1 .f32 b = .ok y →
      ∃ v : Pred, (∀ i, i < 128 → v.getLsbD i = !Machine.Num.eqv (decodeNum .f32 (lane 32 x (i / 2))) (decodeNum .f32 (lane 32 y (i / 2)))) ∧ GivesP s (exec (.vcneF32 u d a b) s) (slotV u) 1 d v) ∧
    (s.vector (slotV u) 0 .f32 a = .ok x → s.vector (slotV u) 1 .f32 b = .ok y →
      ∃ v : Pred, (∀ i, i < 128 → v.getLsbD i = Machine.Num.lt (decodeNum .f32 (lane 32 x (i / 2))) (decodeNum .f32 (lane 32 y (i / 2)))) ∧ GivesP s (exec (.vcltF32 u d a b) s) (slotV u) 1 d v) ∧
    (s.vector (slotV u) 0 .f32 a = .ok x → s.vector (slotV u) 1 .f32 b = .ok y →
      ∃ v : Pred, (∀ i, i < 128 → v.getLsbD i = (Machine.Num.lt (decodeNum .f32 (lane 32 x (i / 2))) (decodeNum .f32 (lane 32 y (i / 2))) || Machine.Num.eqv (decodeNum .f32 (lane 32 x (i / 2))) (decodeNum .f32 (lane 32 y (i / 2))))) ∧ GivesP s (exec (.vcleF32 u d a b) s) (slotV u) 1 d v) ∧
    (s.vector (slotV u) 0 .f32 a = .ok x → s.vector (slotV u) 1 .f32 b = .ok y →
      ∃ v : Pred, (∀ i, i < 128 → v.getLsbD i = (Machine.Num.isNan (decodeNum .f32 (lane 32 x (i / 2))) || Machine.Num.isNan (decodeNum .f32 (lane 32 y (i / 2))))) ∧ GivesP s (exec (.vcunF32 u d a b) s) (slotV u) 1 d v) ∧
    (s.vector (slotV u) 0 .bf16 a = .ok x → s.vector (slotV u) 1 .bf16 b = .ok y →
      ∃ v : Pred, (∀ i, i < 128 → v.getLsbD i = Machine.Num.eqv (decodeNum .bf16 (lane 16 x (i / 1))) (decodeNum .bf16 (lane 16 y (i / 1)))) ∧ GivesP s (exec (.vceqBf16 u d a b) s) (slotV u) 1 d v) ∧
    (s.vector (slotV u) 0 .bf16 a = .ok x → s.vector (slotV u) 1 .bf16 b = .ok y →
      ∃ v : Pred, (∀ i, i < 128 → v.getLsbD i = !Machine.Num.eqv (decodeNum .bf16 (lane 16 x (i / 1))) (decodeNum .bf16 (lane 16 y (i / 1)))) ∧ GivesP s (exec (.vcneBf16 u d a b) s) (slotV u) 1 d v) ∧
    (s.vector (slotV u) 0 .bf16 a = .ok x → s.vector (slotV u) 1 .bf16 b = .ok y →
      ∃ v : Pred, (∀ i, i < 128 → v.getLsbD i = Machine.Num.lt (decodeNum .bf16 (lane 16 x (i / 1))) (decodeNum .bf16 (lane 16 y (i / 1)))) ∧ GivesP s (exec (.vcltBf16 u d a b) s) (slotV u) 1 d v) ∧
    (s.vector (slotV u) 0 .bf16 a = .ok x → s.vector (slotV u) 1 .bf16 b = .ok y →
      ∃ v : Pred, (∀ i, i < 128 → v.getLsbD i = (Machine.Num.lt (decodeNum .bf16 (lane 16 x (i / 1))) (decodeNum .bf16 (lane 16 y (i / 1))) || Machine.Num.eqv (decodeNum .bf16 (lane 16 x (i / 1))) (decodeNum .bf16 (lane 16 y (i / 1))))) ∧ GivesP s (exec (.vcleBf16 u d a b) s) (slotV u) 1 d v) ∧
    (s.vector (slotV u) 0 .bf16 a = .ok x → s.vector (slotV u) 1 .bf16 b = .ok y →
      ∃ v : Pred, (∀ i, i < 128 → v.getLsbD i = (Machine.Num.isNan (decodeNum .bf16 (lane 16 x (i / 1))) || Machine.Num.isNan (decodeNum .bf16 (lane 16 y (i / 1))))) ∧ GivesP s (exec (.vcunBf16 u d a b) s) (slotV u) 1 d v) ∧
    (s.vector (slotV u) 0 .z16 a = .ok x → s.vector (slotV u) 1 .z16 b = .ok y →
      ∃ v : Pred, (∀ i, i < 128 → v.getLsbD i = decide (lane 16 x (i / 1) = lane 16 y (i / 1))) ∧ GivesP s (exec (.vceqW16 u d a b) s) (slotV u) 1 d v) ∧
    (s.vector (slotV u) 0 .z16 a = .ok x → s.vector (slotV u) 1 .z16 b = .ok y →
      ∃ v : Pred, (∀ i, i < 128 → v.getLsbD i = decide (lane 16 x (i / 1) ≠ lane 16 y (i / 1))) ∧ GivesP s (exec (.vcneW16 u d a b) s) (slotV u) 1 d v) ∧
    (s.vector (slotV u) 0 .i16 a = .ok x → s.vector (slotV u) 1 .i16 b = .ok y →
      ∃ v : Pred, (∀ i, i < 128 → v.getLsbD i = decide ((BitVec.ofNat 16 (lane 16 x (i / 1))).toInt < (BitVec.ofNat 16 (lane 16 y (i / 1))).toInt)) ∧ GivesP s (exec (.vcltI16 u d a b) s) (slotV u) 1 d v) ∧
    (s.vector (slotV u) 0 .i16 a = .ok x → s.vector (slotV u) 1 .i16 b = .ok y →
      ∃ v : Pred, (∀ i, i < 128 → v.getLsbD i = decide ((BitVec.ofNat 16 (lane 16 x (i / 1))).toInt ≤ (BitVec.ofNat 16 (lane 16 y (i / 1))).toInt)) ∧ GivesP s (exec (.vcleI16 u d a b) s) (slotV u) 1 d v) ∧
    (s.vector (slotV u) 0 .z16 a = .ok x → s.vector (slotV u) 1 .z16 b = .ok y →
      ∃ v : Pred, (∀ i, i < 128 → v.getLsbD i = decide (lane 16 x (i / 1) < lane 16 y (i / 1))) ∧ GivesP s (exec (.vcltZ16 u d a b) s) (slotV u) 1 d v) ∧
    (s.vector (slotV u) 0 .z16 a = .ok x → s.vector (slotV u) 1 .z16 b = .ok y →
      ∃ v : Pred, (∀ i, i < 128 → v.getLsbD i = decide (lane 16 x (i / 1) ≤ lane 16 y (i / 1))) ∧ GivesP s (exec (.vcleZ16 u d a b) s) (slotV u) 1 d v) ∧
    (s.vector (slotV u) 0 .z32 a = .ok x → s.vector (slotV u) 1 .z32 b = .ok y →
      ∃ v : Pred, (∀ i, i < 128 → v.getLsbD i = decide (lane 32 x (i / 2) = lane 32 y (i / 2))) ∧ GivesP s (exec (.vceqW32 u d a b) s) (slotV u) 1 d v) ∧
    (s.vector (slotV u) 0 .z32 a = .ok x → s.vector (slotV u) 1 .z32 b = .ok y →
      ∃ v : Pred, (∀ i, i < 128 → v.getLsbD i = decide (lane 32 x (i / 2) ≠ lane 32 y (i / 2))) ∧ GivesP s (exec (.vcneW32 u d a b) s) (slotV u) 1 d v) ∧
    (s.vector (slotV u) 0 .i32 a = .ok x → s.vector (slotV u) 1 .i32 b = .ok y →
      ∃ v : Pred, (∀ i, i < 128 → v.getLsbD i = decide ((BitVec.ofNat 32 (lane 32 x (i / 2))).toInt < (BitVec.ofNat 32 (lane 32 y (i / 2))).toInt)) ∧ GivesP s (exec (.vcltI32 u d a b) s) (slotV u) 1 d v) ∧
    (s.vector (slotV u) 0 .i32 a = .ok x → s.vector (slotV u) 1 .i32 b = .ok y →
      ∃ v : Pred, (∀ i, i < 128 → v.getLsbD i = decide ((BitVec.ofNat 32 (lane 32 x (i / 2))).toInt ≤ (BitVec.ofNat 32 (lane 32 y (i / 2))).toInt)) ∧ GivesP s (exec (.vcleI32 u d a b) s) (slotV u) 1 d v) ∧
    (s.vector (slotV u) 0 .z32 a = .ok x → s.vector (slotV u) 1 .z32 b = .ok y →
      ∃ v : Pred, (∀ i, i < 128 → v.getLsbD i = decide (lane 32 x (i / 2) < lane 32 y (i / 2))) ∧ GivesP s (exec (.vcltZ32 u d a b) s) (slotV u) 1 d v) ∧
    (s.vector (slotV u) 0 .z32 a = .ok x → s.vector (slotV u) 1 .z32 b = .ok y →
      ∃ v : Pred, (∀ i, i < 128 → v.getLsbD i = decide (lane 32 x (i / 2) ≤ lane 32 y (i / 2))) ∧ GivesP s (exec (.vcleZ32 u d a b) s) (slotV u) 1 d v)) ∧
  (∀ (s : State) (u : VU) (d : Option (Fin 32)) (g : Fin 8) (a b : Src) (x y : VecReg) (k : W64), a.vectorOk = true →
    (s.vector (slotV u) 0 .z16 a = .ok x → b.vectorOk = true → s.vector (slotV u) 1 .z16 b = .ok y →
      ∃ v : VecReg, (∀ i, i < 128 → lane 16 v i = lane 16 x (lane 16 y i % 128)) ∧ GivesV s (exec (.perm u d a b) s) (slotV u) 3 d v) ∧
    (s.vector (slotV u) 0 .z16 a = .ok x → b.vectorOk = true → s.vector (slotV u) 1 .z16 b = .ok y →
      ∃ v : VecReg, (∀ i, i < 128 → lane 16 v i = if i % 2 = 0 then lane 16 x (i / 2) else lane 16 y (i / 2)) ∧ GivesV s (exec (.zip u d a b) s) (slotV u) 3 d v) ∧
    (s.vector (slotV u) 0 .z16 a = .ok x → b.vectorOk = true → s.vector (slotV u) 1 .z16 b = .ok y →
      ∃ v : VecReg, (∀ i, i < 128 → lane 16 v i = if i < 64 then lane 16 x (2 * i) else lane 16 y (2 * i - 128)) ∧ GivesV s (exec (.unzip u d a b) s) (slotV u) 3 d v) ∧
    (s.vector (slotV u) 0 .z32 a = .ok x → b.vectorOk = true → s.vector (slotV u) 1 .z32 b = .ok y →
      ∃ v : VecReg, (∀ i, i < 64 → lane 32 v i = lane 32 x (lane 32 y i % 64)) ∧ GivesV s (exec (.permW32 u d a b) s) (slotV u) 3 d v) ∧
    (s.vector (slotV u) 0 .z16 a = .ok x → b.scalarOk = true → s.scalar (slotV u) 1 b = .ok k →
      ∃ v : VecReg, (∀ i, i < 128 → lane 16 v i = lane 16 x ((i + k.toNat % 128) % 128)) ∧ GivesV s (exec (.rot u d a b) s) (slotV u) 3 d v) ∧
    (s.vector (slotV u) 0 .z16 a = .ok x → b.scalarOk = true → s.scalar (slotV u) 1 b = .ok k →
      ∃ v : VecReg, (∀ i, i < 128 → lane 16 v i = lane 16 x (k.toNat % 128)) ∧ GivesV s (exec (.bcast u d a b) s) (slotV u) 3 d v) ∧
    (s.vector (slotV u) 0 .z32 a = .ok x → b.scalarOk = true → s.scalar (slotV u) 1 b = .ok k →
      ∃ v : VecReg, (∀ i, i < 64 → lane 32 v i = lane 32 x (k.toNat % 64)) ∧ GivesV s (exec (.bcastW32 u d a b) s) (slotV u) 3 d v) ∧
    (∀ p, s.guard (slotV u) 4 g = .ok p → b.vectorOk = true → s.vector (slotV u) 0 .i16 a = .ok x → s.vector (slotV u) 1 .i16 b = .ok y →
      ∃ v : VecReg, (∀ i, i < 128 → lane 16 v i = if p.getLsbD i then lane 16 x i else lane 16 y i) ∧
        GivesV s (exec (.sel u d g a b) s) (slotV u) 1 d v))

/-- Reductions give the sum in order, the dot product or the extreme of the active lanes as a scalar. With their sources, guard
and rounding readable, the floating sums and dot products add in the fixed order of the manual with each inactive lane as +0,
the integer sum is exact, and the extremes are those of the active lanes, or the type's other extreme when none is active;
nothing but the scalar destination changes. (spec/07 R203; spec/03 R97) -/
def Obligations.VectorReductionsComplete : Prop :=
  ∀ (s : State) (u : VU) (d : Option (Fin 64)) (g : Fin 8) (a b : Src) (mb : BitVec 8) (p : Pred) (x y : VecReg) (rnd : Nat → Rnd),
    a.vectorOk = true → s.guard (slotV u) 4 g = .ok p → s.rndMode (slotV u) mb = .ok rnd →
    (modeFloatOk mb = true → s.vector (slotV u) 0 .f32 a = .ok x →
      GivesS s (exec (.raddF32 u d g a mb) s) (slotV u) 10 d (BitVec.ofNat 64 (encodeNum (modeTy mb) (sumInOrder .f32 .rne
        ((List.range 64).map fun i => if g = 0 ∨ p.getLsbD (2 * i) = true then decodeNum .f32 (lane 32 x i) else .fin false 0 0)) (rnd 0) (modeSat mb)))) ∧
    (modeFloatOk mb = true → s.vector (slotV u) 0 .bf16 a = .ok x →
      GivesS s (exec (.raddBf16 u d g a mb) s) (slotV u) 10 d (BitVec.ofNat 64 (encodeNum (modeTy mb) (sumInOrder .f32 .rne
        ((List.range 128).map fun i => if g = 0 ∨ p.getLsbD (1 * i) = true then decodeNum .bf16 (lane 16 x i) else .fin false 0 0)) (rnd 0) (modeSat mb)))) ∧
    (modeIntOk mb = true → s.vector (slotV u) 0 (modeTy mb) a = .ok x →
      GivesS s (exec (.raddInt u d g a mb) s) (slotV u) 10 d (BitVec.ofInt 64 (((List.range (2048 / (modeTy mb).width)).map fun i =>
        if g = 0 ∨ p.getLsbD ((modeTy mb).width / 16 * i) = true then intOf (modeTy mb) (lane (modeTy mb).width x i) else 0).sum))) ∧
    (b.vectorOk = true → s.vector (slotV u) 0 .f32 a = .ok x → s.vector (slotV u) 1 .f32 b = .ok y →
      GivesS s (exec (.rdotF32 u d g a b) s) (slotV u) 10 d (BitVec.ofNat 64 (encodeNum .f32 (sumInOrder .f32 .rne
        ((List.range 64).map fun i => if g = 0 ∨ p.getLsbD (2 * i) = true then
          decodeNum .f32 (encodeNum .f32 (Machine.Num.mul (decodeNum .f32 (lane 32 x i)) (decodeNum .f32 (lane 32 y i))) .rne false)
          else .fin false 0 0)) .rne false))) ∧
    (b.vectorOk = true → s.vector (slotV u) 0 .bf16 a = .ok x → s.vector (slotV u) 1 .bf16 b = .ok y →
      GivesS s (exec (.rdotBf16 u d g a b) s) (slotV u) 10 d (BitVec.ofNat 64 (encodeNum .f32 (sumInOrder .f32 .rne
        ((List.range 128).map fun i => if g = 0 ∨ p.getLsbD (1 * i) = true then
          decodeNum .f32 (encodeNum .f32 (Machine.Num.mul (decodeNum .bf16 (lane 16 x i)) (decodeNum .bf16 (lane 16 y i))) .rne false)
          else .fin false 0 0)) .rne false))) ∧
    (modeMaxOk mb = true → s.vector (slotV u) 0 (modeTy mb) a = .ok x →
      GivesS s (exec (.rmax u d g a mb) s) (slotV u) 10 d
        (let on := (List.range (2048 / (modeTy mb).width)).filter fun i => decide (g = 0) || p.getLsbD ((modeTy mb).width / 16 * i)
         if (modeTy mb).isInt = true
         then BitVec.ofInt 64 ((on.map fun i => intOf (modeTy mb) (lane (modeTy mb).width x i)).foldl max (modeTy mb).minInt)
         else BitVec.ofNat 64 (encodeNum (modeTy mb) ((on.map fun i => decodeNum (modeTy mb) (lane (modeTy mb).width x i)).foldl Machine.Num.max
           (.inf true)) .rne false))) ∧
    (modeMaxOk mb = true → s.vector (slotV u) 0 (modeTy mb) a = .ok x →
      GivesS s (exec (.rmin u d g a mb) s) (slotV u) 10 d
        (let on := (List.range (2048 / (modeTy mb).width)).filter fun i => decide (g = 0) || p.getLsbD ((modeTy mb).width / 16 * i)
         if (modeTy mb).isInt = true
         then BitVec.ofInt 64 ((on.map fun i => intOf (modeTy mb) (lane (modeTy mb).width x i)).foldl min (modeTy mb).maxInt)
         else BitVec.ofNat 64 (encodeNum (modeTy mb) ((on.map fun i => decodeNum (modeTy mb) (lane (modeTy mb).width x i)).foldl Machine.Num.min
           (.inf false)) .rne false)))

/-- cvt converts each lane from one type to another under its rounding and saturation. With its source readable and a rounding
that names no random bits, cvt gives a vector whose lanes, as many as fit at the wider of the two types, hold the decoded
lanes encoded in the destination type, and whose remaining bits are 0; with stochastic rounding the same holds with the random
bits of the key and stream registers. Nothing else changes. (spec/07 R204; spec/03 R85; spec/03 R87) -/
def Obligations.VectorConversionsComplete : Prop :=
  ∀ (s : State) (u : VU) (r : Fin 32) (st : BitVec 4) (rm : BitVec 3) (sat : Bool) (dt : BitVec 4) (a : Src) (x : VecReg) (ts td : Ty)
    (rc : RndCtx), a.vectorOk = true → Ty.ofCode st.toNat = some ts → Ty.ofCode dt.toNat = some td → roundOk rm = true →
    s.vector (slotV u) 0 ts a = .ok x → (rm.toNat = 4 → s.rndCtx (slotV u) = .ok rc) → (rm.toNat ≠ 4 → rc = ⟨0, 0, 0, 0, 0⟩) →
    ∃ v : VecReg, (∀ i, i < 2048 / td.width → lane td.width v i = if i < 2048 / max ts.width td.width
        then encodeNum td (decodeNum ts (lane ts.width x i)) (rndOf rc rm.toNat i) sat ts.isInt else 0) ∧
      GivesV s (exec (.cvt u r st rm sat dt a) s) (slotV u) 4 (some r) v

/-- Every code of a number format that is no NaN encodes back to itself, whatever the rounding. For every type of Table 03-1 and
every code below 2 to its width whose value is no NaN, encoding the decoded value without saturation gives the code back,
under every rounding mode. (spec/03 R75; spec/03 R76; spec/03 R77; spec/03 R78; spec/03 R85; spec/03 R86) -/
def Obligations.FormatsReencodeTheirCodes : Prop :=
  ∀ (t : Ty) (code : Nat) (rm : Rnd) (int : Bool), code < 2 ^ t.width → decodeNum t code ≠ .nan →
    encodeNum t (decodeNum t code) rm false int = code

/-- Vector loads, stores and scratchpad accesses move 256 bytes, or a run of elements in the format of their bank. vld gives the
256 bytes loaded, vld.nr +0 and a set predicate bit for each 16-bit lane with an absent byte (p0 stays as it is), vst places 256
bytes among the unpublished stores. vlds of full clean lines of the own bank gives the elements decoded by the bank format, each
rounded to its lane (vlds.c also empties the data lines); vsts writes the encoded run and its companion bytes, vsts.f also
fills the data lines. In another core's bank each sends that core a request, a store with the very bytes that it would write.
Nothing else changes but the view of memory of a load. (spec/07 R205; spec/07 R206; spec/07 R207; spec/07 R208; spec/02 R57) -/
def Obligations.VectorMemoryAccessesComplete : Prop :=
  ∀ (s : State) (u : VU),
    (∀ (d : Option (Fin 32)) (p : Fin 8) (a b : Src), a.capOk = true → b.scalarOk = true →
      (∀ bytes gone m, s.load (slotV u) a b 256 2 false = .ok (bytes, gone, m) →
        OnlySnapshot s m ∧ GivesV m (exec (.vld u d a b) s) (slotV u) 8 d (BitVec.ofNat 2048 (leNat bytes))) ∧
      (∀ bytes gone m, s.load (slotV u) a b 256 2 true = .ok (bytes, gone, m) → OnlySnapshot s m ∧
        ∃ t v, exec (.vldNr u d p a b) s = .next t ∧
          OnlyWrites m t ((.lat (slotV u) :: (d.map WReg.v).toList) ++ [.p ⟨p.val, by omega⟩]) ∧
          (∀ i, i < 128 → lane 16 v i = if gone.getD (2 * i) false || gone.getD (2 * i + 1) false then 0
            else lane 16 (BitVec.ofNat 2048 (leNat bytes)) i) ∧
          (∀ q ∈ d, t.get (.v q) = v) ∧
          (p ≠ 0 → ∀ i, i < 128 → (t.get (.p ⟨p.val, by omega⟩)).getLsbD i = (gone.getD (2 * i) false || gone.getD (2 * i + 1) false)) ∧
          (p = 0 → t.get (.p 0) = s.get (.p 0) ∧ ∀ k, s.tick ≤ k → t.now.ctx.open k (.p 0) = s.now.ctx.open k (.p 0)))) ∧
    (∀ (r : Fin 32) (a b : Src) (z : VecReg) (c : Cap) (k : W64) (off : Nat), a.capOk = true → b.scalarOk = true →
      s.dataV (slotV u) 2 r = .ok z → s.cap (slotV u) 0 a = .ok c → s.scalar (slotV u) 1 b = .ok k →
      s.capAccess (slotV u) c k.toInt 256 2 rSt = .ok off → ∃ t, exec (.vst u r a b) s = .next t ∧
        StoredBuffered s t (capObject c) off 256 fun i => (z >>> (8 * i)).setWidth 8) ∧
    ∀ (a : Src) (mb : BitVec 8) (k : W64) q f n rnd, a.scalarOk = true → modeOk mb = true → s.scalar (slotV u) 0 a = .ok k →
      s.vecAddr (slotV u) k (2048 / (modeTy mb).width) = .ok (q, f, n) → s.rndMode (slotV u) mb = .ok rnd →
      let comp := compOffsets f s.spBank q.off n
      let raw := s.start.core.spBytesAt s.free q.off n
      (∀ (d : Option (Fin 32)), q.core = s.place → s.start.core.linesFull (linesOf q.off n ++ linesAt comp) = true →
        s.start.core.spBad q.off n = false → (∀ o ∈ comp, s.start.core.spBad o 1 = false) →
        ∃ v : VecReg, (bfTy f = none → v = BitVec.ofNat 2048 (leNat raw)) ∧
          (∀ e, bfTy f = some e → ∀ i, i < 2048 / (modeTy mb).width → ∃ x,
            (decodeRun f raw (s.start.core.spAt s.free comp))[i]? = some x ∧
            (bfBlock f = 0 → x = decodeNum e (leNat raw / 2 ^ (e.width * i) % 2 ^ e.width)) ∧
            lane (modeTy mb).width v i = encodeNum (modeTy mb) x (rnd i) (modeSat mb) e.isInt) ∧
          GivesV s (exec (.vlds u d a mb) s) (slotV u) 4 d v ∧
          GivesV (s.onCore fun k => k.setEmpty (linesOf q.off n)) (exec (.vldsC u d a mb) s) (slotV u) 4 d v) ∧
      (∀ (d : Option (Fin 32)), q.core ≠ s.place →
        exec (.vlds u d a mb) s = .next ((s.newReq.2.expect (slotV u) 24 (d.map .v) s.newReq.1).remote (slotV u) q s.newReq.1 (d.map .v)
          (.read false n (some (mb, f, s.src.s[62], s.src.s[63])))) ∧
        exec (.vldsC u d a mb) s = .next ((s.newReq.2.expect (slotV u) 24 (d.map .v) s.newReq.1).remote (slotV u) q s.newReq.1 (d.map .v)
          (.read true n (some (mb, f, s.src.s[62], s.src.s[63]))))) ∧
      ∀ (r : Fin 32) (z : VecReg) (data scales : List Byte), s.dataV (slotV u) 2 r = .ok z →
        (bfFmt f = 0 → data = leBytes 256 z.toNat ∧ scales = []) →
        (bfFmt f ≠ 0 → encodeRun f ((List.range (2048 / (modeTy mb).width)).map fun i => decodeNum (modeTy mb) (lane (modeTy mb).width z i)) rnd
            (modeSat mb || bfSat f) (modeTy mb).isInt = (data, scales)) →
        (q.core = s.place →
          exec (.vsts u r a mb) s = .next (s.onCore fun k => k.runWrite q.off data (comp.zip scales)) ∧
          exec (.vstsF u r a mb) s = .next (s.onCore fun k => (k.runWrite q.off data (comp.zip scales)).setFull (linesOf q.off n))) ∧
        (q.core ≠ s.place →
          exec (.vsts u r a mb) s = .next (s.remote (slotV u) q 0 none (.write data (comp.zip scales) false)) ∧
          exec (.vstsF u r a mb) s = .next (s.remote (slotV u) q 0 none (.write data (comp.zip scales) true)))

/-- rcupd, rcrd, rcwr, recurse and exit.c change and report the rows of their window as Table 07-7 to R221 say. With its window
word free of reserved bits and inside the row table, rcupd gives every live row of the window the action its score earns under
the thresholds and counts the actions; rcrd reads what the selector names; rcwr writes the words and returns the old ones;
recurse counts down the rows to run again; exit.c makes exited rows gaps. Each reads the rows as at the start of its bundle. Rows
outside the window, and everything else, stay as they are. (spec/07 R210; spec/07 R211; spec/07 R213; spec/07 R214; spec/07
R220; spec/07 R221) -/
def Obligations.RowControlOperationsComplete : Prop :=
  ∀ (s : State) (u : VU) (b : Src) (y : W64) (w : RowWin), b.scalarOk = true →
    s.scalar (slotV u) 1 b = .ok y → w = ⟨fld y 0 10, fld y 10 9, Fin.ofNat 4 (fld y 19 2), Fin.ofNat 4 (fld y 21 2), fld y 23 8, fld y 31 2⟩ →
    fld y 33 31 = 0 → w.row0 + w.n ≤ s.rowCount →
    (∀ (d : Option (Fin 64)) (a : Src) (x : VecReg), a.vectorOk = true → s.vector (slotV u) 0 .bf16 a = .ok x → w.n ≤ 128 → w.sel = 0 →
      ∃ c' : Cluster, OnlyRows s.clusterNow c' ∧
      (∀ r, ¬(w.row0 ≤ r ∧ r < w.row0 + w.n) ∨ rowLive (s.cluster.row r) = false → c'.row r = s.clusterNow.row r) ∧
      (∀ i, i < w.n → rowLive (s.cluster.row (w.row0 + i)) = true →
        let old := s.cluster.row (w.row0 + i)
        let new := c'.row (w.row0 + i)
        let t := s.cluster.thr[w.thr]
        let score := decodeNum .bf16 (lane 16 x i)
        let atLeast := fun lo => Machine.Num.lt (decodeNum .bf16 (fld t lo 16)) score || Machine.Num.eqv (decodeNum .bf16 (fld t lo 16)) score
        new.toNat / 64 = old.toNat / 64 ∧
        (if rowAction old = 3 ∧ 0 < rowCountdown old then new = old
         else if atLeast 0 then rowAction new = 2 ∧ rowCountdown new = rowCountdown old
         else if atLeast 16 then rowAction new = 1 ∧ rowCountdown new = rowCountdown old
         else if Machine.Num.lt score (decodeNum .bf16 (fld t 32 16)) then rowAction new = 3 ∧ rowCountdown new = fld t 48 4
         else rowAction new = 0 ∧ rowCountdown new = rowCountdown old)) ∧
      GivesS (s.onCluster fun _ => c') (exec (.rcupd u d a b) s) (slotV u) 6 d (BitVec.ofNat 64 ((upTo 4).map fun k =>
        ((upTo w.n).filter fun i => rowLive (s.cluster.row (w.row0 + i)) && decide (rowAction (c'.row (w.row0 + i)) = k)).length * 2 ^ (16 * k)).sum)) ∧
    (∀ d, w.n ≤ (if w.sel = 0 then 64 else 256) → (w.sel = 2 → w.row0 = 0 ∨ w.row0 = 128) →
      ∃ v : VecReg, GivesV s (exec (.rcrd u d b) s) (slotV u) 2 d v ∧
        (w.sel = 0 → ∀ i, i < 64 → lane 32 v i = if i < w.n then (s.cluster.row (w.row0 + i)).toNat else 0) ∧
        (w.sel = 1 → v = (s.cluster.thr[w.thr]).setWidth 2048) ∧
        (w.sel = 2 → ∀ i, i < 128 → lane 16 v i = ((s.start.core.maps[w.map]).entry (w.row0 + i)) % 2 ^ 16) ∧
        (w.sel = 3 → v.toNat = (s.start.core.maps[w.map]).header % 2 ^ 2048)) ∧
    (∀ d (a : Src) (x : VecReg), a.vectorOk = true → s.vector (slotV u) 0 .z32 a = .ok x → w.n ≤ (if w.sel = 0 then 64 else 256) →
      w.sel ≤ 1 → (w.sel = 1 → fld x 52 12 = 0) →
      ∃ (c' : Cluster) (v : VecReg), c'.fills = s.clusterNow.fills ∧ c'.serial = s.clusterNow.serial ∧ c'.filled = s.clusterNow.filled ∧
        GivesV (s.onCluster fun _ => c') (exec (.rcwr u d a b) s) (slotV u) 2 d v ∧
        (w.sel = 0 → c'.thr = s.clusterNow.thr ∧
          (∀ r, c'.row r = if w.row0 ≤ r ∧ r < w.row0 + w.n then BitVec.ofNat 32 (lane 32 x (r - w.row0)) else s.clusterNow.row r) ∧
          ∀ i, i < w.n → lane 32 v i = (s.cluster.row (w.row0 + i)).toNat) ∧
        (w.sel = 1 → (∀ r, c'.row r = s.clusterNow.row r) ∧ v = (s.cluster.thr[w.thr]).setWidth 2048 ∧
          ∀ k : Fin 4, c'.thr[k] = if k = w.thr then x.setWidth 64 else s.clusterNow.thr[k])) ∧
    (∀ d, w.n ≤ 256 → w.sel = 0 → ∃ c' : Cluster, OnlyRows s.clusterNow c' ∧
      (∀ r, if w.row0 ≤ r ∧ r < w.row0 + w.n ∧ rowLive (s.cluster.row r) = true ∧ rowAction (s.cluster.row r) = 3
        then (c'.row r).toNat / 64 = (s.cluster.row r).toNat / 64 ∧
          (if rowCountdown (s.cluster.row r) = 0 then rowAction (c'.row r) = 0 ∧ rowCountdown (c'.row r) = 0
           else rowAction (c'.row r) = 3 ∧ rowCountdown (c'.row r) = rowCountdown (s.cluster.row r) - 1)
        else c'.row r = s.clusterNow.row r) ∧
      GivesS (s.onCluster fun _ => c') (exec (.recurse u d b) s) (slotV u) 2 d (BitVec.ofNat 64 ((upTo w.n).filter fun i =>
        rowLive (s.cluster.row (w.row0 + i)) && decide (rowAction (s.cluster.row (w.row0 + i)) = 3) &&
          decide (0 < rowCountdown (s.cluster.row (w.row0 + i)))).length)) ∧
    (∀ d, w.n ≤ 256 → w.sel = 0 → ∃ c' : Cluster, OnlyRows s.clusterNow c' ∧
      (∀ r, c'.row r = if w.row0 ≤ r ∧ r < w.row0 + w.n ∧ rowLive (s.cluster.row r) = true ∧ rowAction (s.cluster.row r) = 2
        then BitVec.ofNat 32 (w.block * 2 ^ 6 + 2 ^ 14 + rowTag (s.cluster.row r) * 2 ^ 16) else s.clusterNow.row r) ∧
      GivesS (s.onCluster fun _ => c') (exec (.exitC u d b) s) (slotV u) 8 d (BitVec.ofNat 64 ((upTo w.n).filter fun i =>
        rowLive (s.cluster.row (w.row0 + i)) && decide (rowAction (s.cluster.row (w.row0 + i)) = 2)).length))

/-- pack, pack.rc, pack.m, unpack, unpack.c and exit start the copies of their rows and give the row count. With room in the
engine window, a legal shape and window, and every slice inside the scratchpad and aligned, each lane-packer form answers a
next state in which one more engine operation stands in the window that moves the lines of its slices in row order, the
destination holds the number of rows, and lrc too for the pack forms; pack and pack.rc have given the map of every launch core
of the cluster the packed rows, pack has set the rows that rest to action 0, unpack.c has emptied the map of its core.
(spec/07 R215; spec/07 R216; spec/07 R217; spec/07 R218; spec/07 R219; spec/07 R220) -/
def Obligations.LanePackerOperationsComplete : Prop :=
  ∀ (s : State) (u : VU) (d : Option (Fin 64)) (a b : Src) (y : W64) (h : Shape) (w : RowWin), a.shapeOk = true → b.scalarOk = true →
    (tfind s.launchId.toNat s.now.mod.launches).isSome → s.now.ctx.engine.length < 16 → s.scalar (slotV u) 1 b = .ok y →
    s.packShape (slotV u) 0 a = .ok h →
    (∀ (all : Bool) (rows : List Nat), s.mapEmpty (Fin.ofNat 4 (fld y 19 2)) = true → s.rowWin (slotV u) y 256 [0] = .ok w →
      rows = (s.cluster.rowsOf w fun k => k = 3 || (all && k = 0)) →
      s.packChecks (slotV u) (packSlices h w.row0 rows) [shBase h, (shAux0 h).toNat] = .ok () →
      ∃ t, exec (if all then .pack u d a b else .packRc u d a b) s = .next t ∧
        PacksLines s t 0x25 (if all then 0 else 1) (packSlices h w.row0 rows) ∧
        SameMemory s t ∧ CountGiven s t (slotV u) 16 d rows.length ∧ t.get .lrc = BitVec.ofNat 2048 (rows.length % 2 ^ 16) ∧
        (∀ c ∈ s.peers, (t.now.coreAt c).maps[w.map] = ⟨w.row0, w.n, rows.length, false, true, rows, none, false⟩) ∧
        ∀ r, t.clusterNow.row r = if all = true ∧ w.row0 ≤ r ∧ r < w.row0 + w.n ∧ rowLive (s.cluster.row r) = true ∧
          rowAction (s.cluster.row r) = 1 then setFld (s.cluster.row r) 0 2 0 else s.clusterNow.row r) ∧
    (∀ m : FMap, m = s.start.core.maps[(Fin.ofNat 4 (fld y 19 2) : Fin 4)] → m.full = true → s.rowWin (slotV u) y 256 [0] = .ok w →
      s.packChecks (slotV u) (packSlices h m.row0 (m.entries.take m.count)) [shBase h, (shAux0 h).toNat] = .ok () →
      ∃ t, exec (.packM u d a b) s = .next t ∧ PacksLines s t 0x25 2 (packSlices h m.row0 (m.entries.take m.count)) ∧
        SameMemory s t ∧ CountGiven s t (slotV u) 16 d (m.entries.take m.count).length ∧ t.get .lrc = BitVec.ofNat 2048 ((m.entries.take m.count).length % 2 ^ 16) ∧
        t.now.core.maps = s.now.core.maps ∧ t.clusterNow = s.clusterNow) ∧
    (∀ (clear : Bool) (m : FMap) (sl : List Slice), m = s.start.core.maps[(Fin.ofNat 4 (fld y 19 2) : Fin 4)] → m.full = true → fld y 33 31 = 0 → fld y 31 2 = 0 →
      sl = ((packSlices h m.row0 (m.entries.take m.count)).filterMap fun x => x.src.map fun a => (⟨a, some x.dst, x.k, x.k⟩ : Slice)) →
      s.packChecks (slotV u) sl [shBase h, (shAux0 h).toNat] = .ok () →
      ∃ t, exec (if clear then .unpackC u d a b else .unpack u d a b) s = .next t ∧ PacksLines s t 0x25 (if clear then 4 else 3) sl ∧
        SameMemory s t ∧ CountGiven s t (slotV u) 16 d m.count ∧ t.clusterNow = s.clusterNow ∧ t.get .lrc = s.get .lrc ∧
        (clear = false → t.now.core.maps = s.now.core.maps) ∧
        (clear = true → ((t.now.core.maps[(Fin.ofNat 4 (fld y 19 2) : Fin 4)]).full = false))) ∧
    (∀ rows : List Nat, s.rowWin (slotV u) y 256 [0] = .ok w → rows = s.cluster.rowsOf w (fun k => k = 2) →
      s.packChecks (slotV u) (rows.map fun r => ⟨(shAux0 h).toNat + 128 * shExt h 0 * (r - w.row0),
        some (sliceAddr (shBase h) (shStr h 0 * ((r : Int) - w.row0))), shExt h 0, shExt h 0⟩) [shBase h, (shAux0 h).toNat] = .ok () →
      ∃ t, exec (.exit u d a b) s = .next t ∧ PacksLines s t 0x24 3 (rows.map fun r => ⟨(shAux0 h).toNat + 128 * shExt h 0 * (r - w.row0),
          some (sliceAddr (shBase h) (shStr h 0 * ((r : Int) - w.row0))), shExt h 0, shExt h 0⟩) ∧
        SameMemory s t ∧ CountGiven s t (slotV u) 8 d rows.length ∧ t.get .lrc = s.get .lrc ∧ t.clusterNow = s.clusterNow ∧ t.now.core.maps = s.now.core.maps)

/-- fillreg registers exited rows, its selections place them in a map, and its table forms start their copies and writes. fillreg
gives every exited row of the window that is not yet registered a fill entry in row order, or frees the rows at the last
block (a frozen-row store that is not aligned takes the alignment trap); fillreg.t and fillreg.tf write the chosen entries to the
map of every launch core of the cluster, which places those and defers the other candidates; fillreg.tm and fillreg.w start an engine operation over the entries of the table. Each gives its count to lat.x and the destination. (spec/09
R284; spec/09 R285; spec/09 R286; spec/09 R287; spec/09 R288) -/
def Obligations.FillEngineOperationsComplete : Prop :=
  ∀ (s : State) (d : Option (Fin 64)) (a b : Src) (y : W64) (w : RowWin), b.scalarOk = true →
    (tfind s.launchId.toNat s.now.mod.launches).isSome → s.scalar 5 1 b = .ok y → s.rowWin 5 y 256 [0] = .ok w →
    (∀ (h : Shape) (fresh : List Nat), a.shapeOk = true → s.shape 5 0 a = .ok h →
      fresh = (if w.block = fld (shAux0 h) 32 8 then [] else ((upTo w.n).map (w.row0 + ·)).filter fun r =>
        !rowLive (s.cluster.row r) && rowGap (s.cluster.row r) && rowBlock (s.cluster.row r) = w.block && !s.cluster.fills.any fun e => e.2.row = r) →
      shBase h % 128 = 0 → s.cluster.fills.length + fresh.length ≤ s.fillShare →
      ∃ t, exec (.fillreg d a b) s = .next t ∧ SameMemory s t ∧ CountGiven s t 5 2 d fresh.length ∧ t.get .lrc = s.get .lrc ∧
        (∀ i (hi : i < fresh.length), ∃ e, tfind (s.clusterNow.serial + i) t.clusterNow.fills = some e ∧ e.row = fresh[i] ∧
          e.addr = sliceAddr (shBase h) (128 * shExt h 0 * ((fresh[i] : Int) - w.row0)) ∧ e.lines = shExt h 0 ∧
          e.table = fld (shAux0 h) 0 32 ∧ e.last = fld (shAux0 h) 32 8 ∧ e.next = w.block + 1 ∧ e.placed = none ∧
          e.deferred = false ∧ e.pos = BitVec.ofNat 32 (fld (shAux1 h) 0 32 + rowTag (s.cluster.row fresh[i]))) ∧
        (∀ k, k < s.clusterNow.serial ∨ s.clusterNow.serial + fresh.length ≤ k → tfind k t.clusterNow.fills = tfind k s.clusterNow.fills) ∧
        (∀ r, t.clusterNow.row r = if w.block = fld (shAux0 h) 32 8 ∧ w.row0 ≤ r ∧ r < w.row0 + w.n ∧ rowLive (s.cluster.row r) = false ∧
          rowGap (s.cluster.row r) = true ∧ rowBlock (s.cluster.row r) = w.block then setFld (s.cluster.row r) 14 1 0 else s.clusterNow.row r)) ∧
    (∀ h : Shape, a.shapeOk = true → s.shape 5 0 a = .ok h → shBase h % 128 ≠ 0 →
      exec (.fillreg d a b) s = .next (s.raise ⟨6, 0, 5, shBase h, 0⟩)) ∧
    (∀ (every : Bool) (cand : List FillEntry) (sel : List Nat), s.start.core.maps[(Fin.ofNat 4 (fld y 19 2) : Fin 4)].full = true → s.start.core.maps[(Fin.ofNat 4 (fld y 19 2) : Fin 4)].selected = false →
      cand = ((s.cluster.fills.map (·.2)).filter fun e => e.next = w.block && e.placed.isNone) →
      sel = (fillSelect cand s.start.core.maps[(Fin.ofNat 4 (fld y 19 2) : Fin 4)].count every).map (·.serial) →
      ∃ t, exec (if every then .fillregTf d b else .fillregT d b) s = .next t ∧ SameMemory s t ∧ CountGiven s t 5 2 d sel.length ∧ t.get .lrc = s.get .lrc ∧
        (∀ c ∈ s.peers, ((t.now.coreAt c).maps[(Fin.ofNat 4 (fld y 19 2) : Fin 4)]).fill = some sel ∧
          ((t.now.coreAt c).maps[(Fin.ofNat 4 (fld y 19 2) : Fin 4)]).selected = true) ∧
        (∀ k, (∀ e ∈ cand, e.serial ≠ k) → tfind k t.clusterNow.fills = tfind k s.clusterNow.fills) ∧
        ((cand.map (·.serial)).Nodup → ∀ e ∈ cand, tfind e.serial t.clusterNow.fills =
          some (if e.serial ∈ sel then { e with placed := some (fld y 19 2), deferred := false } else { e with deferred := true }))) ∧
    (∀ (h : Shape) (m : FMap) (es : List FillEntry) (moved : List Slice), a.shapeOk = true → s.now.ctx.engine.length < 16 →
      s.fillTable (Fin.ofNat 4 (fld y 19 2)) = .ok (m, es) → s.packShape 5 0 a = .ok h → (∀ e ∈ es, e.lines ≤ shExt h 0) →
      moved = (es.mapIdx fun i e => ⟨(shAux0 h).toNat + 128 * shExt h 0 * (m.count + i), some e.addr, shExt h 0, e.lines⟩) ++
        ((upTo (8 * ceilDiv (m.count + es.length) 8)).filter fun j => decide (m.count + es.length ≤ j) && decide (8 * ceilDiv m.count 8 ≤ j)).map
          (fun j => ⟨(shAux0 h).toNat + 128 * shExt h 0 * j, none, shExt h 0, shExt h 0⟩) →
      s.packChecks 5 moved [(shAux0 h).toNat] = .ok () →
      ∃ t, exec (.fillregTm d a b) s = .next t ∧ PacksLines s t 9 3 moved ∧ SameMemory s t ∧ CountGiven s t 5 2 d es.length ∧
        t.get .lrc = BitVec.ofNat 2048 ((m.count + es.length) % 2 ^ 16) ∧ t.clusterNow = s.clusterNow) ∧
    (∀ (h : Shape) (m : FMap) (es : List FillEntry) (n : Nat) (key val word : Nat → Nat), a.shapeOk = true → s.now.ctx.engine.length < 16 →
      s.fillTable (Fin.ofNat 4 (fld y 19 2)) = .ok (m, es) → s.shape 5 0 a = .ok h → shapeOk h = true → shSpace h = 1 →
      fld (shAux0 h) 32 32 = 0 → fld (shAux1 h) 45 19 = 0 → fld (shAux0 h) 0 32 % 128 = 0 → sgn 32 (fld (shAux1 h) 0 32) % 128 = 0 →
      n = (if (shAux1 h).getLsbD 44 then 256 else 128) →
      (∀ i, key i = sliceAddr (shapeAddr h) (((m.count + i) * fld (shAux0 h) 0 32 : Nat) : Int)) →
      (∀ i, val i = sliceAddr (key i) (sgn 32 (fld (shAux1 h) 0 32))) →
      (∀ i (hi : i < es.length), word i = es[i].table + 8 * w.block ∧ es[i].table + 8 * w.block < 2 ^ 22 ∧ s.spOk (2 ^ 25 + word i) 8 = true ∧
        s.spOk (key i) n = true ∧ s.spOk (val i) n = true ∧ key i % 128 = 0 ∧ val i % 128 = 0) → s.rcd.gSp ≠ 0 →
      ∃ t o, exec (.fillregW d a b) s = .next t ∧ t.now.ctx.engine = s.now.ctx.engine ++ [o] ∧ SameMemory s t ∧ CountGiven s t 5 2 d es.length ∧ t.get .lrc = s.get .lrc ∧
        t.clusterNow = s.clusterNow ∧ o.major = 9 ∧ o.fn = 4 ∧ o.at' = 0 ∧
        o.body = .fillw w.block (fld y 19 2) (es.mapIdx fun i e => ⟨spKeyOf s.place (key i), spKeyOf s.place (val i), e.serial,
          spKeyOf s.place (2 ^ 25 + word i), e.pos.toNat⟩))

/-- Every mma form enters the matrix engine with the operand vectors of its steps and advances its shapes by them. With the engine
idle, the accumulator present, legal shapes in the spaces the form asks for, and operand vectors that pass the checks of R230,
each of the fifteen forms answers a next state in which the operation stands in the engine, lat.m is open until the bound 8,
12 or 48 and one cycle more for each step after the first, and the shape registers named have advanced by the steps; an empty
walk passes the same checks, leaves the shapes and takes no step. No other register changes. (spec/08 R226; spec/08 R227; spec/08 R228; spec/08 R229;
spec/08 R230) -/
def Obligations.MultiplyAccumulateOperationsComplete : Prop :=
  ∀ (s : State) (acc sh : Fin 16) (a b : Src),
    MmaIssues s (exec (.mmaBf16 acc sh a b) s) .bf16 0 acc sh a b ∧
    MmaIssues s (exec (.mmaBf16Mc acc sh a b) s) .bf16 1 acc sh a b ∧
    MmaIssues s (exec (.mmaBf16Rop acc sh a b) s) .bf16 2 acc sh a b ∧
    MmaIssues s (exec (.mmaF16 acc sh a b) s) .f16 0 acc sh a b ∧
    MmaIssues s (exec (.mmaF16Mc acc sh a b) s) .f16 1 acc sh a b ∧
    MmaIssues s (exec (.mmaF16Rop acc sh a b) s) .f16 2 acc sh a b ∧
    MmaIssues s (exec (.mmaE4m3 acc sh a b) s) .e4m3 0 acc sh a b ∧
    MmaIssues s (exec (.mmaE4m3Mc acc sh a b) s) .e4m3 1 acc sh a b ∧
    MmaIssues s (exec (.mmaE4m3Rop acc sh a b) s) .e4m3 2 acc sh a b ∧
    MmaIssues s (exec (.mmaE5m2 acc sh a b) s) .e5m2 0 acc sh a b ∧
    MmaIssues s (exec (.mmaE5m2Mc acc sh a b) s) .e5m2 1 acc sh a b ∧
    MmaIssues s (exec (.mmaE5m2Rop acc sh a b) s) .e5m2 2 acc sh a b ∧
    MmaIssues s (exec (.mmaF4x acc sh a b) s) .f4x 0 acc sh a b ∧
    MmaIssues s (exec (.mmaF4xMc acc sh a b) s) .f4x 1 acc sh a b ∧
    MmaIssues s (exec (.mmaF4xRop acc sh a b) s) .f4x 2 acc sh a b

/-- Accumulator control and readouts enter the matrix engine with their operands and bounds. With scalar operands readable, the
engine idle, the accumulator present, and, for a form that writes the visible bank, no sampler copy still reading it, azero,
asetx, anorm, aswap, ardout and ardout.s answer a next state in which the operation stands in the engine with its exponent,
mask, row and mode, due by the bound of its family; nothing else has changed but the window of lat.m of those that give a
result. (spec/08 R236; spec/08 R237; spec/08 R238; spec/08 R239; spec/08 R240; spec/08 R241; spec/08 R242) -/
def Obligations.AccumulatorOperationsComplete : Prop :=
  ∀ (s : State) (acc sh : Fin 16) (a b : Src) (mode : BitVec 8) (x y : W64) (h : Shape), a.scalarOk = true → b.scalarOk = true →
    s.scalar 4 0 a = .ok x → s.scalar 4 1 b = .ok y → s.start.core.meq = [] → s.accOk acc.val = true →
    (∃ t, exec (.azero acc a) s = .next t ∧ EntersEngine s t acc.val 2 false (.azero false true (x.extractLsb' 0 16))) ∧
    (s.visFree acc = .ok () → ∃ t, exec (.azeroV acc a) s = .next t ∧ EntersEngine s t acc.val 2 false (.azero true false (x.extractLsb' 0 16))) ∧
    (s.visFree acc = .ok () → ∃ t, exec (.azeroB acc a) s = .next t ∧ EntersEngine s t acc.val 2 false (.azero true true (x.extractLsb' 0 16))) ∧
    (∃ t, exec (.asetx acc a b) s = .next t ∧ EntersEngine s t acc.val 6 false (.asetx false false (x.extractLsb' 0 16) (y.extractLsb' 0 32))) ∧
    (s.visFree acc = .ok () → ∃ t, exec (.asetxV acc a b) s = .next t ∧ EntersEngine s t acc.val 6 false (.asetx true false (x.extractLsb' 0 16) (y.extractLsb' 0 32))) ∧
    (∃ t, exec (.asetxZ acc a b) s = .next t ∧ EntersEngine s t acc.val 6 false (.asetx false true (x.extractLsb' 0 16) (y.extractLsb' 0 32))) ∧
    (s.visFree acc = .ok () → ∃ t, exec (.asetxZV acc a b) s = .next t ∧ EntersEngine s t acc.val 6 false (.asetx true true (x.extractLsb' 0 16) (y.extractLsb' 0 32))) ∧
    (∃ t, exec (.anorm acc a b) s = .next t ∧ EntersEngine s t acc.val 8 true (.anorm false (min x.toNat 38) (y.extractLsb' 0 32))) ∧
    (s.visFree acc = .ok () → ∃ t, exec (.anormV acc a b) s = .next t ∧ EntersEngine s t acc.val 8 true (.anorm true (min x.toNat 38) (y.extractLsb' 0 32))) ∧
    (s.visFree acc = .ok () → ∃ t, exec (.aswap acc) s = .next t ∧ EntersEngine s t acc.val 4 false (.aswap)) ∧
    (∀ rc : RndCtx, modeReadoutOk mode = true → x.toNat < 32 → x.toNat % (2048 / (64 * (modeTy mode).width)) = 0 → (if (modeRound mode).toNat = 4 then s.rndCtx 4 = .ok rc else rc = ⟨0, 0, 0, 0, 0⟩) →
      ∃ t, exec (.ardout acc a mode) s = .next t ∧ EntersEngine s t acc.val 16 true (.ardout x.toNat mode (BitVec.ofNat 64 rc.key) (BitVec.ofNat 64 rc.stream))) ∧
    (∀ (rc : RndCtx) (dst : Nat → Nat), modeStoreOk mode = true → x.toNat ∈ [0, 8, 16, 24] → s.shape 4 1 (.sh sh) = .ok h → shapeOk h = true →
      fld (shAux0 h) 32 32 = 0 → shSpace h = 1 → s.rcd.gSp ≠ 0 → (if (modeRound mode).toNat = 4 then s.rndCtx 4 = .ok rc else rc = ⟨0, 0, 0, 0, 0⟩) → (∀ k, dst k = vecAddrOf h k) →
      (∀ k, k < 8 → let n := 64 * bfBits (s.formatAt (dst k)) / 8
        bfFmt (s.formatAt (dst k)) ≠ 0 ∧ s.spOk (dst k) n = true ∧ compOk (s.formatAt (dst k)) s.spBank (dst k % 2 ^ 22) n = true ∧ dst k % min n 128 = 0) →
      ∃ t, exec (.ardoutS acc sh a mode) s = .next t ∧ EntersEngine s t acc.val 16 false (.ardoutS false x.toNat mode ((upTo 8).map fun k => (spKeyOf s.place (dst k), s.formatAt (dst k))) (BitVec.ofNat 64 rc.key) (BitVec.ofNat 64 rc.stream))) ∧
    (∀ (rc : RndCtx) (dst : Nat → Nat), modeStoreOk mode = true → x.toNat ∈ [0, 8, 16, 24] → s.shape 4 1 (.sh sh) = .ok h → shapeOk h = true →
      fld (shAux0 h) 32 32 = 0 → shSpace h = 1 → s.rcd.gSp ≠ 0 → (if (modeRound mode).toNat = 4 then s.rndCtx 4 = .ok rc else rc = ⟨0, 0, 0, 0, 0⟩) → (∀ k, dst k = vecAddrOf h k) →
      (∀ k, k < 8 → let n := 64 * bfBits (s.formatAt (dst k)) / 8
        bfFmt (s.formatAt (dst k)) ≠ 0 ∧ s.spOk (dst k) n = true ∧ compOk (s.formatAt (dst k)) s.spBank (dst k % 2 ^ 22) n = true ∧ dst k % min n 128 = 0) →
      ∃ t, exec (.ardoutSf acc sh a mode) s = .next t ∧ EntersEngine s t acc.val 16 false (.ardoutS true x.toNat mode ((upTo 8).map fun k => (spKeyOf s.place (dst k), s.formatAt (dst k))) (BitVec.ofNat 64 rc.key) (BitVec.ofNat 64 rc.stream)))

/-- On an attention core the attention operations enter the matrix engine with their checked operands. On an attention core, with
scalar operands readable and the engine idle, ascore, avalue and smerge with their accumulator present, and mskld and kvapp, with
legal shapes, addresses in range and aligned, and for kvapp a live sequence with room, answer a next state in which the operation
stands in the engine with its rows and addresses; nothing else has changed but the window of lat.m of mskld and kvapp.
(spec/08 R243; spec/08 R247; spec/08 R248; spec/08 R249; spec/08 R251; spec/08 R252) -/
def Obligations.AttentionOperationsComplete : Prop :=
  ∀ (s : State) (acc sh : Fin 16) (a b : Src) (x y : W64) (h : Shape), a.scalarOk = true → b.scalarOk = true →
    s.scalar 4 0 a = .ok x → s.scalar 4 1 b = .ok y → s.start.core.meq = [] → s.att = true →
    (∀ rows : List Nat, s.accOk acc.val = true → s.shape 4 2 (.sh sh) = .ok h → shapeOk h = true → aShapeOk h = true → shSpace h = 1 → x.toNat % 64 = 0 →
      rows = (upTo 8).map (vecAddrOf h) → s.bf16Rows rows 128 (fun r => r / 2 ^ 22 = shBase h / 2 ^ 22) = .ok () → s.attRange y.toNat 128 = .ok () →
      ∃ t, exec (.ascore acc sh a b) s = .next t ∧ EntersEngine s t acc.val 32 false (.ascore false rows x.toNat y.toNat)) ∧
    (∀ rows : List Nat, s.accOk acc.val = true → s.shape 4 2 (.sh sh) = .ok h → shapeOk h = true → aShapeOk h = true → shSpace h = 1 → x.toNat % 64 = 0 →
      rows = (upTo 8).map (vecAddrOf h) → s.bf16Rows rows 128 (fun r => r / 2 ^ 22 = shBase h / 2 ^ 22) = .ok () → s.attRange y.toNat 128 = .ok () →
      ∃ t, exec (.ascoreGm acc sh a b) s = .next t ∧ EntersEngine s t acc.val 32 false (.ascore true rows x.toNat y.toNat)) ∧
    (s.accOk acc.val = true → x.toNat % 64 = 0 → s.attRange y.toNat 128 = .ok () → ∃ t, exec (.avalue acc a b) s = .next t ∧ EntersEngine s t acc.val 32 false (.avalue false x.toNat y.toNat)) ∧
    (s.accOk acc.val = true → x.toNat % 64 = 0 → s.attRange y.toNat 128 = .ok () → ∃ t, exec (.avalueHi acc a b) s = .next t ∧ EntersEngine s t acc.val 32 false (.avalue true x.toNat y.toNat)) ∧
    (s.accOk acc.val = true → s.attRange x.toNat 3072 = .ok () → s.attRange y.toNat 128 = .ok () → ∃ t, exec (.smerge acc a b) s = .next t ∧ EntersEngine s t acc.val 12 false (.smerge 0 x.toNat y.toNat)) ∧
    (s.accOk acc.val = true → s.attRange x.toNat 3072 = .ok () → s.attRange y.toNat 128 = .ok () → ∃ t, exec (.smergeX acc a b) s = .next t ∧ EntersEngine s t acc.val 12 false (.smerge 1 x.toNat y.toNat)) ∧
    (s.accOk acc.val = true → s.attRange x.toNat 3072 = .ok () → s.attRange y.toNat 128 = .ok () → ∃ t, exec (.smergeI acc a b) s = .next t ∧ EntersEngine s t acc.val 12 false (.smerge 2 x.toNat y.toNat)) ∧
    (y.toNat ≤ 3 → s.attRange x.toNat 64 = .ok () → ∃ t, exec (.mskld a b) s = .next t ∧ EntersEngine s t 0 8 true (.mskld x.toNat y.toNat)) ∧
    (∀ (e : Seq) (count n : Nat) (key val : Nat → Nat), s.shape 4 2 (.sh sh) = .ok h → s.start.mod.kvLive s.part y = some e →
      count = fld (shAux1 h) 40 4 → x.toNat + count ≤ e.capacity → shapeOk h = true → 1 ≤ count → count ≤ 8 → fld (shAux0 h) 32 32 = 0 →
      fld (shAux1 h) 45 19 = 0 → fld (shAux0 h) 0 32 % 128 = 0 → sgn 32 (fld (shAux1 h) 0 32) % 128 = 0 → shSpace h = 1 →
      n = (if (shAux1 h).getLsbD 44 then 256 else 128) → (∀ r, key r = sliceAddr (shapeAddr h) ((r * fld (shAux0 h) 0 32 : Nat) : Int)) →
      (∀ r, val r = sliceAddr (key r) (sgn 32 (fld (shAux1 h) 0 32))) →
      s.bf16Rows (((upTo count).filter fun r => (shAux1 h).getLsbD (32 + r)).flatMap fun r => [key r, val r]) n (fun _ => true) = .ok () →
      ∃ t, exec (.kvapp sh a b) s = .next t ∧ EntersEngine s t 0 16 true (.kvapp ((upTo count).map fun r =>
        if (shAux1 h).getLsbD (32 + r) then some (key r, val r) else none) n x.toNat y))

/-- A step of the matrix engine clears, rescales, swaps, reads out or multiplies into the accumulators as the operation says. For
the operation at the head of a core's matrix engine: azero clears the banks it names to zero elements, the given exponent and
no sticky flag; aswap exchanges the banks; asetx zeroes or rescales the masked rows to the given exponent, anorm rescales each that
is not all zero so that its largest element keeps the headroom asked for; ardout encodes the visible rows into lat.m, ardout.s
leaves accumulators and memory alone; a step of mma whose operands are there adds to each element of its eight rows the products of its row
and column vectors, and leaves every other element, exponent and accumulator. The operation leaves the engine with its last
step. (spec/08 R231; spec/08 R237; spec/08 R238; spec/08 R240; spec/08 R241; spec/03 R92; spec/03 R95) -/
def Obligations.MatrixEngineStepsHaveTheirEffect : Prop :=
  ∀ (s : State) (c : Nat) (o : MeOp) (rest : List MeOp), (s.now.coreAt c).meq = o :: rest →
    (∀ vis work e, o.body = .azero vis work e → ∃ t, exec (.matrixStep c) s = .next t ∧ ((t.now.coreAt c).meq = rest ∧ ∀ j, j ≠ o.acc → (t.now.coreAt c).acc j = (s.now.coreAt c).acc j) ∧
      ∀ b : Bool, ((if b then vis else work) = false → ((t.now.coreAt c).acc o.acc).bank b = ((s.now.coreAt c).acc o.acc).bank b) ∧
        ((if b then vis else work) = true → (((t.now.coreAt c).acc o.acc).bank b).sticky = false ∧ ∀ row, row < 32 →
          (((t.now.coreAt c).acc o.acc).bank b).exp row = e.toInt ∧ ∀ col, (((t.now.coreAt c).acc o.acc).bank b).get row col = 0)) ∧
    (∀ vis h mask, o.body = .anorm vis h mask → ∃ t, exec (.matrixStep c) s = .next t ∧ ((t.now.coreAt c).meq = rest ∧ ∀ j, j ≠ o.acc → (t.now.coreAt c).acc j = (s.now.coreAt c).acc j) ∧
      ((t.now.coreAt c).acc o.acc).bank (!vis) = ((s.now.coreAt c).acc o.acc).bank (!vis) ∧
      ∀ row, row < 32 → let old := ((s.now.coreAt c).acc o.acc).bank vis
        let new := ((t.now.coreAt c).acc o.acc).bank vis
        let big := ((old.row row).filter (· ≠ acxNan)).foldl (fun b n => max b n.natAbs) 0
        new.exp row = (if mask.getLsbD row = false ∨ big = 0 then old.exp row
          else clampInt (old.exp row + (bitLen big : Int) - (39 - h : Int)) (-32768) 32767) ∧
        ∀ col, col < 64 → new.get row col = if mask.getLsbD row = false ∨ big = 0 then old.get row col
          else (acxRescale (old.get row col) (old.exp row) (new.exp row)).1) ∧
    (∀ fill r0 mode rows key stream, o.body = .ardoutS fill r0 mode rows key stream → ∃ t, exec (.matrixStep c) s = .next t ∧
      (t.now.coreAt c).meq = rest ∧ (t.now.coreAt c).accs = (s.now.coreAt c).accs ∧ SameMemory s t) ∧
    (o.body = .aswap → ∃ t, exec (.matrixStep c) s = .next t ∧ ((t.now.coreAt c).meq = rest ∧ ∀ j, j ≠ o.acc → (t.now.coreAt c).acc j = (s.now.coreAt c).acc j) ∧
      (t.now.coreAt c).acc o.acc = ⟨((s.now.coreAt c).acc o.acc).work, ((s.now.coreAt c).acc o.acc).vis⟩) ∧
    (∀ vis zero e mask, o.body = .asetx vis zero e mask → ∃ t, exec (.matrixStep c) s = .next t ∧ ((t.now.coreAt c).meq = rest ∧ ∀ j, j ≠ o.acc → (t.now.coreAt c).acc j = (s.now.coreAt c).acc j) ∧
      ((t.now.coreAt c).acc o.acc).bank (!vis) = ((s.now.coreAt c).acc o.acc).bank (!vis) ∧
      ∀ row, row < 32 → let old := ((s.now.coreAt c).acc o.acc).bank vis
        let new := ((t.now.coreAt c).acc o.acc).bank vis
        new.exp row = (if mask.getLsbD row then e.toInt else old.exp row) ∧
        ∀ col, col < 64 → new.get row col = if mask.getLsbD row = false then old.get row col else if zero then 0
          else (acxRescale (old.get row col) (old.exp row) e.toInt).1) ∧
    (∀ r0 mode key stream, o.body = .ardout r0 mode key stream → (modeTy mode).width ∣ 32 → r0 + 2048 / (64 * (modeTy mode).width) ≤ 32 →
      o.ctx < (s.now.coreAt c).ctxs.length → (s.now.ctxAt c o.ctx).saved = none → o.sv = false → ¬ s.now.holds c →
      ∃ t, exec (.matrixStep c) s = .next t ∧ (t.now.coreAt c).meq = rest ∧ (t.now.coreAt c).accs = (s.now.coreAt c).accs ∧
        ∀ i, i < 2048 / (modeTy mode).width → lane (modeTy mode).width ((t.now.ctxAt c o.ctx).bank.get (.lat 4)) i =
          encodeNum (modeTy mode) ((((s.now.coreAt c).acc o.acc).vis).num (r0 + i / 64) (i % 64))
            (rndOf ⟨key.toNat, stream.toNat, 4, o.ctx, (s.now.coreAt c).lcore⟩ (modeRound mode).toNat i) (modeSat mode)) ∧
    (∀ ty g cap steps lat av bv xs ys, o.body = .mma ty g cap steps lat → steps[o.step]? = some (av, bv) → g < 4 →
      s.now.mmaReadAll s.free c o ty cap av = .ok xs → s.now.mmaReadAll s.free c o ty cap bv = .ok ys → xs.length = 8 → ys.length = 64 →
      ∃ t, exec (.matrixStep c) s = .next t ∧ (∀ j, j ≠ o.acc → (t.now.coreAt c).acc j = (s.now.coreAt c).acc j) ∧
        ((t.now.coreAt c).acc o.acc).vis = ((s.now.coreAt c).acc o.acc).vis ∧
        (if o.step + 1 = steps.length then (t.now.coreAt c).meq = rest
         else ∃ o', (t.now.coreAt c).meq = o' :: rest ∧ o'.step = o.step + 1 ∧ o'.body = o.body ∧ o'.acc = o.acc) ∧
        ∀ row col, col < 64 → row < 32 → let old := ((s.now.coreAt c).acc o.acc).work
          (((t.now.coreAt c).acc o.acc).work).exp row = old.exp row ∧
          (((t.now.coreAt c).acc o.acc).work).get row col = if 8 * g ≤ row ∧ row < 8 * g + 8
            then (acxStep (old.get row col) (old.exp row) (List.zipWith Machine.Num.mul (xs.getD (row - 8 * g) []) (ys.getD col []))).1
            else old.get row col)

/-- copy, gather, scatter and the fabric stores enter the engine window once every check passes. With room in the engine window,
both shapes, the row list of a gather or scatter and the capabilities readable, and a transfer that passes every check of
R256, copy, gather and scatter answer a next state with one more operation in the window, its destination lines empty, and its
promised tick by R432 in the destination, lat.x and ptick; the four fabric stores answer one with the operation in the window,
one more acknowledgement outstanding, and their number in the destination and lat.x. (spec/09 R255; spec/09 R256; spec/09
R258; spec/09 R259; spec/09 R264; spec/09 R265; spec/02 R72; spec/17 R432) -/
def Obligations.TransfersAndFabricStoresComplete : Prop :=
  ∀ (s : State) (d : Option (Fin 64)) (a b : Src) (x y : Shape) (sa sb : Side), a.shapeOk = true → b.shapeOk = true →
    s.shape 5 0 a = .ok x → s.shape 5 1 b = .ok y →
    (s.side 5 2 x none = .ok sa → s.side 5 3 y none = .ok sb → TransferIssues s (exec (.copy d a b) s) 1 0 d sa sb) ∧
    (∀ (q : Fin 8) (v : VecReg), s.head 5 (0xA0 + q.val) q = .ok v → s.side 5 2 x (rowList x v) = .ok sa → s.side 5 3 y none = .ok sb →
      TransferIssues s (exec (.gather d q a b) s) 2 q.val d sa sb) ∧
    (∀ (q : Fin 8) (v : VecReg), s.head 5 (0xA0 + q.val) q = .ok v → s.side 5 2 x none = .ok sa → s.side 5 3 y (rowList y v) = .ok sb →
      TransferIssues s (exec (.scatter d q a b) s) 3 q.val d sa sb) ∧
    (∀ (fcap : Cap) (a' b' : Side) (w run : Nat), s.now.ctx.engine.length < 16 → s.side 5 2 x none = .ok sa → s.side 5 3 y none = .ok sb →
      (if tagOf y = none then s.capReg 5 4 (fld (shAux0 y) 8 4) = .ok fcap else fcap = 0) →
      s.transfer sa sb (some ⟨false, if (tagOf y).isNone then some (fcap, sgn 32 (fld (shAux0 y) 32 32)) else none⟩) = .ok (a', b', w, run) →
      ∃ t op, exec (.fst d a b) s = .next t ∧ EntersWindow s t op 5 0 (.move a' b' w run ((shAux0 a'.shape).getLsbD 4 && shSpace a'.shape = 1)
          (if (tagOf y).isNone then some (fcap, sgn 32 (fld (shAux0 y) 32 32), false) else none) (tagOf y)) ∧
        op.serial = some (s.now.ctx.serial (s.now.mod.moduleOf (capObject b'.cap))) ∧
        t.now.ctx.acks = s.now.ctx.acks ++ [s.now.ctx.serial (s.now.mod.moduleOf (capObject b'.cap))] ∧
        CountGiven s t 5 2 d t.now.ctx.acks.length ∧ t.get .lrc = s.get .lrc) ∧
    (∀ (fcap : Cap) (a' b' : Side) (w run : Nat), s.now.ctx.engine.length < 16 → s.side 5 2 x none = .ok sa → s.side 5 3 y none = .ok sb →
      (if tagOf y = none then s.capReg 5 4 (fld (shAux0 y) 8 4) = .ok fcap else fcap = 0) →
      s.transfer sa sb (some ⟨false, if (tagOf y).isNone then some (fcap, sgn 32 (fld (shAux0 y) 32 32)) else none⟩) = .ok (a', b', w, run) →
      ∃ t op, exec (.fstOf d a b) s = .next t ∧ EntersWindow s t op 5 1 (.move a' b' w run ((shAux0 a'.shape).getLsbD 4 && shSpace a'.shape = 1)
          (if (tagOf y).isNone then some (fcap, sgn 32 (fld (shAux0 y) 32 32), true) else none) (tagOf y)) ∧
        op.serial = some (s.now.ctx.serial (s.now.mod.moduleOf (capObject b'.cap))) ∧
        t.now.ctx.acks = s.now.ctx.acks ++ [s.now.ctx.serial (s.now.mod.moduleOf (capObject b'.cap))] ∧
        CountGiven s t 5 2 d t.now.ctx.acks.length ∧ t.get .lrc = s.get .lrc) ∧
    (∀ (fcap : Cap) (a' b' : Side) (w run : Nat), s.now.ctx.engine.length < 16 → s.side 5 2 x none = .ok sa → s.side 5 3 y none = .ok sb →
      (if tagOf y = none then s.capReg 5 4 (fld (shAux0 y) 8 4) = .ok fcap else fcap = 0) →
      s.transfer sa sb (some ⟨true, if (tagOf y).isNone then some (fcap, sgn 32 (fld (shAux0 y) 32 32)) else none⟩) = .ok (a', b', w, run) →
      ∃ t op, exec (.fstSp d a b) s = .next t ∧ EntersWindow s t op 5 2 (.move a' b' w run ((shAux0 a'.shape).getLsbD 4 && shSpace a'.shape = 1)
          (if (tagOf y).isNone then some (fcap, sgn 32 (fld (shAux0 y) 32 32), false) else none) (tagOf y)) ∧
        op.serial = some (s.now.ctx.serial (s.now.mod.moduleOf (capObject b'.cap))) ∧
        t.now.ctx.acks = s.now.ctx.acks ++ [s.now.ctx.serial (s.now.mod.moduleOf (capObject b'.cap))] ∧
        CountGiven s t 5 2 d t.now.ctx.acks.length ∧ t.get .lrc = s.get .lrc) ∧
    (∀ (fcap : Cap) (a' b' : Side) (w run : Nat), s.now.ctx.engine.length < 16 → s.side 5 2 x none = .ok sa → s.side 5 3 y none = .ok sb →
      (if tagOf y = none then s.capReg 5 4 (fld (shAux0 y) 8 4) = .ok fcap else fcap = 0) →
      s.transfer sa sb (some ⟨true, if (tagOf y).isNone then some (fcap, sgn 32 (fld (shAux0 y) 32 32)) else none⟩) = .ok (a', b', w, run) →
      ∃ t op, exec (.fstOfSp d a b) s = .next t ∧ EntersWindow s t op 5 3 (.move a' b' w run ((shAux0 a'.shape).getLsbD 4 && shSpace a'.shape = 1)
          (if (tagOf y).isNone then some (fcap, sgn 32 (fld (shAux0 y) 32 32), true) else none) (tagOf y)) ∧
        op.serial = some (s.now.ctx.serial (s.now.mod.moduleOf (capObject b'.cap))) ∧
        t.now.ctx.acks = s.now.ctx.acks ++ [s.now.ctx.serial (s.now.mod.moduleOf (capObject b'.cap))] ∧
        CountGiven s t 5 2 d t.now.ctx.acks.length ∧ t.get .lrc = s.get .lrc)

/-- Remote atomics, ackf, mapreq, smpl and accept do at issue what spec/09 gives them. A remote atomic with its capability,
displacement and data readable, within its bounds and aligned, enters the window and adds one outstanding acknowledgement,
whose number goes to lat.x; ackf makes the next bundle wait for the acknowledgements outstanding and changes nothing when
there are none; mapreq, smpl and accept with legal operands enter the window and give their promised tick. ackf alone has no
result. (spec/09 R261; spec/09 R266; spec/09 R267; spec/09 R289; spec/09 R295; spec/02 R72) -/
def Obligations.OtherEngineOperationsComplete : Prop :=
  ∀ (s : State) (d : Option (Fin 64)) (r : Fin 64) (a b : Src) (x y : W64),
    RemoteAtomicIssues s (exec (.ratomAdd r a b) s) 0 .add r a b ∧
    RemoteAtomicIssues s (exec (.ratomAnd r a b) s) 1 .and r a b ∧
    RemoteAtomicIssues s (exec (.ratomOr r a b) s) 2 .or r a b ∧
    RemoteAtomicIssues s (exec (.ratomXor r a b) s) 3 .xor r a b ∧
    RemoteAtomicIssues s (exec (.ratomMinI64 r a b) s) 4 .minI r a b ∧
    RemoteAtomicIssues s (exec (.ratomMaxI64 r a b) s) 5 .maxI r a b ∧
    RemoteAtomicIssues s (exec (.ratomMinZ64 r a b) s) 6 .minZ r a b ∧
    RemoteAtomicIssues s (exec (.ratomMaxZ64 r a b) s) 7 .maxZ r a b ∧
    (∃ t, exec .ackf s = .next t ∧ t = { s with now := { s.now with ctx := { s.now.ctx with
      pending := s.now.ctx.pending ++ (if s.now.ctx.acks = [] then [] else [Pending.acks s.now.ctx.acks]) } } }) ∧
    (∀ cap : Cap, s.now.ctx.engine.length < 16 → a.capOk = true → b.scalarOk = true → s.cap 5 0 a = .ok cap → s.scalar 5 1 b = .ok y → 1 ≤ y.toNat →
      y.toNat ≤ 2 ^ 32 → checkCap cap 0 y.toNat rLd = none →
      ∃ t op p, exec (.mapreq d a b) s = .next t ∧ EntersWindow s t op 0x0D 0 (.mapreq cap y.toNat (s.now.ctx.bank.xSeq + 1)) ∧
        op.ptick = some p ∧ Promised s t d p ∧ t.now.ctx.bank.status = s.now.ctx.bank.status) ∧
    (∀ (bytes : List Byte) (p : Nat), s.now.ctx.engine.length < 16 → a.scalarOk = true → b.scalarOk = true → s.scalar 5 0 a = .ok x →
      s.scalar 5 1 b = .ok y → fld x 14 50 = 0 → 1 ≤ smplN x → smplN x ≤ 16 → s.waitingRead 5 y.toNat 128 = .ok (bytes, false) → p = leNat bytes →
      smplOk p = true → (∀ i, i < smplN x → s.accOk (smplJ x + i) = true) → s.rcd.gSp ≠ 0 → (∀ z ∈ smplCounts p (smplN x), s.spOk z 128 = true) →
      s.spOk (bitsAt p 768 32) 512 = true →
      ∃ t op q, exec (.smpl d a b) s = .next t ∧ EntersWindow s t op 4 0 (.smpl x y s.now.core.meSeq) ∧ op.ptick = some q ∧ Promised s t d q ∧
        t.now.ctx.bank.status = s.now.ctx.bank.status) ∧
    (∀ (bytes : List Byte) (p : Nat), s.now.ctx.engine.length < 16 → a.scalarOk = true → s.scalar 5 0 a = .ok x →
      s.waitingRead 5 x.toNat 256 = .ok (bytes, false) → p = leNat bytes → maskOk p = true → bitsAt p 1337 711 = 0 → s.rcd.gSp ≠ 0 →
      (∀ k, k < bitsAt p 32 16 → s.spOk (bitsAt p 1152 32 + 512 * k) 512 = true ∧ s.spOk (bitsAt p 1184 32 + 512 * k) 512 = true) →
      (∀ i, i < acceptTable p / 128 → s.spOk (bitsAt p 1216 32 + 128 * i) 128 = true) → s.spOk (bitsAt p 1280 32) 128 = true →
      (∀ f ∈ [1152, 1184, 1216, 1280], bitsAt p f 32 % 128 = 0) →
      ∃ t op q, exec (.accept d a) s = .next t ∧ EntersWindow s t op 10 0 (.accept x) ∧ op.ptick = some q ∧ Promised s t d q ∧
        t.now.ctx.bank.status = (if p.testBit 1336 then s.now.ctx.setEffect else s.now.ctx).bank.status)

/-- jopen, jarrive, jwait and jrule on a join of this module open it, count arrivals, wait for releases and change its rule. jopen
of a legal descriptor whose images pass their checks opens the lowest free join of the die named, collecting its first
generation. With nothing left to publish, jarrive of a member that has not arrived gives 2 and counts late for another
generation or one whose quorum is met, 0 for an entry, 1 for an arrival short of the quorum and 5 for the one that meets it; of
a member that has arrived, or of none, it gives 8 and changes nothing. The end of the cycle commits what the arrived members
have staged and moves a join whose quorum is met to its next generation. jwait of a released generation refreshes the view and
gives its summary, of one not released it holds the bundle, and of a join that is not there it gives the freed summary. jrule
changes the rule from the next generation on, or closes the join: at once, or after its entered members or a release under
way. (spec/09 R269; spec/09 R271; spec/09 R272; spec/09 R274; spec/09 R275) -/
def Obligations.JoinOperationsComplete : Prop :=
  (∀ (s : State) (d : Option (Fin 64)) (a b : Src) (x y : W64), a.scalarOk = true → b.scalarOk = true →
    s.scalar 5 0 a = .ok x → s.scalar 5 1 b = .ok y →
    (Published s → s.now.mod.joinRemote x = false → ∀ j, s.now.mod.findJoin x (some s.now.selfPart) = some j →
      (fld y 17 47 ≠ 0 ∨ j.members.length ≤ memberIndex y ∨ (j.member (memberIndex y)).arrived = true → ∃ t, exec (.jarrive d a b) s = .next t ∧
        CountGiven s t 5 4 d 8 ∧ t.now.mod.joins = s.now.mod.joins ∧ SameMemory s t) ∧
      (memberIndex y < j.members.length → fld y 17 47 = 0 → (j.member (memberIndex y)).arrived = false →
        (memberGen y ≠ j.gen % 1024 ∨ j.met = true → ∃ t, exec (.jarrive d a b) s = .next t ∧ CountGiven s t 5 4 d 2 ∧
          (t.now.mod.joinSlot (joinKey x)).join = some { j with late := j.late + 1 } ∧ SameMemory s t) ∧
        (memberGen y = j.gen % 1024 → j.met = false → memberEnter y = true → ∃ t j', exec (.jarrive d a b) s = .next t ∧ CountGiven s t 5 4 d 0 ∧
          (t.now.mod.joinSlot (joinKey x)).join = some j' ∧ (j'.member (memberIndex y)).entered = true ∧
          j' = { j with members := j'.members } ∧ (∀ i, i ≠ memberIndex y → j'.member i = j.member i) ∧ SameMemory s t) ∧
        (memberGen y = j.gen % 1024 → j.met = false → memberEnter y = false → j.weights.length = j.members.length →
          ∃ t j', exec (.jarrive d a b) s = .next t ∧
            CountGiven s t 5 4 d (if j.arrivedWeight + j.weights.getD (memberIndex y) 0 < j.quorum then 1 else 5) ∧
            (t.now.mod.joinSlot (joinKey x)).join = some j' ∧ (j'.member (memberIndex y)).arrived = true ∧ (j'.member (memberIndex y)).now = true ∧
            j'.met = decide (j.quorum ≤ j.arrivedWeight + j.weights.getD (memberIndex y) 0) ∧
            j' = { j with members := j'.members, met := j'.met } ∧ (∀ i, i ≠ memberIndex y → j'.member i = j.member i) ∧ SameMemory s t))) ∧
    (∀ (bytes : List Byte) (w : VecReg), s.waitingBytes 5 x.toNat 256 = .ok bytes → w = BitVec.ofNat 2048 (leNat bytes) → ∃ t, exec (.jopen d a) s = .next t ∧
      CountGiven s t 5 8 d (s.now.mod.joinOpen w s.part s.sv).2.toNat ∧ SameMemory s t ∧ t.now.mod = (s.now.mod.joinOpen w s.part s.sv).1 ∧
      ∀ i, descriptorOk w = true → s.now.mod.imageOk (w.setWidth 128) (fld w 256 32) s.part s.sv = true →
        (capLength (w.extractLsb' 128 128) ≠ 0 → s.now.mod.imageOk (w.extractLsb' 128 128) 1024 s.part s.sv = true) →
        2 * fld w 320 8 * fld w 256 32 ≤ 2 ^ 20 → i < 256 → (s.now.mod.joinSlot (fld w 312 8 * 256 + i)).join = none →
        (∀ k, k < i → (s.now.mod.joinSlot (fld w 312 8 * 256 + k)).join.isSome = true) →
        s.now.mod.reserved (fld w 312 8) + 2 * fld w 320 8 * fld w 256 32 ≤ cacheBytes → s.now.mod.inPart (fld w 312 8) s.part = true →
        ∃ j, (t.now.mod.joinSlot (fld w 312 8 * 256 + i)).join = some j ∧ j.state = .collecting ∧ j.part = s.part ∧ j.target = w.setWidth 128 ∧
          j.klog = w.extractLsb' 128 128 ∧ j.len = fld w 256 32 ∧ j.fmt = fld w 288 8 ∧ j.rule = fld w 296 2 ∧ j.nextRule = fld w 296 2 ∧
          j.quorum = fld w 352 32 ∧ j.gen = 0 ∧ j.members = List.replicate (fld w 320 8) Member.fresh ∧
          j.weights = (List.range (fld w 320 8)).map (fun k => fld w (512 + 16 * k) 16) ∧
          (∀ k, k ≠ fld w 312 8 * 256 + i → t.now.mod.joinSlot k = s.now.mod.joinSlot k)) ∧
    (s.start.mod.joinRemote x = false →
      (∀ j, s.start.mod.joinOf x (some s.part) = some j →
        (j.released (fld y 0 32) = true → ∃ t, exec (.jwait d a b) s = .next t ∧
          CountGiven s t 5 4 d (j.summary (fld y 0 32)).toNat ∧ t.now.ctx.snap = (s.now.ctx.refreshed s.now.mod s.now.self j.scope).snap ∧
          t.now.ctx.rcache = [] ∧ t.now.ctx.l1 = [] ∧ SameMemory s t) ∧
        (j.released (fld y 0 32) = false → ∃ t, exec (.jwait d a b) s = .next t ∧ t.now = s.now ∧ t.iss.held = true)) ∧
      (s.start.mod.joinOf x (some s.part) = none → s.start.ctx.joinWait = none → ∃ t, exec (.jwait d a b) s = .next t ∧
        CountGiven s t 5 4 d (2 ^ 39) ∧ t.now.ctx.snap = s.now.ctx.snap ∧ SameMemory s t)) ∧
    (∀ j, s.now.mod.joinRemote x = false → s.now.mod.findJoin x (some s.part) = some j → fld y 2 62 = 0 → j.state ≠ .closing →
      (fld y 0 2 < 3 → ¬(fld y 0 2 = 1 ∧ 9 ≤ j.fmt) → ∃ t, exec (.jrule d a b) s = .next t ∧ CountGiven s t 5 2 d 0 ∧
        (t.now.mod.joinSlot (joinKey x)).join = some { j with nextRule := fld y 0 2 }) ∧
      (fld y 0 2 = 3 → j.anyEntered = false → j.met = false → j.releasing = [] → ∃ t, exec (.jrule d a b) s = .next t ∧ CountGiven s t 5 2 d 0 ∧
        (t.now.mod.joinSlot (joinKey x)).join = none) ∧
      (fld y 0 2 = 3 → j.anyEntered = false → j.met = false → j.releasing ≠ [] → ∃ t, exec (.jrule d a b) s = .next t ∧ CountGiven s t 5 2 d 0 ∧
        (t.now.mod.joinSlot (joinKey x)).join = some { j with state := .leaving }) ∧
      (fld y 0 2 = 3 → j.anyEntered = true ∨ j.met = true → ∃ t, exec (.jrule d a b) s = .next t ∧ CountGiven s t 5 2 d 0 ∧
        (t.now.mod.joinSlot (joinKey x)).join = some { j with state := .closing }))) ∧
  (∀ (m : Mod) (key : Nat) (j : Join), j.inbox = [] → ∃ j', ((m.joinJudge key j).joinSlot key).join = some j' ∧
    (j.met = false → j'.gen = j.gen ∧ ∀ i, i < j.members.length → (j'.member i).committed =
      if (j.member i).now = true then (j.member i).staging else (j.member i).committed) ∧
    (j.met = true → j'.gen = j.gen + 1 ∧ j'.rule = j.nextRule ∧ j'.met = false ∧ j'.members.length = j.members.length ∧
      (∀ k ∈ j'.members, k.arrived = false ∧ k.entered = false ∧ k.staging = []) ∧
      (∀ i, i < j.members.length → (j'.member i).committed = if (j.member i).now = true then (j.member i).staging else (j.member i).committed)))

/-- kvalloc, kvgrow, kvfork, kvfree and kvinval change one entry of the sequence table and give a handle, a capacity, a count or a
length, or fail and change none. kvalloc gives the handle of a new empty sequence of one segment on a slab taken from the
slice. On a live sequence of the caller's partition: kvgrow appends a segment and gives the new capacity, or with 0 begins to
move the tail to a slab of twice the size; kvfork gives the handle of a sequence of the length asked for, with the segments
that cover it; kvfree ends the life of the handle and gives the pages whose count reached 0; kvinval cuts the length, drops
the segments past it and raises the version. The failures are those of R279: no pages, no free entry, k above 15, a full
chain, a move under way, a length above the sequence's. The entry that changes stands in the table's memory as Table 09-11
says, and no other byte of memory changes, but for a fork that first finishes the parent's move. (spec/09 R277; spec/09 R279;
spec/09 R280; spec/09 R281; spec/09 R282) -/
def Obligations.KeyValueOperationsComplete : Prop :=
  ∀ (s : State) (d : Option (Fin 64)) (a a' : Src) (x y : W64) (e : Seq), a.scalarOk = true → a'.scalarOk = true →
    s.scalar 5 0 a = .ok x → s.scalar 5 1 a' = .ok y →
    (∀ b k, b = y.toNat → fld x 5 59 = 0 → (b = 8 ∨ b = 9) → k = ((s.now.kvReclaim b s.part).mod.kvSlice b s.part) →
      (∀ i sl, k.take (fld x 0 4) (x.getLsbD 4) = .ok sl → k.freeIndex = some i → ∃ t, exec (.kvalloc d a a') s = .next t ∧
        CountGiven s t 5 16 d (kvHandle b i (k.seq i).check).toNat ∧ (t.now.mod.kvSlice b s.part).slabs = sl.2.slabs ∧
        EntryBecomes s t b s.part i
          { Seq.reset with segs := [⟨sl.1, fld x 0 4⟩], dh := x.getLsbD 4, live := true, check := (k.seq i).check }) ∧
      (∀ c, k.take (fld x 0 4) (x.getLsbD 4) = .error c → KvFails s (exec (.kvalloc d a a') s) d b c) ∧
      (∀ sl, k.take (fld x 0 4) (x.getLsbD 4) = .ok sl → k.freeIndex = none → KvFails s (exec (.kvalloc d a a') s) d b 2)) ∧
    (LiveHere s x e → ∀ k, k = ((s.now.kvReclaim (kvDie x) s.part).mod.kvSlice (kvDie x) s.part) →
      (e.moving = false → y.toNat ≠ 0 ∨ e.segs = [] → y.toNat ≤ 16 → e.segs.length < 8 → ∀ sl, k.take (y.toNat - 1) e.dh = .ok sl → ∃ t,
        exec (.kvgrow d a a') s = .next t ∧ CountGiven s t 5 16 d (e.capacity + 64 * 2 ^ (y.toNat - 1)) ∧
        (t.now.mod.kvSlice (kvDie x) s.part).slabs = sl.2.slabs ∧ EntryBecomes s t (kvDie x) s.part (kvIndex x)
          { e with segs := e.segs ++ [⟨sl.1, y.toNat - 1⟩], version := (e.version + 1) % 2 ^ 16 }) ∧
      (∀ l g sl, e.moving = false → y.toNat = 0 → e.segs = l ++ [g] → g.k < 15 → k.take (g.k + 1) e.dh = .ok sl → ∃ t,
        exec (.kvgrow d a a') s = .next t ∧ CountGiven s t 5 16 d (e.capacity + 64 * 2 ^ g.k) ∧
        (t.now.mod.kvSlice (kvDie x) s.part).slabs = sl.2.slabs ∧ EntryBecomes s t (kvDie x) s.part (kvIndex x)
          { e with segs := l ++ [⟨g.base, g.k + 1⟩], moving := true, fold := g.base, fnew := sl.1, fmark := 0, fseg := l.length
                   version := (e.version + 1) % 2 ^ 16 }) ∧
      (e.moving = true → KvFails s (exec (.kvgrow d a a') s) d (kvDie x) 5) ∧
      (e.moving = false → 16 < y.toNat ∨ (y.toNat = 0 ∧ ∃ l g, e.segs = l ++ [g] ∧ 15 ≤ g.k) → KvFails s (exec (.kvgrow d a a') s) d (kvDie x) 3) ∧
      (e.moving = false → 1 ≤ y.toNat → y.toNat ≤ 16 → 8 ≤ e.segs.length → KvFails s (exec (.kvgrow d a a') s) d (kvDie x) 4) ∧
      (∀ c, e.moving = false → 1 ≤ y.toNat → y.toNat ≤ 16 → e.segs.length < 8 → k.take (y.toNat - 1) e.dh = .error c →
        KvFails s (exec (.kvgrow d a a') s) d (kvDie x) c)) ∧
    (LiveHere s x e → ∀ k, k = (s.now.mod.kvSlice (kvDie x) s.part) →
      (∀ i, y.toNat ≤ e.length → k.freeIndex = some i → ∃ t, exec (.kvfork d a a') s = .next t ∧
        CountGiven s t 5 16 d (kvHandle (kvDie x) i (k.seq i).check).toNat ∧
        (e.moving = false → EntryBecomes s t (kvDie x) s.part i
          { Seq.reset with length := y.toNat, segs := coverSegs y.toNat e.segs 0, dh := e.dh, live := true, check := (k.seq i).check })) ∧
      (e.length < y.toNat → KvFails s (exec (.kvfork d a a') s) d (kvDie x) 6) ∧
      (y.toNat ≤ e.length → k.freeIndex = none → KvFails s (exec (.kvfork d a a') s) d (kvDie x) 2)) ∧
    (LiveHere s x e → ∃ t, exec (.kvfree d a) s = .next t ∧
      CountGiven s t 5 16 d ((((s.now.kvReclaim (kvDie x) s.part).mod.kvSlice (kvDie x) s.part).dropAll
        (e.segs.map (·.base) ++ if e.moving then [e.fnew] else [])).2) ∧
      t.now.mod.kvLive s.part x = none ∧ EntryBecomes s t (kvDie x) s.part (kvIndex x) { Seq.reset with check := e.check + 1 }) ∧
    (LiveHere s x e → (y.toNat ≤ e.length → ∃ t, exec (.kvinval d a a') s = .next t ∧ CountGiven s t 5 16 d y.toNat ∧
        (e.moving = false ∨ e.fseg < (coverSegs y.toNat e.segs 0).length → EntryBecomes s t (kvDie x) s.part (kvIndex x)
          { e with length := y.toNat, segs := coverSegs y.toNat e.segs 0, version := (e.version + 1) % 2 ^ 16 }) ∧
        (e.moving = true → (coverSegs y.toNat e.segs 0).length ≤ e.fseg → EntryBecomes s t (kvDie x) s.part (kvIndex x)
          { e with length := y.toNat, segs := coverSegs y.toNat e.segs 0, version := (e.version + 1) % 2 ^ 16, moving := false
                   fold := 0, fnew := 0, fmark := 0, fseg := 0 })) ∧
      (e.length < y.toNat → KvFails s (exec (.kvinval d a a') s) d (kvDie x) 6))

/-- Work queues and the admission heap take records in order and give them back, once each. With nothing left to publish, ahpush
puts a request of its launch's partition on a heap with room and gives 0, gives 1 for a full heap and 2 for a b with high bits;
wqpush appends its record to an open queue with room and gives 0, gives it to an event feed, or gives 1 for a full queue, 2
for a closed one and 3 for one that is disabled or refuses or for a record with handler or reserved bits. ahsel takes from the
heap requests of its launch's partition alone, the earliest deadlines first, within its budget; it writes their entries to the
scratchpad, gives count, reason and budget left, and refreshes when it takes any. A pop with a record to find takes it from
the queue, gives it with its task handle, holds it as the task and refreshes; on a closed and empty queue it gives 2; on an
open and empty one wqtry gives 1 and wqpop cannot issue. wqclose closes the queue and says whether it was closed. (spec/06 R188;
spec/06 R189; spec/01 R28; spec/01 R29; spec/01 R31; spec/09 R292; spec/09 R293) -/
def Obligations.QueueAndHeapOperationsComplete : Prop :=
  (∀ (n : Nat) (m : Mod) (part budget : Nat) (r : Mod × List HeapEntry × Nat × Nat), r = m.heapSelect n part budget [] →
    r.1.heap = m.heap.filter (fun e => !r.2.1.contains e) ∧ (r.2.1.map (·.cost)).sum + r.2.2.2 = budget ∧
    (∀ e ∈ r.2.1, e ∈ m.heap ∧ e.part = part ∧ ∀ f ∈ r.1.heap, f.part = part → e.deadline ≤ f.deadline) ∧ r.2.1.length ≤ n ∧
    (r.2.1.map (·.deadline)).Pairwise (· ≤ ·) ∧
    ((r.2.2.1 = 2 ∧ r.2.1.length = n) ∨ (r.2.2.1 = 1 ∧ ∀ f ∈ r.1.heap, f.part ≠ part) ∨
      (r.2.2.1 = 0 ∧ ∃ f ∈ r.1.heap, f.part = part ∧ r.2.2.2 < f.cost ∧ ∀ g ∈ r.1.heap, g.part = part → f.deadline ≤ g.deadline))) ∧
  ∀ (s : State) (d : Option (Fin 64)) (a b : Src) (x y : W64), a.scalarOk = true → b.scalarOk = true →
    s.scalar 5 0 a = .ok x → s.scalar 5 1 b = .ok y →
    (Published s → ∃ t, exec (.ahpush d a b) s = .next t ∧ SameMemory s t ∧
      CountGiven s t 5 8 d (if fld y 32 32 ≠ 0 then 2 else if 4096 ≤ s.now.mod.heap.length then 1 else 0) ∧
      t.now.mod.heap = if fld y 32 32 ≠ 0 ∨ 4096 ≤ s.now.mod.heap.length then s.now.mod.heap else
        s.now.mod.heap ++ [⟨fld x 0 48, fld x 48 16, y.extractLsb' 0 32, s.now.selfPart, s.now.mod.heapSerial, s.now.mod.tick, s.now.selfRank⟩]) ∧
    (s.rcd.gSp ≠ 0 → s.spOk y.toNat 1024 = true → y.toNat % 128 = 0 →
      (fld x 32 32 ≠ 0 → ∃ t, exec (.ahsel d a b) s = .next t ∧ CountGiven s t 5 16 d (3 * 2 ^ 8 + fld x 0 32 * 2 ^ 16) ∧ t.now.mod = s.now.mod ∧
        t.now.core = s.now.core) ∧
      (fld x 32 32 = 0 → ∀ m out reason left, s.now.mod.heapSelect 64 s.part (fld x 0 32) [] = (m, out, reason, left) → ∃ t,
        exec (.ahsel d a b) s = .next t ∧ CountGiven s t 5 16 d ((out.length + reason * 2 ^ 8 + left * 2 ^ 16) % 2 ^ 64) ∧
        t.now.mod.heap = m.heap ∧ EntriesAt s t (spKeyOf s.place y.toNat) out ∧ SameMemory s t ∧
        (out ≠ [] → t.now.ctx.snap = (s.now.ctx.refreshed s.now.mod s.now.self .mod).snap ∧ t.now.ctx.l1 = [] ∧ t.now.ctx.rcache = []))) ∧
    (∀ die q, s.queueOf x = .ok (die, q) → ∀ w, w = s.now.mod.queue die q → w.mode ≠ 1 → w.mode ≠ 2 → s.start.ctx.user.flag statusHeld = false →
      ∀ (d : Option (Fin 32)) (o : Answer), (o = exec (.wqpop d a) s ∨ o = exec (.wqtry d a) s) →
      (∀ i, w.find s.now.cid s.now.xid = .record i → ∃ t r h, o = .next t ∧ w.recs[i]? = some r ∧ h = taskHandle die q w.seq ∧
        XResult s t d (BitVec.ofNat 2048 (h.toNat * 2 ^ 64 + r.toNat * 2 ^ 128)) ∧ (t.now.mod.queue die q).recs = w.recs.eraseIdx i ∧
        (t.now.mod.queue die q).seq = w.seq + 1 ∧ t.now.ctx.user.task = r ∧ t.now.ctx.user.handle = h ∧ t.now.ctx.user.flag statusHeld = true ∧
        t.now.ctx.user.flag statusEffect = false ∧ t.now.ctx.l1 = [] ∧ t.now.ctx.rcache = [] ∧
        t.now.ctx.snap = (s.now.ctx.refreshed s.now.mod s.now.self .mod).snap) ∧
      (w.find s.now.cid s.now.xid = .closed → ∃ t, o = .next t ∧ XResult s t d 2 ∧ (t.now.mod.queue die q).recs = w.recs ∧
        t.now.ctx.user.status = s.now.ctx.user.status) ∧
      (w.find s.now.cid s.now.xid = .empty →
        (o = exec (.wqtry d a) s → ∃ t, o = .next t ∧ XResult s t d 1 ∧ (t.now.mod.queue die q).recs = w.recs ∧
          t.now.ctx.user.status = s.now.ctx.user.status) ∧
        (o = exec (.wqpop d a) s → ∃ t, o = .next t ∧ t.now = s.now ∧ t.iss.held = true ∧ t.iss.waitq = some (die * 64 + q)))) ∧
    (∀ die q (k : Fin 32) (v : VecReg), s.queueOf x = .ok (die, q) → s.dataV 5 1 k = .ok v → ∀ w, w = s.now.mod.queue die q →
      (fld v 49 15 ≠ 0 → ∃ t, exec (.wqpush k a) s = .next t ∧ CountGiven s t 5 8 none 3 ∧ t.now.mod = s.now.mod) ∧
      (Published s → fld v 49 15 = 0 →
        (w.cap = 0 ∨ w.mode = 3 → ∃ t, exec (.wqpush k a) s = .next t ∧ CountGiven s t 5 8 none 3 ∧ SameMemory s t ∧ t.now.mod.queue die q = w) ∧
        (w.cap ≠ 0 → w.mode ≠ 3 → w.closed = true → ∃ t, exec (.wqpush k a) s = .next t ∧ CountGiven s t 5 8 none 2 ∧ SameMemory s t ∧
          t.now.mod.queue die q = w) ∧
        (w.cap ≠ 0 → w.mode ≠ 3 → w.closed = false → w.mode ≠ 2 → w.cap ≤ w.recs.length → ∃ t, exec (.wqpush k a) s = .next t ∧
          CountGiven s t 5 8 none 1 ∧ SameMemory s t ∧ t.now.mod.queue die q = w) ∧
        (w.cap ≠ 0 → w.mode ≠ 3 → w.closed = false → w.mode = 2 → ∃ t, exec (.wqpush k a) s = .next t ∧ CountGiven s t 5 8 none 0) ∧
        (w.cap ≠ 0 → w.mode ≠ 3 → w.closed = false → w.mode ≠ 2 → w.recs.length < w.cap → ∃ t, exec (.wqpush k a) s = .next t ∧
          CountGiven s t 5 8 none 0 ∧ SameMemory s t ∧ Appended w (t.now.mod.queue die q) s.tick s.now.selfRank (v.setWidth 512)))) ∧
    (∀ die q, s.queueOf x = .ok (die, q) → ∃ t, exec (.wqclose d a) s = .next t ∧
      CountGiven s t 5 8 d (if (s.now.mod.queue die q).closed then 1 else 0) ∧ (t.now.mod.queue die q).closed = true ∧ SameMemory s t ∧
      (t.now.mod.queue die q).recs = (s.now.mod.queue die q).recs)

/-- In supervisor code the privileged operations read and write registers and banks, control launches, and post records. In
supervisor code with readable sources: srd reads a register of the caller's own and 0 of another's, and of take it joins the
takes of the cycle, whose only one is granted when the semaphore is free or its own; swr writes or says why not; ubrd and ubwr
read and write eight bytes of the user bank image. lctl gives 1 for no launch, 3 for another partition's and 2 in the wrong
state; else park asks for the park and waits, resume brings a parked launch back or makes a saved one a candidate, and abort
ends the launch. otinv and otinv.all forget entries and the bytes read under them. mcall queues a request and waits, or holds
with the mailbox full; erpost posts the record, or gives 1 for a disabled ring and 2 for no room. mans, which only Brosy runs,
takes its request from the mailbox and gives the answer. An answer lands in every register that waits for it. (spec/13 R322;
spec/13 R323; spec/13 R324; spec/13 R325; spec/13 R326; spec/13 R327; spec/13 R328; spec/13 R336; spec/14 R355; spec/14 R359;
spec/05 R147) -/
def Obligations.SupervisorOperationsComplete : Prop :=
  (∀ (m : Mach) (c x rq : Nat) (v : VecReg) (k : Fin 64) (w : Window), m.holds c = false → w ∈ (m.ctxAt c x).windows → w.req = some rq →
    w.reg = .s k → ((m.answer c x rq v).ctxAt c x).bank.s[k] = v.setWidth 64 ∧
      (∀ w' ∈ ((m.answer c x rq v).ctxAt c x).windows, w'.req ≠ some rq) ∧ ∀ p ∈ ((m.answer c x rq v).ctxAt c x).pending, p.asks rq = false) ∧
  (∀ (m : Mach) (c x rq : Nat), m.mod.takes = [⟨c, x, rq⟩] → m.mod.rdy.getLsbD 0 = true →
    m.decideTakes [] = if m.mod.semaOwner = 0 ∨ m.mod.semaOwner = 3 then
        ({ m with mod := { m.mod with takes := [], semaOwner := 3, semaLast := 3, since := m.mod.tick } } : Mach).answer c x rq 7
      else ({ m with mod := { m.mod with takes := [] } } : Mach).answer c x rq (BitVec.ofNat 2048 (m.mod.semaOwner % 2 ^ 63 * 2))) ∧
  ∀ (s : State) (d : Option (Fin 64)) (a b : Src) (x y : W64), a.scalarOk = true →
    s.scalar 6 0 a = .ok x → s.scalar 6 1 b = .ok y →
    (b.scalarOk = true → s.start.core.launch = none → s.now.core.launch = none →
      (∀ q, s.now.mod.mail.find? (fun r => BitVec.ofNat 64 r.num = x) = some q → ∃ t, exec (.mans a b) s = .next t ∧
        t.now = ({ s.now with mod := { s.now.mod with mail := s.now.mod.mail.filter (· ≠ q) } } : Mach).answer q.core q.ctx q.req (y.setWidth 2048)) ∧
      (s.now.mod.mail.find? (fun r => BitVec.ofNat 64 r.num = x) = none → exec (.mans a b) s = .next s)) ∧
    (s.sv = true →
    (fld x 0 16 ≠ 0xF003 → GivesS s (exec (.srd d a) s) 6 4 d (if s.now.mod.ownReg s.part (fld x 0 16) then s.now.mod.readReg (fld x 0 16) else 0)) ∧
    (fld x 0 16 = 0xF003 → ∃ t, exec (.srd d a) s = .next t ∧ AwaitsAnswer s t 6 4 d ∧
      t.now.mod = { s.now.mod with takes := s.now.mod.takes ++ [⟨s.now.cid, s.now.xid, s.now.ctx.reqNext⟩] }) ∧
    (b.scalarOk = true → ∀ r, r = s.now.mod.writeReg (.supervisor s.die s.start.core.lcore) s.part (fld x 0 16) y →
      (∀ m, r = .ok m → GivesS (s.onMod fun _ => m) (exec (.swr d a b) s) 6 4 d 0) ∧
      (r = .error .access → GivesS s (exec (.swr d a b) s) 6 4 d 1) ∧ (r = .error .value → GivesS s (exec (.swr d a b) s) 6 4 d 2) ∧
      (r = .error .semaphore → GivesS s (exec (.swr d a b) s) 6 4 d 3)) ∧
    (b.scalarOk = true → ∀ k o (c : Ctx), s.bankAt x y = .ok (k, o) → c = (if k = s.start.xid then s.start.ctx else s.start.core.ctxs.getD k Ctx.idle) →
      (∀ r, imageReg o = some r → r ∉ c.userPoison) →
      ((∀ r, imageReg o = some r → ∀ w ∈ c.userWindows, w.reg ≠ r) → GivesS s (exec (.ubrd d a b) s) 6 2 d (c.user.image s.strict o)) ∧
      (∀ r, imageReg o = some r → (∃ w ∈ c.userWindows, w.reg = r) → GivesS s (exec (.ubrd d a b) s) 6 2 d (s.free? 64 6 2))) ∧
    (b.scalarOk = true → ∀ k o v (r : Fin 64), s.bankAt x y = .ok (k, o) → s.dataS 6 2 r = .ok v → s.now.holds s.now.cid = true → k < s.now.core.ctxs.length →
      s.now.xid < s.now.core.ctxs.length → ∃ t, exec (.ubwr r a b) s = .next t ∧ t.now.mod = s.now.mod ∧
        (t.now.ctxAt s.now.cid k).user = (s.now.ctxAt s.now.cid k).user.putImage o v ∧
        ∀ j, j ≠ k → t.now.ctxAt s.now.cid j = s.now.ctxAt s.now.cid j) ∧
    (∀ id : W32, id = x.setWidth 32 → ∀ o, (o = exec (.lctlPark d a) s ∨ o = exec (.lctlRes d a) s ∨ o = exec (.lctlAbort d a) s) →
      (tfind id.toNat s.now.mod.launches = none → GivesS s o 6 16 d 1) ∧
      (∀ l, tfind id.toNat s.now.mod.launches = some l → l.record.part ≠ s.part → GivesS s o 6 16 d 3)) ∧
    (∀ (id : W32) l, id = x.setWidth 32 → tfind id.toNat s.now.mod.launches = some l → l.record.part = s.part →
      (l.state ≠ .running ∨ id = s.launchId → GivesS s (exec (.lctlPark d a) s) 6 16 d 2) ∧
      (l.state = .running → id ≠ s.launchId → ∃ t l', exec (.lctlPark d a) s = .next t ∧ tfind id.toNat t.now.mod.launches = some l' ∧
        l'.source = (if l.asked then l.source else .lctl) ∧ l'.waiters = l.waiters ++ [(s.now.cid, s.now.xid, s.now.ctx.reqNext)] ∧
        (if ∀ e ∈ s.now.launchCores id, e.2.svHolder = none then l'.state = .draining ∧ l'.parkTick = s.tick else l'.state = .running ∧ l'.asked = true) ∧
        AwaitsAnswer s t 6 16 d ∧ t.now.ctx.pending = s.now.ctx.pending ++ [Pending.park id s.now.ctx.reqNext d]) ∧
      (l.source ≠ .lctl ∨ (l.state ≠ .parked ∧ l.state ≠ .saving ∧ l.state ≠ .saved) → GivesS s (exec (.lctlRes d a) s) 6 16 d 2) ∧
      (l.source = .lctl → l.state = .parked → (∀ c ∈ l.cores, s.now.holds c = false) → ∃ t l', exec (.lctlRes d a) s = .next t ∧
        CountGiven s t 6 16 d 0 ∧ tfind id.toNat t.now.mod.launches = some l' ∧ l'.state = .running ∧
        ∀ c ∈ l.cores, ∀ k ∈ (t.now.coreAt c).ctxs, k.st ≠ .parked) ∧
      (l.source = .lctl → (l.state = .saving ∨ l.state = .saved) → l.die < 10 → ∃ t l', exec (.lctlRes d a) s = .next t ∧
        CountGiven s t 6 16 d 0 ∧ tfind id.toNat t.now.mod.launches = some l' ∧ l'.source = .scheduler ∧ l'.state = l.state ∧
        ∃ k, k.parked = some id ∧ (t.now.mod.die l.die).cands = (s.now.mod.die l.die).cands ++ [k]) ∧
      (∃ t, exec (.lctlAbort d a) s = .next t ∧ tfind id.toNat t.now.mod.launches = none ∧
        (l.waiters = [] → s.now.core.launch ≠ some id → CountGiven s t 6 16 d 0 ∧
          ∀ c ∈ l.cores, (s.now.coreAt c).launch = some id → t.now.coreAt c = Core.idle))) ∧
    (s.now.core.launch.isSome = true → s.now.xid < s.now.core.ctxs.length →
      (∃ t, exec (.otinv a) s = .next t ∧ tfind (fld x 0 24) t.now.mod.entries = none ∧
        (∀ j, j ≠ fld x 0 24 → tfind j t.now.mod.entries = tfind j s.now.mod.entries) ∧ t.now.ctx.bank = s.now.ctx.bank ∧
        t.now.ctx.unpub = s.now.ctx.unpub ∧ (∀ e ∈ t.now.ctx.l1, e.1 / 2 ^ 64 ≠ fld x 0 24) ∧ SameMemory s t) ∧
      (∃ t, exec .otinvAll s = .next t ∧ t.now.mod.entries = [] ∧ t.now.ctx.bank = s.now.ctx.bank ∧ t.now.ctx.unpub = s.now.ctx.unpub ∧
        (∀ k, Memory.read t.now.ctx.snap k = s.now.mod.shown (some s.now.self) k) ∧ t.now.ctx.l1 = [] ∧ t.now.ctx.rcache = [] ∧ SameMemory s t)) ∧
    (b.scalarOk = true → (64 ≤ s.now.mod.mail.length → Holds s (exec (.mcall d a b) s)) ∧
      (s.now.mod.mail.length < 64 → ∃ t, exec (.mcall d a b) s = .next t ∧ AwaitsAnswer s t 6 1 d ∧
        t.now.mod = { s.now.mod with
          mail := s.now.mod.mail ++ [⟨s.now.mod.mailNext, s.now.cid, s.now.xid, s.now.ctx.reqNext, d, x, y⟩], mailNext := s.now.mod.mailNext + 1 } ∧
        t.now.ctx.pending = s.now.ctx.pending ++ [Pending.monitor s.now.ctx.reqNext])) ∧
    (∀ (v : VecReg) r, b.vectorOk = true → s.vector 6 1 .z64 b = .ok v → r = fld x 0 4 →
      ((s.now.mod.ring r).en = false → GivesS s (exec (.erpost d a b) s) 6 8 d 1) ∧
      ((s.now.mod.ring r).en = true → (s.now.mod.ringOpen r = false ∨ ∃ p ∈ s.now.mod.pendRecs, p.1 = r) → 4096 ≤ s.now.mod.pendRecs.length →
        GivesS s (exec (.erpost d a b) s) 6 8 d 2) ∧
      ((s.now.mod.ring r).en = true →
        ((s.now.mod.ringOpen r = true ∧ ¬∃ p ∈ s.now.mod.pendRecs, p.1 = r) ∨ s.now.mod.pendRecs.length < 4096) →
        ∃ t, exec (.erpost d a b) s = .next t ∧ CountGiven s t 6 8 d 0 ∧
          t.now.mod = s.now.mod.post r (setFld (v.setWidth 256 : BitVec 256) 32 8 0x20))))

/-- Each event of the launch schedulers and of the pacer, when its condition holds, does to queues, candidates and launches what
its rule says. With no bundle under issue: a launch queue's oldest record leaves it and becomes a candidate unless a check
refuses it; placement accepts a candidate on its cores, each in its entry state, or begins to save a parked launch whose cores
it needs; a candidate past the wait limit is refused and counted; an aged candidate takes its place in tier 1, and an urgent
one in tier 0; pre-emption asks its victims to park; a park completes up to its deadline or is abandoned after it; saving
frees the cores and keeps their contents; resumption and restoring bring the launch back to running; a context above its
die's ceiling for the overrun limit is counted and its launch parked; an aging hold ends a run. (spec/14 R342; spec/14 R343;
spec/14 R344; spec/14 R345; spec/14 R347; spec/14 R353; spec/14 R356; spec/14 R357; spec/14 R358; spec/14 R361; spec/14 R362;
spec/01 R21) -/
def Obligations.SchedulerEventsComplete : Prop :=
  ∀ (s : State) (die part idx core : Nat) (launch : W32), s.now.core.launch = none →
    let m := s.now.mod
    (∀ q, die < 10 → (m.die die).cands.length < 64 → m.nextQueue die = some q →
      let raw : Rec := (m.queue die q).recs.getD 0 0
      let r := launchRecord raw (m.queue die q).part
      ∃ t, exec (.launchQueuePop die) s = .next t ∧ (t.now.mod.queue die q).recs = (m.queue die q).recs.drop 1 ∧ t.now.mod.launches = m.launches ∧
        t.now.mod.cores = m.cores ∧ (∀ i, (m.dequeue die q).refusals raw r = ([], i) →
          (t.now.mod.die die).cands = (m.die die).cands ++ [⟨r, i, m.tick, (m.die die).order, none, none⟩]) ∧
        (((m.dequeue die q).refusals raw r).1 ≠ [] → (t.now.mod.die die).cands = (m.die die).cands)) ∧
    (∀ c cores, die < 10 → m.placeable die part = some (c, cores) → c.parked = none → m.ringWaits c.record.ring = false → cores.Nodup →
      ∃ t, exec (.placement die part) s = .next t ∧ PageJudged s t die ∧ c ∉ (t.now.mod.die die).cands ∧
        (∀ x ∈ (m.die die).cands, x ≠ c → x ∈ (t.now.mod.die die).cands) ∧
        ∀ id : W32, id = BitVec.ofNat 32 (die + ((m.die die).accepted + 1) % 2 ^ 28 * 16) →
          tfind id.toNat t.now.mod.launches = some { Launch.none with
            record := c.record, img := c.img, die := die, tier := 1 + c.record.pclass, accepted := m.tick, cores := cores } ∧
          ∀ i k, cores[i]? = some k → EnteredCore t.now.mod id c.record c.img i k) ∧
    (∀ c rest v k, die < 10 → m.placeable die part = none → m.ranked die part = c :: rest → c.parked = none →
      m.enough die c.record [] [] (m.parkedVictims part) = some [v] → v.1 < 2 ^ 32 → tfind v.1 m.launches = some v.2 →
      (m.judgePage die).freeSlot die v.2.record [] = some k → ∃ t, exec (.placement die part) s = .next t ∧ PageJudged s t die ∧
        tfind v.1 t.now.mod.launches = some { v.2 with state := .saving, slot := some (16 * die + k) } ∧ (t.now.mod.die die).cands = (m.die die).cands) ∧
    (∀ c, (m.ranked die part).find? (fun c => c.parked.isNone && decide (c.entered + m.wlimit die ≤ m.tick)) = some c → m.wlimit die ≠ 0 →
      ∃ t, exec (.placementWaitLimit die part) s = .next t ∧ c ∉ (t.now.mod.die die).cands ∧
        (∀ x ∈ (m.die die).cands, x ≠ c → x ∈ (t.now.mod.die die).cands) ∧ (t.now.mod.die die).wrefused = (m.die die).wrefused + 1 ∧
        t.now.mod.launches = m.launches ∧ t.now.mod.cores = m.cores) ∧
    (∀ c, (m.die die).cands[idx]? = some c → c.record.pclass ≠ 0 → c.aged = none → m.aging die c.record.pclass ≠ 0 →
      c.entered + m.aging die c.record.pclass ≤ m.tick → ∃ t, exec (.candidateAging die idx) s = .next t ∧ PageJudged s t die ∧
        (t.now.mod.die die).cands[idx]? = some { c with aged := some (m.die die).order } ∧
        (∀ j, j ≠ idx → (t.now.mod.die die).cands[j]? = (m.die die).cands[j]?) ∧
        (m.pageBad die = false → m.urgent die c = false →
          t.now.mod.rank die { c with aged := some (m.die die).order } = [1, 1, (m.die die).order])) ∧
    (∀ c, (m.die die).cands[idx]? = some c → m.urgent die c = true → ∃ t, exec (.urgencyWindowEntry die idx) s = .next t ∧ PageJudged s t die ∧
      ((t.now.mod.die die).cands).Perm (m.die die).cands ∧
      (m.pageBad die = false → t.now.mod.rank die c = [0, m.deadline c.record, c.order])) ∧
    (∀ c rest vs, m.ranked die part = c :: rest → c.entered + m.ptime die ≤ m.tick →
      (m.preMask die).testBit (if m.tierOf die c = 0 then 0 else c.record.pclass) = true → m.fit die c.record (m.pledged part) false = none →
      m.enough die c.record (m.pledged part) [] (m.slotted die [] (m.victims part (m.tierOf die c))) = some vs →
      (∀ e ∈ m.launches, e.1 < 2 ^ 32 ∧ tfind e.1 m.launches = some e.2) →
      ∃ t, exec (.preemptionDecision die part) s = .next t ∧ PageJudged s t die ∧ ∀ v ∈ vs, ParkAsked t v.1 .scheduler) ∧
    (∀ l, tfind launch.toNat m.launches = some l → l.state = .draining → s.now.launchLanded launch = true → m.tick ≤ l.parkTick + m.drainLimit l.die →
      ∃ t l', exec (.parkComplete launch) s = .next t ∧ tfind launch.toNat t.now.mod.launches = some l' ∧ l'.state = .parked ∧ l'.cores = l.cores ∧
        l'.waiters = [] ∧ (l.die < 10 → (t.now.mod.die l.die).parks = (m.die l.die).parks + 1 ∧
          (l.source = .scheduler → ∃ k ∈ (t.now.mod.die l.die).cands, k.parked = some launch)) ∧
        ∀ c ∈ l.cores, (t.now.coreAt c).running = none ∧ ∀ k ∈ (t.now.coreAt c).ctxs, (k.st = .parked ∨ k.st = .ending ∨ k.st = .ended) ∧
          ∀ o ∈ k.engine, o.parked = decide (o.status = 0)) ∧
    (∀ l, tfind launch.toNat m.launches = some l → l.state = .draining → (l.parkTick + m.drainLimit l.die ≤ m.tick ∧ s.now.launchLanded launch = false) ∨
        l.parkTick + m.drainLimit l.die < m.tick →
      ∃ t l', exec (.parkAbandon launch) s = .next t ∧ tfind launch.toNat t.now.mod.launches = some l' ∧
        l'.state = .running ∧ l'.cores = l.cores ∧ l'.waiters = [] ∧ SameMemory s t) ∧
    (∀ l, tfind launch.toNat m.launches = some l → l.state = .saving →
      ((s.now.launchCores launch).all fun e => e.2.ctxs.all fun c => decide (c.acks = []) && c.engine.all (·.parked)) = true →
      ∃ t l', exec (.saveComplete launch) s = .next t ∧ tfind launch.toNat t.now.mod.launches = some l' ∧ l'.state = .saved ∧ l'.cores = [] ∧
        l'.images = l.cores.map (fun c => tget Core.idle c m.cores) ∧ ∀ c ∈ l.cores, tfind c t.now.mod.cores = none) ∧
    (∀ l, tfind launch.toNat m.launches = some l →
      (l.state = .parked → l.source = .overrun → s.now.ceilingsRisen launch = true → ∃ t l', exec (.resumption launch) s = .next t ∧
        tfind launch.toNat t.now.mod.launches = some l' ∧ l'.state = .running ∧ ∀ c ∈ l.cores, ∀ k ∈ (t.now.coreAt c).ctxs, k.st ≠ .parked) ∧
      (∀ c rest, m.ranked l.die l.record.part = c :: rest → c.parked = some launch →
        (l.state = .parked → l.source = .scheduler → ∃ t l', exec (.resumption launch) s = .next t ∧
          tfind launch.toNat t.now.mod.launches = some l' ∧ l'.state = .running ∧ (∀ x ∈ (t.now.mod.die l.die).cands, l.die < 10 → x.parked ≠ some launch) ∧
          ∀ c ∈ l.cores, ∀ k ∈ (t.now.coreAt c).ctxs, k.st ≠ .parked) ∧
        (∀ cores, l.state = .saved → m.fit l.die l.record [] false = some cores → ∃ t, exec (.resumption launch) s = .next t ∧
          tfind launch.toNat t.now.mod.launches = some { l with state := .restoring, cores := cores }) ∧
        (∀ v k, l.state = .saved → m.fit l.die l.record [] false = none → m.enough l.die l.record [] [] (m.parkedVictims l.record.part) = some [v] →
          v.1 < 2 ^ 32 → tfind v.1 m.launches = some v.2 → (m.judgePage l.die).freeSlot l.die v.2.record [] = some k →
          ∃ t, exec (.resumption launch) s = .next t ∧
            tfind v.1 t.now.mod.launches = some { v.2 with state := .saving, slot := some (16 * l.die + k) }))) ∧
    (∀ l, tfind launch.toNat m.launches = some l → l.state = .restoring → ∃ t l', exec (.restoreComplete launch) s = .next t ∧
      tfind launch.toNat t.now.mod.launches = some l' ∧ l'.state = .running ∧ l'.images = [] ∧ l'.slot = none ∧ l'.cores = l.cores ∧
      ∀ c ∈ l.cores, ∀ k ∈ (t.now.coreAt c).ctxs, k.st ≠ .parked) ∧
    (∀ l e c d since, die < 10 → tfind launch.toNat m.launches = some l → m.overrunLimit die ≠ 0 → l.state = .running → l.asked = false →
      e ∈ s.now.launchCores launch → e.1 / 64 = die → c ∈ e.2.ctxs → c.duty = some d → (m.die die).ceil < d → c.overSince = some since →
      since + m.overrunLimit die ≤ m.tick →
      ∃ t, exec (.pacerOverrun die launch) s = .next t ∧ (t.now.mod.die die).overruns = (m.die die).overruns + 1 ∧ ParkAsked t launch.toNat .overrun) ∧
    (∀ x, (s.now.coreAt core).running = some x → (s.now.coreAt core).aged = true → ∃ t, exec (.agingHold core) s = .next t ∧
      (t.now.coreAt core).running = none ∧ (t.now.ctxAt core x).st ≠ .running ∧ t.now.mod.mem = m.mem)

/-- Each event of a core and its contexts, when its condition holds, does what its rule says. With no bundle under issue: a
selected context delivers its first fault by entering the supervisor, or waits while the bank is taken; closed windows go and
what registers read stays; sector arrivals change nothing; an entry that arrives is kept; a remote write reaches the bank, and
a remote read waits for full lines and lands; an ending context with nothing outstanding ends, and the last one ends the
launch; a kill restarts a blocked context at its kill entry with the killed flag; a wait ends at its tick; handler and replay
records are pushed in order when there is room and the context restarts; a publish brings every unpublished byte home. (spec/15 R377; spec/13 R317; spec/05 R146; spec/02 R61; spec/01 R16; spec/01 R27; spec/01 R34;
spec/01 R35; spec/15 R381; spec/06 R186; spec/04 R109; spec/15 R368) -/
def Obligations.CoreEventsComplete : Prop :=
  ∀ (s : State) (core ctx : Nat), s.now.core.launch = none →
    let k := s.now.coreAt core
    let y := s.now.ctxAt core ctx
    (s.now.live core ctx = true → k.running = none → y.st = .ready →
      let m := s.now.load core ctx
      (m.dueFault = none → ∃ t, exec (.faultDelivery core ctx) s = .next t ∧ t.now.ctxAt core ctx = y) ∧
      (∀ f, m.dueFault = some f → y.saved = none → m.enterable f.kind = true → m.bankTaken = false →
        ∃ t, exec (.faultDelivery core ctx) s = .next t ∧ (t.now.coreAt core).svHolder = some ctx ∧ (t.now.ctxAt core ctx).saved = some y.bank ∧
          (t.now.ctxAt core ctx).svKind = f.kind ∧ (t.now.ctxAt core ctx).svRecord = f.delivered y.bank.pc ∧
          (t.now.ctxAt core ctx).bank.pc = (s.now.mod.die (core / 64)).tvec + BitVec.ofNat 64 (256 * f.kind) ∧
          (t.now.ctxAt core ctx).faults = y.faults.erase f) ∧
      (∀ f, m.dueFault = some f → y.saved = none → m.enterable f.kind = true → m.bankTaken = true →
        ∃ t, exec (.faultDelivery core ctx) s = .next t ∧ t.now.ctxAt core ctx = { y with st := .blocked, waitBank := true })) ∧
    (ctx < k.ctxs.length → ∃ t, exec (.resultLanding core ctx) s = .next t ∧ (t.now.ctxAt core ctx).bank = y.bank ∧ SameMemory s t ∧
      (∀ r n, s.tick ≤ n → (t.now.ctxAt core ctx).open n r = y.open n r) ∧
      ∀ w ∈ (t.now.ctxAt core ctx).windows, w ∈ y.windows ∧ (w.req = none → ∀ u, w.until' = some u → s.tick < u)) ∧
    (ctx < k.ctxs.length → exec (.sectorArrival core ctx) s = .next s) ∧
    (∀ (obj : BitVec 24) e, s.now.mod.entry obj.toNat = some e → entValid e = true → ∃ t, exec (.objectEntryArrival obj) s = .next t ∧
      tfind obj.toNat t.now.mod.entries = some e ∧ (∀ j, j ≠ obj.toNat → tfind j t.now.mod.entries = tfind j s.now.mod.entries) ∧ SameMemory s t) ∧
    (∀ r data fill, k.launch.isSome = true → k.reqs = [r] → r.act = .write data [] fill → r.issued ≠ s.now.mod.tick →
      ∃ t, exec (.remoteScratchpadArrival core) s = .next t ∧ (t.now.coreAt core).reqs = [] ∧
        (∀ i, i < data.length → tfind (r.addr + i) (t.now.coreAt core).sp = data[i]?) ∧
        (∀ a, (a < r.addr ∨ r.addr + data.length ≤ a) → tfind a (t.now.coreAt core).sp = tfind a k.sp) ∧
        ∀ l, l ∈ (t.now.coreAt core).full ↔ l ∈ k.full ∨ (fill = true ∧ l ∈ linesOf r.addr data.length)) ∧
    (∀ r cons n, k.launch.isSome = true → k.reqs = [r] → r.act = .read cons n none → r.issued ≠ s.now.mod.tick → r.core ≠ core →
      ((∃ l ∈ linesOf r.addr n, l ∉ k.full) → ∃ t, exec (.remoteScratchpadArrival core) s = .next t ∧ t.now.coreAt core = k) ∧
      ((∀ l ∈ linesOf r.addr n, l ∈ k.full) → k.spBad r.addr n = false → ∃ t, exec (.remoteScratchpadArrival core) s = .next t ∧
        (t.now.coreAt core).reqs = [] ∧ (t.now.coreAt core).sp = k.sp ∧
        (∀ l, l ∈ (t.now.coreAt core).full ↔ l ∈ k.full ∧ ¬(cons = true ∧ l ∈ linesOf r.addr n)) ∧
        ∀ w ∈ (s.now.ctxAt r.core r.ctx).windows, w.req = some r.req → ∀ j, w.reg = .s j →
          (t.now.ctxAt r.core r.ctx).bank.s[j] = BitVec.ofNat 64 (leNat (k.spBytesAt s.free r.addr n)))) ∧
    (y.st = .ending → y.saved = none → y.faults = [] → y.engine = [] → y.publishing = false → k.launch.isSome = true → ctx < k.ctxs.length →
      (∀ j, j < k.ctxs.length → j ≠ ctx → (s.now.ctxAt core j).st ≠ .ended → ∃ t, exec (.contextEnded core ctx) s = .next t ∧
        (t.now.ctxAt core ctx).st = .ended ∧ (t.now.coreAt core).launch = k.launch) ∧
      (∀ l, tfind (k.launch.getD 0).toNat s.now.mod.launches = some l → l.cores = [core] →
        (∀ j, j < k.ctxs.length → j ≠ ctx → (s.now.ctxAt core j).st = .ended) → ∃ t, exec (.contextEnded core ctx) s = .next t ∧
          tfind (k.launch.getD 0).toNat t.now.mod.launches = none ∧ tfind core t.now.mod.cores = none)) ∧
    (s.now.live core ctx = true → y.st = .blocked → y.killable = true → ∃ t, exec (.killTakesEffect core ctx) s = .next t ∧
      (t.now.ctxAt core ctx).st = .ready ∧ (t.now.ctxAt core ctx).kills = y.kills.drop 1 ∧ (t.now.ctxAt core ctx).bank.flag statusKilled = true ∧
      (t.now.ctxAt core ctx).bank.flag statusHeld = false ∧ (t.now.ctxAt core ctx).duty = none ∧ (t.now.ctxAt core ctx).unpub = y.unpub ∧
      (t.now.ctxAt core ctx).bank.pc = BitVec.ofNat 64 ((s.now.mod.launch (k.launch.getD 0)).leg ctx).kill) ∧
    (s.now.live core ctx = true → y.st = .blocked → y.waitBank = false → y.pending = [] → ∀ n, y.waitTick = some n → n ≤ s.tick →
      ∃ t, exec (.waitUntilTickReached core ctx) s = .next t ∧ t.now.ctxAt core ctx = { y with st := .ready, age := 0, waitTick := none } ∧
        (∀ j, j ≠ ctx → t.now.ctxAt core j = s.now.ctxAt core j) ∧ SameMemory s t) ∧
    (∀ r rest die q, k.launch.isSome = true → ctx < k.ctxs.length → y.pending = .handler r :: rest → (s.now.mod.launch (k.launch.getD 0)).record.hq = some (die, q) →
      die < 10 → (s.now.mod.queue die q).open = true → (s.now.mod.queue die q).full = false → (s.now.mod.queue die q).mode ≠ 2 →
      (∀ p ∈ rest, ∀ r', p ≠ .handler r') → ∃ t, exec (.handlerRecordPush core ctx) s = .next t ∧
        Appended (s.now.mod.queue die q) (t.now.mod.queue die q) s.tick (3 + 8 * k.lcore + ctx) r ∧ (t.now.ctxAt core ctx).st = .ready ∧
        (t.now.ctxAt core ctx).bank.pc = BitVec.ofNat 64 ((s.now.mod.launch (k.launch.getD 0)).leg ctx).entry ∧ (t.now.ctxAt core ctx).bank.flag statusFault = true ∧
        (t.now.ctxAt core ctx).bank.flag statusHeld = false) ∧
    (∀ r h rest die q, k.launch.isSome = true → ctx < k.ctxs.length → y.pending = .replay r h :: rest → die = fld y.bank.handle 28 4 →
      q = fld y.bank.handle 22 6 → die < 10 → (s.now.mod.queue die q).open = true → (s.now.mod.queue die q).full = false →
      (s.now.mod.queue die q).mode ≠ 2 → ∃ t, exec (.taskReplayPush core ctx) s = .next t ∧
        Appended (s.now.mod.queue die q) (t.now.mod.queue die q) s.tick (3 + 8 * k.lcore + ctx) r ∧ (t.now.ctxAt core ctx).st = .ready ∧
        (t.now.ctxAt core ctx).bank.pc = BitVec.ofNat 64 ((s.now.mod.launch (k.launch.getD 0)).leg ctx).entry) ∧
    (∀ sc rest, k.launch.isSome = true → ctx < k.ctxs.length → y.pending = .publish sc .nothing :: rest → y.saved = none → y.out = [] →
      (∀ e ∈ y.unpub, ∃ a dp, (s.now.load core ctx).destOf e.1 = .phys a dp) → (s.now.load core ctx).remoteQuiet = true →
      (∀ p ∈ rest, ∀ l, p ≠ .acks l) → ∃ t, exec (.publishComplete core ctx) s = .next t ∧ (t.now.ctxAt core ctx).unpub = [] ∧
        (t.now.ctxAt core ctx).pending = rest ∧
        (∀ e ∈ y.unpub, ∀ a dp, (s.now.load core ctx).destOf e.1 = .phys a dp →
          (∀ f ∈ y.unpub, ∀ dp', (s.now.load core ctx).destOf f.1 = .phys a dp' → f = e) → t.now.mod.byte a = e.2) ∧
        ∀ a, (∀ e ∈ y.unpub, ∀ dp, (s.now.load core ctx).destOf e.1 ≠ .phys a dp) → t.now.mod.byte a = s.now.mod.byte a)

/-- Each event of an engine, join, key-value manager or home unit, when its condition holds, does what its rule says. With no
bundle under issue: an engine operation that nothing holds runs and leaves the window, its lines written and full, or stops
with its fault record; a mask load fills its slot and gives its positions; a tagged write reaches its join, where the end of the
cycle stages it for its member or counts it as late; a home unit executes a request on its word, and two requests in the order
of their parties; a map copy becomes full; fill entries advance
when every core has finished their block; a page move advances the mark; an unused slab is reclaimed. (spec/04 R123; spec/09
R254; spec/09 R257; spec/07 R217; spec/08 R247; spec/09 R270; spec/04 R112; spec/04 R129; spec/07 R215; spec/09 R288; spec/09
R280; spec/09 R282) -/
def Obligations.EngineAndHomeEventsComplete : Prop :=
  ∀ (s : State) (core ctx cmd : Nat), s.now.core.launch = none →
    (∀ o k, s.now.engineOp core ctx cmd = some o → s.now.hazard core ctx o = false → o.parked = false → o.defer = [] → o.awaits = [] →
      (o.body = .lines k [] → ∃ t, exec (.engineHazardRelease core ctx cmd) s = .next t ∧ exec (.engineOpComplete core ctx cmd) s = .next t ∧
        (t.now.ctxAt core ctx).engine = (s.now.ctxAt core ctx).engine.filter (·.cmd ≠ cmd) ∧
        (t.now.ctxAt core ctx).faults = (s.now.ctxAt core ctx).faults ∧ SameMemory s t) ∧
      (∀ dst src data, o.body = .lines k [(dst, src)] → o.at' = 0 → s.now.peerOf core (dst * 128 / 2 ^ 22) = core →
        (src = none → data = List.replicate 128 0) → (∀ l ∈ src, s.now.engRead s.free core o (l * 128) 128 = .ok data) →
        ∃ t, exec (.engineHazardRelease core ctx cmd) s = .next t ∧
          exec (.engineOpComplete core ctx cmd) s = .next t ∧ t.now.engineOp core ctx cmd = none ∧
          (∀ i, i < 128 → tfind (dst * 128 % 2 ^ 22 + i) (t.now.coreAt core).sp = data[i]?) ∧
          dst * 128 % 2 ^ 22 / 128 ∈ (t.now.coreAt core).full)) ∧
    (∀ o, s.now.engineOp core ctx cmd = some o → s.now.hazard core ctx o = false → o.parked = false → o.defer = [] → o.awaits = [] →
      ∀ op cap disp v, o.body = .ratom op cap disp v → o.status = 0 → o.gw = [] →
      s.now.mod.engProtect cap disp 8 rAt (s.now.partOf core) o.sv ≠ none →
      ∃ t f, exec (.engineFault core ctx cmd) s = .next t ∧ exec (.engineHazardRelease core ctx cmd) s = .next t ∧
        t.now.engineOp core ctx cmd = none ∧ (t.now.ctxAt core ctx).faults = (s.now.ctxAt core ctx).faults ++ [f] ∧ f.kind = kEngineFault ∧
        f.sub = 2 ∧ f.cmd = cmd ∧ SameMemory s t) ∧
    (∀ (o : MeOp) rest addr slot x, (s.now.coreAt core).meq = o :: rest → o.body = .mskld addr slot → slot < 4 →
      s.now.attRead s.free core addr 64 = .ok x → ∃ t, exec (.attentionOperationStep core) s = .next t ∧
        (o.ctx < (s.now.coreAt core).ctxs.length → o.sv = (s.now.ctxAt core o.ctx).saved.isSome → ∀ i, i < 17 →
          lane 32 ((t.now.ctxAt core o.ctx).bank.lat 4) i = if i = 16 then (if maskOk x then 0 else 1)
            else if i < bitsAt x 32 16 then lowBits 32 ((bitsAt x 0 32 : Int) + bitCount (bitsAt x (64 + 16 * i) 16) - 1) else 0) ∧
        (t.now.coreAt core).meq = rest ∧ (t.now.coreAt core).accs = (s.now.coreAt core).accs ∧
        (vat MaskSlot.empty (t.now.coreAt core).masks slot).valid = maskOk x ∧
        (vat MaskSlot.empty (t.now.coreAt core).masks slot).p0 = BitVec.ofNat 32 (bitsAt x 0 32) ∧
        (vat MaskSlot.empty (t.now.coreAt core).masks slot).n = bitsAt x 32 16 ∧
        ∀ j, j ≠ slot → vat MaskSlot.empty (t.now.coreAt core).masks j = vat MaskSlot.empty (s.now.coreAt core).masks j) ∧
    (∀ die (h w addr : W64) (obj : BitVec 24) (data : List Byte) j, s.now.mod.findJoin h none = some j → joinDie h = die →
      obj.toNat = capObject j.target → capOffset j.target ≤ addr.toNat → addr.toNat + data.length ≤ capOffset j.target + j.len →
      ∃ t, exec (.taggedWriteStage die h w addr obj data) s = .next t ∧ SameMemory s t ∧ t.now.mod.findJoin h none =
        some { j with inbox := j.inbox ++ [⟨memberIndex w, memberGen w, none, 64, addr.toNat - capOffset j.target, data, false⟩] }) ∧
    (∀ (m : Mod) (key : Nat) (j : Join) (x : JoinWrite), j.inbox = [x] → j.met = false → ∃ j', ((m.joinJudge key j).joinSlot key).join = some j' ∧
      j'.inbox = [] ∧ (∀ i, i ≠ x.member → (j'.member i).staging = (j.member i).staging) ∧
      (x.member < j.members.length → x.gen = j.gen % 1024 → (j.member x.member).arrived = false → j'.late = j.late ∧
        (j'.member x.member).entered = true ∧ ∀ n, n < x.data.length → tfind (x.off + n) (j'.member x.member).staging = x.data[n]?) ∧
      (j.members.length ≤ x.member ∨ x.gen ≠ j.gen % 1024 ∨ ((j.member x.member).arrived = true ∧ (j.member x.member).now = false) →
        j'.late = j.late + 1 ∧ (j'.member x.member).staging = (j.member x.member).staging)) ∧
    (∀ (r : HomeReq) old, r.bytes ∈ [1, 2, 4, 8] → r.addr % r.bytes = 0 → old = (s.now.mod.homeOp none none r.addr r.bytes .ld 0 0).2 →
      (s.now.mod.pubs = [] → s.now.mod.dom.lines = [] → old = s.now.mod.word r.addr r.bytes) ∧
      ∃ t, exec (.homeUnitExecution [r]) s = .next t ∧ (r.op ≠ .ld → t.now.mod.word r.addr r.bytes = homeNew r.op r.bytes old r.v.toNat r.v2.toNat) ∧
        (r.op = .ld → SameMemory s t) ∧
        (∀ a, ¬(r.addr ≤ a ∧ a < r.addr + r.bytes) → t.now.mod.byte a = s.now.mod.byte a) ∧ t.now.mod.cores = s.now.mod.cores) ∧
    (∀ r q : HomeReq, HomeReq.rank r ≠ HomeReq.rank q → exec (.homeUnitExecution [r, q]) s = exec (.homeUnitExecution [q, r]) s) ∧
    (∀ map, map < 4 → (vat FMap.empty (s.now.coreAt core).maps map).coming = true → ∃ t, exec (.mapCopyFull core map) s = .next t ∧
      (vat FMap.empty (t.now.coreAt core).maps map).full = true ∧
      (vat FMap.empty (t.now.coreAt core).maps map).entries = (vat FMap.empty (s.now.coreAt core).maps map).entries ∧
      ∀ j, j ≠ map → vat FMap.empty (t.now.coreAt core).maps j = vat FMap.empty (s.now.coreAt core).maps j) ∧
    (∀ (launch : W32) cl map b l, tfind launch.toNat s.now.mod.launches = some l →
      let k := tget Cluster.fresh cl l.clusters
      (k.fills.map Prod.fst).Nodup → (∃ x ∈ k.filled, x.2.1 = map) → (∀ x ∈ k.filled, x.2.1 = map → x.2.2 = b) →
      (∀ n ∈ l.record.clusterMembers cl, (n, map, b) ∈ k.filled) →
      ∃ t l', exec (.fillEntryAdvance launch cl map) s = .next t ∧ tfind launch.toNat t.now.mod.launches = some l' ∧
        ∀ n f, tfind n k.fills = some f → tfind n (tget Cluster.fresh cl l'.clusters).fills =
          if f.placed = some map ∧ f.next = b then (if b = f.last then none else some { f with next := b + 1, placed := none }) else some f) ∧
    (∀ die part idx, (die = 8 ∨ die = 9) → part < 8 →
      let e := (s.now.mod.kvSlice die part).seq idx
      ∀ g, e.moving = true → e.segs[e.fseg]? = some g → ∃ t, exec (.kvPageMove die part idx) s = .next t ∧
        let e' := (t.now.mod.kvSlice die part).seq idx
        if 2 * (e.fmark + 1) < 2 ^ g.k then e' = { e with fmark := e.fmark + 1 }
        else e'.moving = false ∧ e'.version = (e.version + 1) % 2 ^ 16 ∧ e'.segs = lset e.segs e.fseg ⟨e.fnew, g.k⟩ ∧ e'.length = e.length) ∧
    (∀ die part base, (die = 8 ∨ die = 9) → part < 8 → (∃ b ∈ (s.now.mod.kvSlice die part).slabs, b.base = base ∧ b.refs = 0) →
      s.now.captured die part base = false → ∃ t, exec (.slabReclaim die part base) s = .next t ∧ SameMemory s t ∧
        ∀ b, b ∈ (t.now.mod.kvSlice die part).slabs ↔ b ∈ (s.now.mod.kvSlice die part).slabs ∧ ¬(b.base = base ∧ b.refs = 0))

/-- A packet that the receiver accepts does what its operation says at its home or to the context that waits, and is never
accepted twice. With no bundle under issue, a packet of its operation that this module accepts on a channel that carries it: a
store writes its bytes and no others, or is refused, and is acknowledged; a store with flag is noted, or its flag refused; an
atomic acts on its word and the old word is sent back; a load request is answered with the bytes or with a refusal, which a
line whose key is gone also records; data and acknowledgements end the waits they answer; a tagged store goes to its join or is
refused; join control acts and is answered. A flag is incremented and acknowledged once its data is here and, if ordered, once
no earlier store of its context holds it. A packet accepted once is never accepted again; one of a wrong form or code is
discarded and counted, with no other effect. What packets carry beyond Table 16-4 is the model's layout (log 19). (spec/16 R399;
spec/16 R404; spec/16 R407; spec/15 R370; spec/04 R126; spec/04 R127; spec/04 R128; spec/09 R270; spec/09 R271; spec/09 R275) -/
def Obligations.PacketsActAtTheirReceiver : Prop :=
  ∀ (s : State) (p : Packet) (m : Mod) (core ctx : Nat), s.now.core.launch = none →
    (Arrives s p opStore [0, 2] m → ∃ t, exec (.store p) s = .next t ∧
      let d := p.payload.headD 0
      let serial := fld d 0 32
      let bytes := packetBytes p (if p.fd then p.payload.drop 1 else p.payload)
      match m.targetBytes p.obj (bytes.map (·.1)) rSt with
      | .ok (_, as) => (∀ a, t.now.mod.byte a = ((as.zip (bytes.map (·.2))).reverse.lookup a).getD (s.now.mod.byte a)) ∧
        (if p.fd = false then Acknowledged m t.now.mod p.src ackPublish 0 []
        else if fld d 48 4 = 5 then Acknowledged m t.now.mod p.src ackResult serial []
        else if fld d 48 4 ≠ 0 then Acknowledged m t.now.mod p.src ackSerial serial []
        else Acknowledged m t.now.mod p.src ackNote 0 [] ∧
          ((∀ w ∈ m.flags, w.src = p.src → w.who = fld d 32 16 → w.serial = serial → w.flagged = false) →
            ∃ w ∈ t.now.mod.flags, w.src = p.src ∧ w.who = fld d 32 16 ∧ w.serial = serial ∧ fld d 64 32 ∈ w.got))
      | .error sub => SameMemory s t ∧
        (if p.fd = false then Acknowledged m t.now.mod p.src ackPublish 0 [BitVec.ofNat 128 sub]
        else if fld d 48 4 = 5 then Acknowledged m t.now.mod p.src ackResult serial []
        else Acknowledged m t.now.mod p.src ackRefused serial [BitVec.ofNat 128 (fld d 64 32 + refusalCause sub * 2 ^ 32)])) ∧
    (Arrives s p opStoreFlag [0, 2] m → ∃ t, exec (.storeWithFlag p) s = .next t ∧ SameMemory s t ∧
      let d := p.payload.headD 0
      let i := p.payload.getD 1 0
      let refused := fun (sub : Nat) => Acknowledged m t.now.mod p.src ackRefused (fld d 0 32) [BitVec.ofNat 128 (fld i 0 32 + refusalCause sub * 2 ^ 32)]
      if fld i 88 39 % 8 ≠ 0 then refused 3
      else match m.flagHome (i.extractLsb' 64 24, fld i 88 39) with
      | .ok _ => ∃ w ∈ t.now.mod.flags, w.src = p.src ∧ w.who = fld d 32 16 ∧ w.serial = fld d 0 32 ∧ w.flagged = false ∧
        w.num = some (fld i 32 32) ∧ w.info = some ⟨fld i 0 32, p.ofl, (i.extractLsb' 64 24, fld i 88 39)⟩
      | .error sub => refused sub) ∧
    (Arrives s p opAtomic [0, 2] m → ∃ t, exec (.atomic p) s = .next t ∧
      let d := p.payload.headD 0
      let y := p.payload.getD 1 0
      let n := fld y 8 8
      let lane := ((upTo 16).find? fun i => p.bmask.getLsbD i).getD 0
      let refused := fun (sub : Nat) => SameMemory s t ∧
        if p.fd then Acknowledged m t.now.mod p.src ackRefused (fld d 0 32) [BitVec.ofNat 128 (refusalCause sub * 2 ^ 32)]
        else Replied m t.now.mod p.src fun q => q.op = opData ∧ q.obj = p.obj ∧ q.off = p.off ∧ q.bmask = BitVec.ofNat 16 sub ∧ q.payload = []
      match homeOfCode (fld y 0 8), m.targetBytes p.obj ((upTo n).map (16 * p.off.toNat + lane + ·)) rAt with
      | some op, .ok (e, pa :: _) =>
        if n ∉ [1, 2, 4, 8] ∨ lane % n ≠ 0 then refused 2
        else if m.poisoned (entDp e) pa = true then refused refPoison
        else
          let old := (m.homeOp none (dpOf p.obj.toNat e) pa n .ld 0 0).2
          let operand := if p.fd then fld (p.payload.getD 2 0) (8 * lane) (8 * n) else fld d (8 * lane) (8 * n)
          t.now.mod.word pa n = homeNew op n old operand (fld y 64 64) ∧ (∀ a, ¬(pa ≤ a ∧ a < pa + n) → t.now.mod.byte a = s.now.mod.byte a) ∧
          if p.fd then Acknowledged m t.now.mod p.src ackSerial (fld d 0 32) []
          else Replied m t.now.mod p.src fun q => q.op = opData ∧ q.obj = p.obj ∧ q.off = p.off ∧ q.bmask = p.bmask ∧ q.payload = [BitVec.ofNat 128 (old * 2 ^ (8 * lane))]
      | some _, .error sub => refused (if n ∉ [1, 2, 4, 8] ∨ lane % n ≠ 0 then 2 else sub)
      | _, _ => refused 2) ∧
    (Arrives s p opLoad [0, 2] m → ∃ t, exec (.loadRequest p) s = .next t ∧ SameMemory s t ∧
      let lanes := (upTo 16).filter fun i => p.bmask.getLsbD i
      let rights : BitVec 6 := match p.payload with | b :: _ => b.setWidth 6 | [] => rLd
      let answer := fun (n : Nat) (data : List (BitVec 128)) =>
        Replied m t.now.mod p.src fun q => q.op = opData ∧ q.obj = p.obj ∧ q.off = p.off ∧ q.bmask = BitVec.ofNat 16 n ∧ q.payload = data
      match m.targetBytes p.obj (lanes.map (16 * p.off.toNat + ·)) rights with
      | .error sub => answer sub []
      | .ok (e, as) =>
        if rights ≠ rSt ∧ ∃ a ∈ as, m.poisoned (entDp e) a = true then answer refPoison [] ∧
          ((∀ a ∈ as, m.poisoned (entDp e) a = true → entDp e = true ∧ a < hostBase ∧ m.lineReadable a = false) →
            ∃ r, t.now.mod.log.getLast? = some r ∧ fld r 0 8 = 3 ∧ t.now.mod.logSeq = m.logSeq + 1)
        else if p.payload = [] then answer p.bmask.toNat
          [BitVec.ofNat 128 ((lanes.zip as).map fun (x : Nat × Nat) => (m.outer (entDp e) x.2 (m.shown none x.2)).toNat * 2 ^ (8 * x.1)).sum]
        else answer 0 [0]) ∧
    (Arrives s p opData [1] m → .fetch (blockKey p) ∈ (s.now.ctxAt core ctx).pending ++ (s.now.ctxAt core ctx).savedPend → ∃ t, exec (.loadData p core ctx) s = .next t ∧
      (t.now.ctxAt core ctx).pending = (s.now.ctxAt core ctx).pending.filter (· ≠ .fetch (blockKey p)) ∧
      (t.now.ctxAt core ctx).savedPend = (s.now.ctxAt core ctx).savedPend.filter (· ≠ .fetch (blockKey p)) ∧ SameMemory s t ∧
      tget 0 p.src.toNat t.now.mod.dom.opens = tget 0 p.src.toNat m.dom.opens - 1 ∧
      if p.payload = [] then (t.now.ctxAt core ctx).remoteFail = some (blockKey p, p.bmask.toNat)
      else if p.bmask = 0 then blockKey p ∈ (t.now.ctxAt core ctx).checked
      else ∀ b ∈ dataCells p, tfind b.1 (t.now.ctxAt core ctx).rcache = some b.2) ∧
    (Arrives s p opData [1] m → ∀ rq y, (s.now.ctxAt core ctx).pending = [.remote rq (blockKey p) y] → (s.now.ctxAt core ctx).savedPend = [] →
      ∃ t, exec (.loadData p core ctx) s = .next t ∧ (t.now.ctxAt core ctx).pending = [] ∧ SameMemory s t ∧
      (p.payload ≠ [] → (t.now.ctxAt core ctx).faults = (s.now.ctxAt core ctx).faults ∧
        (t.now.ctxAt core ctx).bank = ((s.now.ctxAt core ctx).land rq fun _ =>
          (y.value (fld (p.payload.headD 0) (8 * (y.away.1 % 16)) (8 * y.bytes))).setWidth 2048).bank) ∧
      (p.payload = [] → ∃ f, (t.now.ctxAt core ctx).faults = (s.now.ctxAt core ctx).faults ++ [f] ∧ f.found = s.now.mod.tick ∧
        (f.kind, f.sub) = refusedTrap p.bmask.toNat 3)) ∧
    (Arrives s p opAck [1] m → p.obj.toNat = ackSerial → ctx < (s.now.coreAt core).ctxs.length → ∃ t, exec (.acknowledgement p core ctx) s = .next t ∧
      (t.now.ctxAt core ctx).acks = (s.now.ctxAt core ctx).acks.erase (p.off.toNat * 2 ^ 13 + p.src.toNat) ∧ SameMemory s t) ∧
    (Arrives s p opAck [1] m → p.obj.toNat = ackPublish → ∀ key n, (s.now.ctxAt core ctx).pending = [.acks [n]] →
      (s.now.ctxAt core ctx).savedPend = [] → (s.now.ctxAt core ctx).acks = [] → (s.now.ctxAt core ctx).out = [(key, n)] → serialModule n = p.src →
      ∃ t, exec (.acknowledgement p core ctx) s = .next t ∧ (t.now.ctxAt core ctx).pending = [] ∧ (t.now.ctxAt core ctx).out = [] ∧ SameMemory s t ∧
        if p.payload = [] then (t.now.ctxAt core ctx).unpub = (s.now.ctxAt core ctx).unpub.filter (fun e => e.1 ≠ key) ∧
          ∀ e, m.entry (key / 2 ^ 64) = some e → ∀ c ∈ (t.now.ctxAt core ctx).rcache, c.1 ≠ remoteKey p.src (entRid e) (key % 2 ^ 64)
        else (t.now.ctxAt core ctx).unpub = (s.now.ctxAt core ctx).unpub ∧ ∃ f, (t.now.ctxAt core ctx).faults = (s.now.ctxAt core ctx).faults ++ [f]) ∧
    (Arrives s p opTagged [0, 2] m → ∀ (h w : W64) (target : BitVec 24), ∃ t, exec (.taggedStore p h w target) s = .next t ∧ SameMemory s t ∧
      let d := p.payload.headD 0
      let y := p.payload.getD 2 0
      let bytes := packetBytes p (p.payload.drop 3)
      let refused := fun (cause : Nat) => t.now.mod.joins = m.joins ∧
        Acknowledged m t.now.mod p.src ackRefused (fld d 0 32) [BitVec.ofNat 128 (fld d 64 32 + cause * 2 ^ 32)]
      if bytes = [] then t.now.mod.joins = m.joins ∧ Acknowledged m t.now.mod p.src ackNote 0 []
      else match m.target target (bytes.foldl (fun n b => max n (b.1 + 1)) 0) rSt with
      | .error sub => refused (refusalCause sub)
      | .ok _ =>
        match m.stageWrite h w none (some (p.src.toNat, fld y 0 44, fld y 44 4)) (fld y 48 8) target.toNat ((bytes.map (·.1)).headD 0) (bytes.map (·.2)) p.ofl with
        | some m1 => t.now.mod.joins = m1.joins ∧ Acknowledged m t.now.mod p.src ackSerial (fld d 0 32) []
        | none => refused 4) ∧
    (Arrives s p opJoin [0] m → ∀ msg, ∃ t, exec (.joinControl p msg) s = .next t ∧
      let x := p.payload.getD (joinPayload msg).length 0
      match msg with
      | .arrive h w =>
        let r := m.joinArrive h w none (some (p.src.toNat, fld x 64 44, fld x 48 4)) (fld x 52 8)
        t.now.mod.joins = r.1.joins ∧ SameMemory s t ∧ Acknowledged m t.now.mod p.src ackJoin (fld x 0 32) [BitVec.ofNat 128 r.2]
      | .rule h w => t.now.mod.joins = (m.joinRule h w none).1.joins ∧ SameMemory s t ∧
        Acknowledged m t.now.mod p.src ackJoin (fld x 0 32) [BitVec.ofNat 128 (m.joinRule h w none).2]
      | .kill c k h g => Acknowledged m t.now.mod p.src ackNote 0 [] ∧ SameMemory s t ∧ ∀ l pc, OnMember m c l pc → k < (s.now.coreAt pc).ctxs.length →
        (s.now.ctxAt pc k).st ≠ .ending → (s.now.ctxAt pc k).st ≠ .ended → (t.now.ctxAt pc k).kills = (s.now.ctxAt pc k).kills ++ [⟨h, g, fld x 0 8, fld x 8 64⟩]
      | .released _ _ => Acknowledged m t.now.mod p.src ackNote 0 [] ∧ SameMemory s t ∧ ∀ l pc, OnMember m (fld x 0 44) l pc →
        fld x 44 4 < (s.now.coreAt pc).ctxs.length → (t.now.ctxAt pc (fld x 44 4)).duty = some (fld x 48 15) ∧
        (t.now.ctxAt pc (fld x 44 4)).overSince = some s.now.mod.tick
      | .killed h r => Acknowledged m t.now.mod p.src ackNote 0 [] ∧ t.now.mod.joins = (m.writeKill h r).joins ∧ t.now.mod.mem = (m.writeKill h r).mem
      | .wait h g => Acknowledged m t.now.mod p.src ackNote 0 [] ∧ SameMemory s t ∧ ∀ j, m.joinOf h none = some j → j.released g = false →
        ∃ j', t.now.mod.joinOf h none = some j' ∧ j'.asks = j.asks ++ [⟨p.src, fld x 0 44, fld x 44 4, fld x 64 32, g⟩]
      | .told h g => Acknowledged m t.now.mod p.src ackNote 0 [] ∧ SameMemory s t ∧ ∀ l pc, OnMember m (fld x 64 44) l pc →
        let rq := fld (p.payload.getD ((joinPayload msg).length + 1) 0) 0 32
        .joinAsk rq h g ∈ (s.now.ctxAt pc (fld x 108 4)).pending → .joinAsk rq h g ∉ (t.now.ctxAt pc (fld x 108 4)).pending ∧
          (t.now.ctxAt pc (fld x 108 4)).joinTold = some (h, g, BitVec.ofNat 64 (fld x 0 64))) ∧
    (∀ idx w i, s.now.mod.flags[idx]? = some w → w.info = some i → w.flagged = false → s.now.mod.domainFault w.src = none →
      let ready := w.got.length = i.want ∧ (i.ordered = true → ∃ n, w.num = some n ∧ n ≤ tget 0 (flagKey w.src w.who) s.now.mod.flagBase)
      (¬ready → exec (.flagIncrement idx) s = .next s) ∧
      (ready → ∃ t, exec (.flagIncrement idx) s = .next t ∧
        match s.now.mod.flagHome i.flag with
        | .ok (e, a) => t.now.mod.word a 8 = ((s.now.mod.homeOp none (dpOf i.flag.1.toNat e) a 8 .ld 0 0).2 + 1) % 2 ^ 64 ∧
          (∀ b, ¬(a ≤ b ∧ b < a + 8) → t.now.mod.byte b = s.now.mod.byte b) ∧ Acknowledged s.now.mod t.now.mod w.src ackSerial w.serial []
        | .error sub => SameMemory s t ∧ Acknowledged s.now.mod t.now.mod w.src ackRefused w.serial [BitVec.ofNat 128 (i.want + refusalCause sub * 2 ^ 32)])) ∧
    (s.now.mod.receive p = .accepted m → ∀ n, m.receive p ≠ .accepted n) ∧
    (∀ n, s.now.mod.receive p = .dropped n → n = { s.now.mod with dom := { s.now.mod.dom with discarded := n.dom.discarded } }) ∧
    (packetOk p = false ∨ (s.now.mod.domainFault p.src = none ∧ s.now.mod.dom.authentic p = false) →
      ∃ n, s.now.mod.receive p = .dropped n ∧ n.dom.discarded = s.now.mod.dom.discarded + 1)

/-- Each event of the trust domain, when its condition holds, does to members, keys, epochs, fences and windows what its rule
says. With no bundle under issue: management messages of an admission, of the members and of a failed pair act, and one of a wrong
form is counted; a gap past its time quarantines the pair, a second time within 600,000,000 ticks making the leader fence, and the
pair resynchronises from the numbers reported or is fenced; heartbeats count misses and clear them; eight misses fence a member
or the leader, whose successor is the lowest member; prepare, drain, arrival, commit and abort carry a rekey from epoch to epoch;
late members and those that report a changed measurement are fenced; a fenced module holds no key and its lines read as poisoned;
the lower announcer leads; a scrubbed line takes the current epoch, and keys that no line needs go. What the messages carry is
the model's layout (log 19). (spec/16 R406; spec/16 R407; spec/16 R408; spec/16 R409; spec/16 R411; spec/16 R412; spec/16 R413;
spec/16 R414; spec/16 R416; spec/16 R401; spec/16 R405; spec/16 R399) -/
def Obligations.DomainEventsComplete : Prop :=
  ∀ (s : State) (peer : BitVec 13), s.now.core.launch = none →
    let d := s.now.mod.dom
    (∀ (pk : Packet), pk.dst = s.now.mod.addr → pk.vc = 3 → pk.op = opManage → pk.payload.length = pk.len.toNat →
      let code := fld (pk.payload.headD 0) 0 8
      let arg := (pk.payload.headD 0).toNat / 2 ^ 8
      let who : BitVec 13 := BitVec.ofNat 13 arg
      let fromLeader := d.leader = pk.src ∧ d.leads = false
      let led := d.leads = true ∧ d.state = .member ∧ pk.src ∈ d.members
      ∃ t, exec (.management pk) s = .next t ∧ SameMemory s t ∧
      (packetOk pk = false → t.now.mod = { s.now.mod with dom := { d with discarded := d.discarded + 1 } }) ∧
      (packetOk pk = true →
        (code = mgAdmit → d.state = .outside → t.now.mod.dom.state = .attesting ∧ t.now.mod.dom.leader = pk.src ∧ t.now.mod.dom.leads = false ∧
          t.now.mod.dom.epoch = BitVec.ofNat 2 arg) ∧
        (code = mgKeys → d.state = .attesting → fromLeader → t.now.mod.dom.keys = tset (arg % 4) (blocksKey (pk.payload.drop 1)) d.keys) ∧
        (code = mgMembers → d.state = .attesting → fromLeader → t.now.mod.dom.members = d.members ++ (pk.payload.drop 1).map fun x => x.extractLsb' 0 13) ∧
        (code = mgRoster → d.state = .member ∨ d.state = .attesting → fromLeader → t.now.mod.dom.epoch = d.epoch ∧
          if arg / 2 ^ 13 % 2 = 1 then t.now.mod.dom.members = d.members.filter (· ≠ who) ∧ CutOff t who
          else t.now.mod.dom.members = (if who ∈ d.members then d.members else d.members ++ [who]) ∧ who ∉ t.now.mod.dom.fence ∧ who ∉ t.now.mod.dom.quar) ∧
        (code = mgLeave → led → pk.src ∉ t.now.mod.dom.members ∧ CutOff t pk.src) ∧
        (code = mgQuarantine → d.state = .member → pk.src ∈ d.members → s.now.mod.domainFault pk.src = none → tfind pk.src.toNat d.quarSince = none →
          t.now.mod.domainFault pk.src = some 1 ∧ CutOff t pk.src) ∧
        (code = mgPair → led → pk.src ≠ s.now.mod.addr → who ≠ s.now.mod.addr →
          LeaderFenced s t (if (tget 0 pk.src.toNat d.misses = 0 ↔ tget 0 who.toNat d.misses = 0) then (if pk.src.toNat < who.toNat then who else pk.src)
            else if tget 0 pk.src.toNat d.misses = 0 then who else pk.src)) ∧
        (code = mgOlder → led → tget 0 pk.src.toNat t.now.mod.dom.olders = arg))) ∧
    (∀ vc, vc ≠ 3 → s.now.mod.domainFault peer = none → (∃ e ∈ (d.window peer vc d.epoch).seen, e.2 + s.now.mod.gapt.toNat ≤ s.now.mod.tick) →
      ∃ t, exec (.gapTimeout peer vc) s = .next t ∧ Told s t peer mgQuarantine 0 ∧ CutOff t peer ∧ SameMemory s t ∧
        if ∀ t0, tfind peer.toNat d.quarSince = some t0 → t0 + 600000000 ≤ s.now.mod.tick then t.now.mod.domainFault peer = some 1
        else if d.leads = false then Told s t d.leader mgPair peer.toNat
        else peer ≠ s.now.mod.addr → tget 0 peer.toNat d.misses ≠ 0 ∨ s.now.mod.addr.toNat < peer.toNat → LeaderFenced s t peer) ∧
    (∀ n0 n1 n2, d.state = .member → peer ∈ d.quar → peer ≠ s.now.mod.addr →
      (∃ t, exec (.quarantineResync peer [n0, n1, n2] true) s = .next t ∧ peer ∉ t.now.mod.dom.quar ∧
        ∀ vc n, (vc, n) ∈ [((0 : BitVec 2), n0), (1, n1), (2, n2)] → t.now.mod.dom.window peer vc d.epoch = ⟨peer, vc, d.epoch, n, [], []⟩) ∧
      ∃ t, exec (.quarantineResync peer [n0, n1, n2] false) s = .next t ∧
        if d.leads = false then Told s t d.leader mgPair peer.toNat
        else if tget 0 peer.toNat d.misses ≠ 0 ∨ s.now.mod.addr.toNat < peer.toNat then LeaderFenced s t peer
        else SelfFenced s t) ∧
    (d.state = .member →
      (s.now.mod.tick % 600000 = 0 → s.now.mod.expects.Nodup → ∃ t, exec (.heartbeat s.now.mod.addr) s = .next t ∧
        ∀ p ∈ s.now.mod.expects, Told s t p mgBeat 0 ∧ tget 0 p.toNat t.now.mod.dom.misses = tget 0 p.toNat d.misses + 1) ∧
      (peer ≠ s.now.mod.addr → peer ∈ s.now.mod.expects → ∃ t, exec (.heartbeat peer) s = .next t ∧ tget 0 peer.toNat t.now.mod.dom.misses = 0)) ∧
    (d.state = .member →
      (8 ≤ tget 0 d.leader.toNat d.misses → d.leads = false → ∃ t, exec (.heartbeatMissFence s.now.mod.addr) s = .next t ∧ SelfFenced s t) ∧
      (8 ≤ tget 0 peer.toNat d.misses → peer ≠ s.now.mod.addr → d.leads = true → peer ∈ d.members →
        ∃ t, exec (.heartbeatMissFence peer) s = .next t ∧ LeaderFenced s t peer) ∧
      (8 ≤ tget 0 peer.toNat d.misses → peer ≠ s.now.mod.addr → d.leads = false → peer = d.leader →
        (∀ p ∈ d.members, p ≠ peer → s.now.mod.addr.toNat ≤ p.toNat) → ∃ t, exec (.heartbeatMissFence peer) s = .next t ∧
          t.now.mod.dom.leads = true ∧ t.now.mod.dom.leader = s.now.mod.addr ∧ LeaderFenced s t peer ∧
          ∀ p ∈ d.members, p ≠ peer → p ≠ s.now.mod.addr → Told s t p mgLead 0)) ∧
    (∀ keys, (d.state = .member ∨ d.state = .attesting) → d.leads = false → d.rekey = .idle → ∃ t, exec (.prepare keys) s = .next t ∧
      t.now.mod.dom = { d with newKeys := some keys, rekey := .draining, prepTick := s.now.mod.tick } ∧ SameMemory s t) ∧
    (d.rekey = .draining → d.opens = [] →
      (d.leads = false → ∃ t, exec .drainComplete s = .next t ∧ t.now.mod.dom.rekey = .arrived ∧ Told s t d.leader mgArrival d.older) ∧
      (d.leads = true → (∃ p ∈ d.party, p ≠ s.now.mod.addr ∧ ∀ e ∈ d.arrivals, e.1 ≠ p) → ∃ t, exec .drainComplete s = .next t ∧
        t.now.mod.dom = { d with rekey := .arrived, arrivals := d.arrivals ++ [(s.now.mod.addr, d.older)] })) ∧
    (∀ older, d.leads = true → d.rekey ≠ .idle → peer ∈ d.party → (∀ e ∈ d.arrivals, e.1 ≠ peer) →
      ((d.rekey ≠ .arrived ∨ ∃ p ∈ d.party, p ≠ peer ∧ ∀ e ∈ d.arrivals, e.1 ≠ p) → ∃ t, exec (.rekeyArrival peer older) s = .next t ∧
        t.now.mod.dom = { d with arrivals := d.arrivals ++ [(peer, older)] }) ∧
      (∀ k, d.rekey = .arrived → d.newKeys = some k → (∀ p ∈ d.party, p = peer ∨ ∃ e ∈ d.arrivals, e.1 = p) →
        ∃ t, exec (.rekeyArrival peer older) s = .next t ∧ t.now.mod.dom.epoch = d.epoch + 1 ∧
          tfind (d.epoch + 1).toNat t.now.mod.dom.keys = some k ∧ t.now.mod.dom.rekey = .idle ∧ t.now.mod.dom.newKeys = none ∧
          (∀ p ∈ d.party, p ≠ s.now.mod.addr → Told s t p mgCommit 0) ∧
          ∀ p, d.admitting = some p → p ∈ d.party → p ∈ t.now.mod.dom.members ∧ t.now.mod.dom.admitting = none)) ∧
    (∀ k, d.rekey = .arrived → d.leads = false → d.newKeys = some k → ∃ t m, exec .commit s = .next t ∧ t.now.mod = d.queued.foldl Mod.send m ∧
      m.dom.epoch = d.epoch + 1 ∧ m.dom.keys = tset (d.epoch + 1).toNat k d.keys ∧ m.dom.rekey = .idle ∧ m.dom.newKeys = none ∧ m.dom.scrub = true ∧
      m.dom.state = (if d.state = .attesting then .member else d.state) ∧ m.dom.sends = [] ∧ m.dom.wins = [] ∧ m.dom.queued = [] ∧ m.dom.sent = d.sent ∧
      SameMemory s t) ∧
    (d.rekey ≠ .idle → ∃ t m, exec .abort s = .next t ∧ t.now.mod = d.queued.foldl Mod.send m ∧ SameMemory s t ∧
      m.dom = { d with newKeys := none, rekey := .idle, queued := [], arrivals := [], party := [] }) ∧
    (d.state = .member → d.leads = true → d.rekey ≠ .idle → d.prepTick + 60000000 ≤ s.now.mod.tick → peer ≠ s.now.mod.addr → peer ∈ d.party →
      (∀ e ∈ d.arrivals, e.1 ≠ peer) → ∃ t, exec (.prepareTimeout peer) s = .next t ∧ LeaderFenced s t peer ∧
        ∀ p ∈ d.party, p ≠ peer → p ≠ s.now.mod.addr → Told s t p mgAbort 0) ∧
    (d.state = .member → (peer ≠ s.now.mod.addr → ∃ t, exec (.fence peer) s = .next t ∧ PeerFenced t peer) ∧
      ∃ t, exec (.fence s.now.mod.addr) s = .next t ∧ SelfFenced s t) ∧
    (d.state = .member → peer ≠ s.now.mod.addr → peer ∈ d.members →
      (if d.announced then peer.toNat < d.leader.toNat else d.leads = false) → ∃ t, exec (.leadAnnouncement peer) s = .next t ∧
      t.now.mod.dom.leader = peer ∧ t.now.mod.dom.leads = false ∧ t.now.mod.dom.members = d.members ∧ SameMemory s t) ∧
    (d.state = .member →
      (d.leads = true → peer ∈ d.members → ∃ t, exec (.rekeyRequest peer) s = .next t ∧ t.now.mod.dom.epoch = d.epoch ∧
        if d.rekey = .idle ∧ d.older ≤ 1 ∧ (∀ p ∈ d.members, tget 0 p.toNat d.olders ≤ 1) then
          t.now.mod.dom.rekey = .draining ∧ t.now.mod.dom.newKeys = some (Config.freshKeys s.free) ∧
          ∀ p ∈ d.members, p ∈ t.now.mod.dom.party ∧ (p ≠ s.now.mod.addr → Told s t p mgPrepare 0)
        else t.now.mod.dom = { d with rekeyWanted := true }) ∧
      (d.leads = false → ∃ t, exec (.rekeyRequest s.now.mod.addr) s = .next t ∧ Told s t d.leader mgRekey 0)) ∧
    (d.state = .member →
      (d.leads = true → peer ≠ s.now.mod.addr → peer ∈ d.members → ∃ t, exec (.measurementChangeReport peer) s = .next t ∧ LeaderFenced s t peer) ∧
      (d.leads = false → ∃ t, exec (.measurementChangeReport s.now.mod.addr) s = .next t ∧ Told s t d.leader mgMeasured 0)) ∧
    (∀ line e, d.scrub = true → d.state = .member → tfind line d.lines = some e → ∃ t, exec (.scrubLine line) s = .next t ∧ SameMemory s t ∧
      (∀ k ∈ t.now.mod.dom.keys, k ∈ d.keys ∧ (k.1 = d.epoch.toNat ∨ ∃ l ∈ t.now.mod.dom.lines, l.2.epoch.toNat = k.1)) ∧
      (e.bare = none → (tfind e.epoch.toNat d.keys).isSome = true → ∃ e', tfind line t.now.mod.dom.lines = some e' ∧
        e'.epoch = d.epoch ∧ e'.obj = e.obj ∧ e'.line = e.line ∧ e'.bare = none) ∧
      (e.bare ≠ none → tfind line t.now.mod.dom.lines = none ∧ ∀ a, a / 512 = line → t.now.mod.poisoned false a = true))

/-- The requests of the management window act on the domain or say why not, and leave their answer with go clear. With no bundle
under issue, and the window of a port not holding another request: while Brosy is not ready each answers 4, and without the
semaphore a changing one answers 5. Else CREATE_DOMAIN makes this module the leader of a domain of itself at epoch 0, or answers
6; the leader admits, removes and rekeys, and any other module answers 1; admission answers 4 while one runs, 3 for a member or an
unreachable module, and 2 for a failed attestation, its policy deciding; a rekey under way answers 4; LEAVE_DOMAIN leaves with no
key; status and error log words are read. A ready Brosy answers SPDM requests. (spec/16 R393; spec/16 R401; spec/16 R411; spec/16
R414; spec/16 R417; spec/16 R400; spec/15 R387) -/
def Obligations.ManagementRequestsComplete : Prop :=
  ∀ (s : State) (port : Nat) (peer : BitVec 13) (obj : BitVec 24) (off w1 w2 : W64) (keys : EpochKeys) (out : AdmitOutcome),
    s.now.core.launch = none → port < 2 →
    let d := s.now.mod.dom
    let leading : List (Instr × List Nat) := [(.admitModule port peer out keys, [0x11, peer.toNat]), (.removeModule port peer, [0x12, peer.toNat]), (.rekeyNow port keys, [0x13])]
    let changing : List (Instr × List Nat) := leading ++ [(.createDomain port obj off, [0x10, obj.toNat, off.toNat]), (.leaveDomain port, [0x14])]
    let reading : List (Instr × List Nat) := [(.readDomainStatus port, [0x20]), (.readErrorLogWord port w1 w2, [2, w1.toNat, w2.toNat])]
    (s.now.mod.rdy.getLsbD 0 = false → ∀ e ∈ changing ++ reading, Asked s port e.2 →
      ∃ t, exec e.1 s = .next t ∧ Answered t port 4 ∧ t.now.mod.dom = d ∧ SameMemory s t) ∧
    (s.now.mod.rdy.getLsbD 0 = true →
    (s.now.mod.semaOwner ≠ port + 1 → ∀ e ∈ changing, Asked s port e.2 → ∃ t, exec e.1 s = .next t ∧ Answered t port 5 ∧ t.now.mod.dom = d ∧ SameMemory s t) ∧
    (s.now.mod.semaOwner = port + 1 →
      (Asked s port [0x10, obj.toNat, off.toNat] → ∃ t, exec (.createDomain port obj off) s = .next t ∧ SameMemory s t ∧
        if d.state = .outside ∧ (s.now.mod.policyBlock obj off).isSome = true then Answered t port 0 ∧ t.now.mod.dom.state = .member ∧
          t.now.mod.dom.epoch = 0 ∧ t.now.mod.dom.members = [s.now.mod.addr] ∧ t.now.mod.dom.leads = true ∧ t.now.mod.dom.leader = s.now.mod.addr ∧
          t.now.mod.dom.keys = [(0, Config.freshKeys s.free)] ∧ t.now.mod.dom.policy = some (obj, off)
        else Answered t port 6 ∧ t.now.mod.dom = d) ∧
      (d.leads = false ∨ d.state ≠ .member → ∀ e ∈ leading, Asked s port e.2 → ∃ t, exec e.1 s = .next t ∧ Answered t port 1 ∧ t.now.mod.dom = d ∧ SameMemory s t) ∧
      (d.leads = true → d.state = .member →
        let free := d.rekey = .idle ∧ d.older ≤ 1 ∧ ∀ p ∈ d.members, tget 0 p.toNat d.olders ≤ 1
        (Asked s port [0x11, peer.toNat] → ∃ t, exec (.admitModule port peer out keys) s = .next t ∧ SameMemory s t ∧
          let denied := fun (n : W64) => Answered t port n ∧ t.now.mod.dom = d
          if d.admitting ≠ none then denied 4
          else if peer ∈ d.members then denied 3
          else match out with
          | .unreachable => denied 3
          | .attestation => denied 2
          | .admitted root summary =>
            if (d.policy.bind fun p => s.now.mod.policyBlock p.1 p.2).any (fun b => policyAccepts b root summary) = true then
              Answered t port 0 ∧ t.now.mod.dom.admitting = some peer ∧ Told s t peer mgAdmit d.epoch.toNat ∧
              (∀ k ∈ d.keys, Told s t peer mgKeys k.1) ∧ peer ∉ t.now.mod.dom.members ∧
              (free → t.now.mod.dom.rekey = .draining ∧ t.now.mod.dom.newKeys = some keys ∧ peer ∈ t.now.mod.dom.party) ∧
              (¬free → t.now.mod.dom.rekeyWanted = true)
            else denied 2) ∧
        (Asked s port [0x12, peer.toNat] → ∃ t, exec (.removeModule port peer) s = .next t ∧
          if peer ≠ s.now.mod.addr ∧ peer ∈ d.members then Answered t port 0 ∧ LeaderFenced s t peer else Answered t port 6 ∧ t.now.mod.dom = d) ∧
        (Asked s port [0x13] → ∃ t, exec (.rekeyNow port keys) s = .next t ∧ SameMemory s t ∧
          if d.rekey ≠ .idle then Answered t port 4 ∧ t.now.mod.dom = d
          else Answered t port 0 ∧ t.now.mod.dom.epoch = d.epoch ∧ (free → t.now.mod.dom.rekey = .draining ∧ t.now.mod.dom.newKeys = some keys) ∧
            (¬free → t.now.mod.dom = { d with rekeyWanted := true }))) ∧
      (Asked s port [0x14] → ∃ t, exec (.leaveDomain port) s = .next t ∧ SameMemory s t ∧
        if d.state = .outside then Answered t port 6 ∧ t.now.mod.dom = d
        else Answered t port 0 ∧ t.now.mod.dom.state = .outside ∧ t.now.mod.dom.keys = [] ∧ (∀ p, CutOff t p) ∧
          (∀ l ∈ d.lines, ∀ a, a / 512 = l.1 → t.now.mod.poisoned true a = true) ∧ (d.state = .member → d.leads = false → Told s t d.leader mgLeave 0))) ∧
    (Asked s port [0x20] → ∃ t, exec (.readDomainStatus port) s = .next t ∧ Answered t port d.word ∧ t.now.mod.dom = d ∧ SameMemory s t) ∧
    (Asked s port [2, w1.toNat, w2.toNat] → ∃ t, exec (.readErrorLogWord port w1 w2) s = .next t ∧ t.now.mod.log = s.now.mod.log ∧ SameMemory s t ∧
      Answered t port (if fld w1 0 8 = 2 ∧ fld w1 10 54 = 0 then s.now.mod.logWord (fld w1 8 2) w2.toNat else BitVec.allOnes 64)) ∧
    (∀ request, ∃ t, exec (.spdmRequest port request) s = .next t ∧ (t.now.mod.port port).spdm = true ∧
      (t.now.mod.port port).answer = Config.spdmAnswer Config.certificateChain Config.identityKey s.now.mod.measurement request ∧ SameMemory s t))

/-- Register writes, the semaphore, window pushes, rings and Ethernet do what their rules say to the registers, queues and frames
they name. With no bundle under issue and a port that exists: an allowed register write of a port, a supervisor or the monitor
acts, and a refused one only sets a port's sticky bit; takes of one cycle, with those of supervisors that wait, give a free
semaphore to the first in cyclic order behind the last owner, and each port is told the owner; the owner releases it, and a lease
past its time frees it; an admission push reports its result; a window push joins its queue in order or is counted as dropped,
and a read tells the window's state; a queue reopens; strict follows its write; a pending record and an interrupt leave when their
ring and port allow; a transmit descriptor is sent and completed, a frame fills its buffer or is counted; link bits follow.
(spec/13 R320; spec/13 R321; spec/13 R330; spec/13 R331; spec/13 R336; spec/13 R337; spec/13 R339; spec/14 R354; spec/09 R294;
spec/16 R418; spec/16 R419; spec/16 R392) -/
def Obligations.HostRequestsComplete : Prop :=
  ∀ (s : State) (port : Nat), s.now.core.launch = none → port < 2 →
    let m := s.now.mod
    (∀ who reg v m1, claimantKnown who = true → Written m who (reg : BitVec 16).toNat v m1 → ∃ t, exec (.registerWrite who reg v) s = .next t ∧ t.now.mod = m1) ∧
    (∀ cs : List Claimant, cs.Nodup → .port port ∈ cs → ∃ t, exec (.take cs) s = .next t ∧ t.now.mod.takes = [] ∧ SameMemory s t ∧
      let all := cs ++ m.takes.map fun r => Claimant.supervisor (r.core / 64) (s.now.coreAt r.core).lcore
      if m.rdy.getLsbD 0 = false then t.now.mod.semaOwner = m.semaOwner ∧ (t.now.mod.port port).answer = leBytes 8 0
      else (t.now.mod.port port).answer = leBytes 8 (BitVec.ofNat 64 ((if t.now.mod.semaOwner = port + 1 then 1 else 0) + 2 * t.now.mod.semaOwner)).toNat ∧
        (m.semaOwner ≠ 0 → t.now.mod.semaOwner = m.semaOwner) ∧
        (m.semaOwner = 0 → t.now.mod.semaLast = t.now.mod.semaOwner ∧ t.now.mod.since = m.tick ∧
          ∃ w ∈ all, claimCode w ≠ 0 ∧ t.now.mod.semaOwner = claimCode w ∧
            ∀ c ∈ all, claimCode c ≠ 0 → (claimCode w + 2 - m.semaLast) % 3 ≤ (claimCode c + 2 - m.semaLast) % 3)) ∧
    (∀ who (v : W64), claimCode who ≠ 0 → ∃ t, exec (.semaWrite who v) s = .next t ∧
      let m1 := if m.semaOwner = claimCode who ∧ fld v 0 2 = 0 then { m with semaOwner := 0 } else m
      t.now.mod = match who with
        | .port p => if v.getLsbD (4 + p) = true then m1 else { m1 with werr := vmod m1.werr p fun _ => false }
        | _ => m1) ∧
    (m.lease ≠ 0 → m.semaOwner ≠ 0 → m.since + m.lease.toNat ≤ m.tick → ∃ t, exec .leaseExpiry s = .next t ∧
      t.now.mod = { m with semaOwner := 0, expired := true }) ∧
    (∀ v : W64, ∃ t, exec (.ahiPush port v) s = .next t ∧
      let d := (m.port port).ahd
      if fld v 35 29 ≠ 0 ∨ (upTo 8).any (fun die => m.inPart die (fld v 32 3)) = false then (t.now.mod.port port).ahi = 2 ∧ t.now.mod.heap = m.heap
      else if 4096 ≤ m.heap.length then (t.now.mod.port port).ahi = 1 ∧ t.now.mod.heap = m.heap
      else (t.now.mod.port port).ahi = 0 ∧
        t.now.mod.heap = m.heap ++ [⟨fld d 0 48, fld d 48 16, v.extractLsb' 0 32, fld v 32 3, m.heapSerial, m.tick, port⟩]) ∧
    (∀ off (data : List Byte), off < 10 * 0x40000 → ∃ t, exec (.queueWindowPush port off data) s = .next t ∧
      let die := off / 0x40000
      let q := off % 0x40000 / 0x1000
      let w := m.queue die q
      let drops := tget 0 (die * 64 + q) (m.port port).drops
      if data = [] then SameMemory s t ∧ t.now.mod.dies = m.dies ∧ (t.now.mod.port port).answer = leBytes 8
        (BitVec.ofNat 64 (if off % 0x1000 = 0 ∧ m.portOpen port = true then w.recs.length + (if w.closed then 2 ^ 16 else 0) + drops.toNat * 2 ^ 32 else 0)).toNat
      else if data.length = 64 ∧ off % 64 = 0 ∧ w.win = true ∧ w.open = true ∧ w.full = false ∧ m.portOpen port = true ∧ m.rdy.getLsbD 0 = true then
        if w.mode = 2 then t.now.mod = m.post w.ring (setFld (setFld ((BitVec.ofNat 512 (leNat data)).setWidth 256) 32 8 0x10) 41 1 0)
        else t.now.mod.ports = m.ports ∧ Appended w (t.now.mod.queue die q) m.tick port (BitVec.ofNat 512 (leNat data))
      else t.now.mod.dies = m.dies ∧ tget 0 (die * 64 + q) (t.now.mod.port port).drops = drops + 1) ∧
    (∀ who die q m1, die < 10 → q < 64 → Written m who (die * 2 ^ 12 + 0x40 + q) (setFld (m.queue die q).word 27 1 0) m1 →
      ∃ t, exec (.wqcfgReopen who die q) s = .next t ∧ t.now.mod = m1 ∧
        (Accepts m who (die * 2 ^ 12 + 0x40 + q) (setFld (m.queue die q).word 27 1 0) m1 → (t.now.mod.queue die q).closed = false)) ∧
    (∀ who die (v : W64) m1, die < 10 → Written m who (die * 2 ^ 12 + 2) v m1 → ∃ t, exec (.strictWrite who die v) s = .next t ∧ t.now.mod = m1 ∧
      (t.now.mod.die die).strictOn = (m.die die).strictOn ∧ (Accepts m who (die * 2 ^ 12 + 2) v m1 → (t.now.mod.die die).strict = v.getLsbD 0)) ∧
    (∀ ring r, m.pendRecs.find? (·.1 = ring) = some r → m.ringOpen ring = true → ∃ t, exec (.pendingRecordWrite ring) s = .next t ∧
      t.now.mod.pendRecs = m.pendRecs.erase r ∧ (t.now.mod.ring ring).tail = (m.ring ring).tail + 1 ∧
      ∀ a, m.ringAddr (m.ring ring) (32 * ((m.ring ring).tail.toNat % (m.ring ring).entries)) = some a →
        t.now.mod.word a 32 = (setFld r.2 41 1 (if (m.ring ring).tail.toNat / (m.ring ring).entries % 2 = 0 then 1 else 0)).toNat) ∧
    (∀ ring, (m.ring ring).ctime ≠ 0 → (m.ring ring).pend ≠ 0 → (m.ring ring).oldest + (m.ring ring).ctime.toNat ≤ m.tick →
      ∃ t, exec (.interruptCoalescingTimer ring) s = .next t ∧ SameMemory s t ∧
        let p := if (m.ring ring).port then 1 else 0
        if (m.ring ring).ien = true ∧ m.portOpen p = true then (t.now.mod.ring ring).pend = 0 ∧
          (t.now.mod.port p).vectors = (m.port p).vectors ++ [(ring, (m.ring ring).vec.toNat)]
        else t.now.mod = m) ∧
    (∀ eport pair at',
      let e := m.ethPort eport
      let p := vat EthPair.reset e.pairs pair
      eport < 4 → pair < 8 → e.en = true → p.qen = true → p.thead.toNat % p.entries ≠ p.ttail.toNat % p.entries →
      m.descriptorAt p (64 * (p.thead.toNat % p.entries)) = some at' →
      let d : BitVec 512 := BitVec.ofNat 512 (leNat (m.ethBytes at'))
      let buf := m.ethBuffer (d.extractLsb' 0 128) (fld d 128 14) e.part.toNat rLd
      ∃ t, exec (.transmitDescriptor eport pair) s = .next t ∧
        (vat EthPair.reset (t.now.mod.ethPort eport).pairs pair).thead = BitVec.ofNat 16 ((p.thead.toNat + 1) % p.entries) ∧
        (∀ b, fld d 128 14 ≤ e.mtu.toNat → fld d 142 3 < e.subs → buf = some b →
          (t.now.mod.ethPort eport).sent = e.sent ++ [(fld d 142 3, m.ethBytes b)]) ∧
        (e.mtu.toNat < fld d 128 14 ∨ e.subs ≤ fld d 142 3 ∨ buf = none → (t.now.mod.ethPort eport).sent = e.sent) ∧
        (d.getLsbD 147 = false → ∀ a, t.now.mod.byte a = Overwritten m (at'.2.zip (leBytes 64
          (setFld (setFld d 145 1 1) 146 1 (if fld d 128 14 ≤ e.mtu.toNat ∧ fld d 142 3 < e.subs ∧ buf.isSome = true then 0 else 1)).toNat)) a)) ∧
    (∀ eport sub frame,
      let e := m.ethPort eport
      let pair := framePriority frame
      let p := vat EthPair.reset e.pairs pair
      eport < 4 → e.en = true → sub < e.subs → e.up.getLsbD sub = true → frame.length ≤ e.mtu.toNat →
      ∃ t, exec (.frameReceive eport sub pair frame) s = .next t ∧
        match (if p.qen = true ∧ p.rhead.toNat % p.entries ≠ p.rtail.toNat % p.entries then
          m.descriptorAt p (64 * p.entries + 64 * (p.rhead.toNat % p.entries)) else none) with
        | none => (t.now.mod.ethPort eport).drops = e.drops + 1 ∧ SameMemory s t
        | some at' =>
          let d : BitVec 512 := BitVec.ofNat 512 (leNat (m.ethBytes at'))
          let c : Cap := d.extractLsb' 0 128
          let buf := if capLength c < capOffset c + frame.length then none else m.ethBuffer c frame.length e.part.toNat rSt
          let d1 := setFld (setFld (setFld (setFld d 128 14 frame.length) 142 3 sub) 145 1 1) 146 1 (if buf.isSome = true then 0 else 1)
          (vat EthPair.reset (t.now.mod.ethPort eport).pairs pair).rhead = BitVec.ofNat 16 ((p.rhead.toNat + 1) % p.entries) ∧
          (d.getLsbD 147 = false → ∀ a, t.now.mod.byte a =
            Overwritten m (((buf.map fun b => b.2.zip frame).getD []) ++ at'.2.zip (leBytes 64 d1.toNat)) a)) ∧
    (∀ eport sub up, eport < 4 → sub < (m.ethPort eport).subs → ∃ t, exec (.ethernetLinkChange eport sub up) s = .next t ∧
      ∀ i, i < 8 → (t.now.mod.ethPort eport).up.getLsbD i = if i = sub then up else (m.ethPort eport).up.getLsbD i)

/-- A host's accesses reach the bytes that its decoders name and no others, and translations, page requests and configuration
follow their answers. With no bundle under issue and a port that exists: a read returns the bytes with the poison indication,
or is not supported; a write changes exactly its bytes and brings its poison; an atomic and a locked operation change exactly
their bytes and return the old word, or act on nothing when poisoned or uncovered; a snoop stores to its line; a translation that
was asked for enters the cache, and one that fails after a page request fails the contexts that wait; an invalidation removes what
it overlaps, with the clean bytes held, and is completed; a page request that is answered leaves, is translated again after a
success, and a failure reaches every blocked context; configuration sets page requests, decoders and streams, and accesses of the
memory regions read and write registers and the management window, any but those of 8 aligned bytes being discarded or read as 0
(for the window: log 76). (spec/04 R130; spec/04 R131; spec/15 R371; spec/15 R372; spec/15 R374; spec/15 R384; spec/16 R389; spec/16
R390; spec/16 R393; spec/13 R320) -/
def Obligations.HostMemoryAndTranslationComplete : Prop :=
  ∀ (s : State) (port addr n : Nat), s.now.core.launch = none → port < 2 →
    let m := s.now.mod
    (∃ t, exec (.hostMemRead port addr n) s = .next t ∧ SameMemory s t ∧
      match m.hostBytes port addr n with
      | some as => (t.now.mod.port port).answer = as.map (fun a => m.outer false a (m.shown none a)) ∧
        (t.now.mod.port port).status = if ∃ a ∈ as, m.poisoned false a = true then 1 else 0
      | none => (t.now.mod.port port).status = 2) ∧
    (∀ (data : List Byte) poison, ∃ t, exec (.hostMemWrite port addr data poison) s = .next t ∧
      match m.hostBytes port addr data.length with
      | some as => (∀ a, t.now.mod.byte a = Overwritten m (as.zip data) a) ∧ (t.now.mod.port port).status = 0 ∧
        (poison = true → ∀ a ∈ as, t.now.mod.poisoned false a = true)
      | none => SameMemory s t ∧ (t.now.mod.port port).status = 2) ∧
    (∀ op (v v2 : W64), n ∈ [1, 2, 4, 8] → addr % n = 0 → ∀ i ∈ [Instr.hostAtomic port addr n op v v2, .hostLockedOperation port addr n op v v2],
      ∃ t, exec i s = .next t ∧
      match m.hostBytes port addr n with
      | some as =>
        let old := (m.homeOp none none (as.headD 0) n .ld 0 0).2
        if m.poisoned false (as.headD 0) = true then SameMemory s t ∧ (t.now.mod.port port).status = 1
        else (t.now.mod.port port).answer = leBytes n old ∧ (t.now.mod.port port).status = 0 ∧
          ∀ a, t.now.mod.byte a = if op = .ld then m.byte a else Overwritten m (as.zip (leBytes n (homeNew op n old v.toNat v2.toNat))) a
      | none => SameMemory s t ∧ (t.now.mod.port port).status = 2) ∧
    (∀ line (data : List Byte), m.portCxl port = true → data.length ≤ 64 → ∃ t, exec (.hostSnoop port line data) s = .next t ∧
      (∀ i b, data[i]? = some b → t.now.mod.byte (hostBase + 64 * line + i) = b) ∧
      ∀ a, (a < hostBase + 64 * line ∨ hostBase + 64 * line + data.length ≤ a) → t.now.mod.byte a = m.byte a) ∧
    (∀ pasid va page pa rd wr, 4096 ≤ page → page % 4096 = 0 → va % page = 0 → pa % page = 0 → m.portOpen port = true →
      let x : Xlate := ⟨port, pasid, va, page, pa, rd, wr⟩
      let mine := fun (r : AtsReq) => x.covers r.port r.pasid (4096 * r.page)
      (∃ r ∈ m.atsReqs, mine r = true) → ∃ t, exec (.translationResponse port pasid va page pa rd wr) s = .next t ∧ SameMemory s t ∧
      x ∈ t.now.mod.xlates ∧ t.now.mod.atsReqs = m.atsReqs.filter (fun r => !mine r) ∧
      (∀ y ∈ t.now.mod.xlates, y = x ∨ y ∈ m.xlates ∧ ¬(y.port = port ∧ y.pasid = pasid ∧ y.va < va + page ∧ va < y.va + y.size)) ∧
      (m.xlates.length < 16384 → ∀ y ∈ m.xlates, ¬(y.port = port ∧ y.pasid = pasid ∧ y.va < va + page ∧ va < y.va + y.size) → y ∈ t.now.mod.xlates) ∧
      ∀ r ∈ m.atsReqs, mine r = true → ∀ q, r.after = some q → t.now.mod.requestMet q = false →
        ∀ c k, (s.now.ctxAt c k).st = .blocked → (t.now.ctxAt c k).pageFail ≠ none) ∧
    (∀ (obj : BitVec 24) page r, m.portCxl port = true →
      ((m.pageReqs.filter (·.port = port)).take (m.port port).prAlloc).find? (fun r => r.obj = obj ∧ r.page = page) = some r →
      (∃ t, exec (.pageRequestResponse port obj page .success) s = .next t ∧ t.now.mod.pageReqs = m.pageReqs.erase r ∧ t.now.mod.cores = m.cores ∧
        (m.requestMet r = true → t.now.mod.atsReqs = m.atsReqs) ∧
        ∀ e, m.requestMet r = false → m.entry r.obj.toNat = some e →
          (⟨entHp e, entPid e, (entBase e + 4096 * r.page) / 4096, some r⟩ : AtsReq) ∈ t.now.mod.atsReqs) ∧
      (∃ t, exec (.pageRequestResponse port obj page .invalid) s = .next t ∧ t.now.mod.pageReqs = m.pageReqs.erase r ∧
        ∀ c x, (s.now.ctxAt c x).st = .blocked → (t.now.ctxAt c x).pageFail = some (obj.toNat, page, 2)) ∧
      (∃ t, exec (.pageRequestResponse port obj page .failure) s = .next t ∧ t.now.mod.pageReqs = m.pageReqs.erase r ∧
        (t.now.mod.port port).stopped = true ∧ ∀ c x, (s.now.ctxAt c x).st = .blocked → (t.now.ctxAt c x).pageFail = some (obj.toNat, page, 3))) ∧
    (∀ pasid va len, m.portOpen port = true → ∃ t, exec (.atsInvalidateRequest port pasid va len) s = .next t ∧ SameMemory s t ∧
      (t.now.mod.port port).completions = (m.port port).completions + 1 ∧
      (∀ x, x ∈ t.now.mod.xlates ↔ x ∈ m.xlates ∧ ¬(x.port = port ∧ x.pasid = pasid ∧ x.va < va + len ∧ va < x.va + x.size)) ∧
      ∀ core ctx, ∀ c ∈ (t.now.ctxAt core ctx).l1, ∀ e, m.entry (c.1 / 2 ^ 64) = some e → entType e = 2 → entHp e = port → entPid e = pasid →
        entBase e + c.1 % 2 ^ 64 < va ∨ va + len ≤ entBase e + c.1 % 2 ^ 64) ∧
    (∀ k, ∃ t, exec (.configurationAccess port (.pageRequests k)) s = .next t ∧ (t.now.mod.port port).stopped = false ∧
      (t.now.mod.port port).prAlloc = min k 512) ∧
    (∀ base len dbase targets, ∃ t, exec (.configurationAccess port (.decoder base len dbase targets)) s = .next t ∧
      (t.now.mod.port port).decoders = if decoderOk base len dbase targets = true ∧ (m.port port).decoders.length < 4 then
        (m.port port).decoders ++ [⟨base, len, dbase, targets⟩] else (m.port port).decoders) ∧
    (∀ on, ∃ t, exec (.configurationAccess port (.streams on)) s = .next t ∧ (t.now.mod.port port).ide = on) ∧
    (∀ off k (data : List Byte),
      let num := off / 0x8000 * 2 ^ 12 + off % 0x8000 / 8
      let fits := fun (size : Nat) => size = 8 ∧ off % 8 = 0 ∧ off < 0x80000
      (fits k → num ≠ 0xF003 → ∃ t, exec (.configurationAccess port (.ioRead 0 off k)) s = .next t ∧ SameMemory s t ∧
        (t.now.mod.port port).answer = leBytes 8 (m.readReg num).toNat) ∧
      (¬fits k → ∃ t, exec (.configurationAccess port (.ioRead 0 off k)) s = .next t ∧ SameMemory s t ∧ (t.now.mod.port port).answer = leBytes k 0) ∧
      (fits data.length → ∀ m1, Written m (.port port) num (BitVec.ofNat 64 (leNat data)) m1 →
        ∃ t, exec (.configurationAccess port (.ioWrite 0 off data)) s = .next t ∧ t.now.mod = m1) ∧
      (¬fits data.length → exec (.configurationAccess port (.ioWrite 0 off data)) s = .next s)) ∧
    (∀ i (v : W64), i < 8 →
      let g := vat Mgmt.reset m.mgmt port
      (∃ t, exec (.configurationAccess port (.ioRead 2 (8 * i) 8)) s = .next t ∧ (t.now.mod.port port).answer = leBytes 8 (vat 0 g.words i).toNat) ∧
      (∃ t, exec (.configurationAccess port (.ioRead 2 0x40 8)) s = .next t ∧ (t.now.mod.port port).answer = leBytes 8 g.answer.toNat) ∧
      ∃ t, exec (.configurationAccess port (.ioWrite 2 (8 * i) (leBytes 8 v.toNat))) s = .next t ∧ SameMemory s t ∧
        let g' := vat Mgmt.reset t.now.mod.mgmt port
        let known := knownRequest (fld v 0 8) = true ∧ fld v 8 55 = 0
        if (vat 0 g.words 0).getLsbD 63 = true then g' = g
        else if i = 0 ∧ v.getLsbD 63 = true ∧ ¬known then vat 0 g'.words 0 = setFld v 63 1 0 ∧ g'.answer = BitVec.allOnes 64
        else vat 0 g'.words i = v ∧ g'.answer = g.answer ∧ g'.busy = (g.busy || (decide (i = 0) && v.getLsbD 63)))

/-- Resets, ready reports, failures, soft errors, links and the power loop leave the registers, launches, memory and records their
rules give. With no bundle under issue: power-on leaves the reset state and module memory that reads as 0 (log 1); a module
reset keeps memory, leaves all else as after reset, and poisons protected lines; a request for one needs Brosy and the
semaphore; port resets clear the port and free its semaphore;
ready and failed functions set and clear their bits, a failure is recorded and ends the launches of a die; a module-wide error
resets; errors are counted, or poison their granule and are recorded; summaries are written; link bits and counts follow; a
control window moves each ceiling by the power and temperature, and 115 degrees reset the module. (spec/17 R420; spec/17 R421;
spec/17 R422; spec/17 R424; spec/17 R425; spec/17 R427; spec/17 R428; spec/17 R429; spec/15 R383; spec/15 R386; spec/15 R387;
spec/16 R397) -/
def Obligations.PowerAndErrorEventsComplete : Prop :=
  ∀ (s : State), s.now.core.launch = none →
    let m := s.now.mod
    (∃ t, exec .powerOn s = .next t ∧ t.now = { Mach.reset with mod := { Mod.reset with mem := t.now.mod.mem } } ∧
      ∀ a, t.now.mod.byte a = if hostBase ≤ a then m.byte a else 0) ∧
    (∃ t, exec .moduleReset s = .next t ∧ HasReset s t ∧ SameMemory s t ∧ t.now.mod.mgmt = Mod.reset.mgmt ∧
      t.now.mod.dom.lines.map (·.1) = m.dom.lines.map (·.1)) ∧
    (∀ port, port < 2 → Asked s port [0x30] → ∃ t, exec (.moduleResetRequest port) s = .next t ∧ SameMemory s t ∧
      if m.rdy.getLsbD 0 = false then Answered t port 4 ∧ t.now.mod.rdy = m.rdy
      else if m.semaOwner ≠ port + 1 then Answered t port 5 ∧ t.now.mod.rdy = m.rdy
      else Answered t port 0 ∧ HasReset s t) ∧
    (∀ port, port < 2 → ∃ t, exec (.portReset port) s = .next t ∧ (t.now.mod.port port).drops = [] ∧ (t.now.mod.port port).ide = false ∧
      (t.now.mod.port port).spdm = false ∧ vat false t.now.mod.werr port = false ∧
      t.now.mod.semaOwner = (if m.semaOwner = port + 1 then 0 else m.semaOwner) ∧ t.now.mod.launches = m.launches ∧ SameMemory s t) ∧
    (∀ port, port < 2 → ∃ t, exec (.functionLevelReset port) s = .next t ∧ (t.now.mod.port port).drops = [] ∧ (t.now.mod.port port).ide = false ∧
      (t.now.mod.port port).spdm = false ∧ vat false t.now.mod.werr port = false ∧
      t.now.mod.semaOwner = (if m.semaOwner = port + 1 then 0 else m.semaOwner) ∧ t.now.mod.launches = m.launches ∧ SameMemory s t) ∧
    (∀ f, readyKnown f = true → m.rdy.getLsbD (readyBit f) = false → ∃ t, exec (.functionReady f) s = .next t ∧
      (∀ i, i < 30 → t.now.mod.rdy.getLsbD i = if i = readyBit f then true else m.rdy.getLsbD i) ∧
      (f = .brosy → t.now.mod.measurement = measured ∧ ∀ p, p < 8 → tfind p t.now.mod.tables = some (tableEntry p)) ∧ SameMemory s t) ∧
    (∀ f, readyKnown f = true → m.rdy.getLsbD (readyBit f) = true → (∀ e ∈ m.launches, e.1 < 2 ^ 32) → ∃ t, exec (.functionFailure f) s = .next t ∧
      (∀ i, i < 30 → t.now.mod.rdy.getLsbD i = if i = readyBit f then false else m.rdy.getLsbD i) ∧ t.now.mod.log.getLast? = some (setFld (setFld (failureRecord f) 64 64 m.tick) 224 32 m.logSeq) ∧ t.now.mod.logSeq = m.logSeq + 1 ∧
      ∀ d, f = .die d → ∀ e ∈ t.now.mod.launches, ∀ c ∈ e.2.cores, c / 64 ≠ d) ∧
    (∃ t, exec .moduleWideError s = .next t ∧ HasReset s t) ∧
    (∀ launch l, tfind (launch : W32).toNat m.launches = some l → ∃ t, exec (.controlStateError launch) s = .next t ∧
      tfind launch.toNat t.now.mod.launches = none ∧ t.now.mod.log.getLast? = some (setFld (setFld (errorRecord 5 l.die 6 0 1 0 launch.toNat) 64 64 m.tick) 224 32 m.logSeq) ∧ t.now.mod.logSeq = m.logSeq + 1) ∧
    (∀ unit fate core ctx loc, ∃ t, exec (.softError unit fate core ctx loc) s = .next t ∧ SameMemory s t ∧
      let die := match unit with | .llc | .hbm4 => loc / 2 ^ 48 | _ => core / 64
      if fateOk unit fate = false then t = s
      else match fate with
      | .poisoned => t.now.mod.logSeq = m.logSeq + 1 ∧ t.now.mod.corrected = m.corrected
      | f => t.now.mod.poison = m.poison ∧ ∃ e ∈ t.now.mod.corrected, e.die = die ∧ e.unit = unitCode unit ∧ (f = .corrected → e.inPlace = true) ∧
        e.count = ((m.corrected.find? fun x => x.die = die && x.unit = unitCode unit).map (·.count)).getD 0 + 1) ∧
    (∀ core ctx loc,
      (∃ t, exec (.softError .hbm4 .poisoned core ctx loc) s = .next t ∧ loc / 128 ∈ t.now.mod.poison) ∧
      (loc / 2 ^ 47 % 2 = 0 → ∃ t, exec (.softError .llc .poisoned core ctx loc) s = .next t ∧ loc / 128 ∈ t.now.mod.poison) ∧
      (∃ t, exec (.softError .scratchpad .poisoned core ctx loc) s = .next t ∧ loc / 8 ∈ (t.now.coreAt core).spPoison ∧
        (t.now.coreAt core).sp = (s.now.coreAt core).sp) ∧
      (ctx < (s.now.coreAt core).ctxs.length → ∃ t, exec (.softError .l1 .poisoned core ctx loc) s = .next t ∧
        ∀ e ∈ (s.now.ctxAt core ctx).unpub, e.1 / 8 = loc / 8 → e.1 ∈ (t.now.ctxAt core ctx).unpubPoison) ∧
      (∀ reg, ctx < (s.now.coreAt core).ctxs.length → bankRegister (loc / 8 * 8) = some reg →
        ∃ t, exec (.softError .registerBank .poisoned core ctx loc) s = .next t ∧
          if (s.now.ctxAt core ctx).saved.isSome = true then reg ∈ (t.now.ctxAt core ctx).savedPoison else reg ∈ (t.now.ctxAt core ctx).poison) ∧
      ∃ t, exec (.softError .accumulatorBank .poisoned core ctx loc) s = .next t ∧ ∀ e ∈ bankElements (loc % 2 ^ 14 / 8 * 8),
        tget 0 e ((tget AccPair.zero (loc / 2 ^ 15) (t.now.coreAt core).accs).bank (loc / 2 ^ 14 % 2 = 0)).elems = BitVec.ofInt 40 acxNan) ∧
    (∀ die unit e, m.corrected.find? (fun e => e.die = die && e.unit = unitCode unit) = some e → m.tick % 600000 = 0 →
      ∃ t r, exec (.errorSummaryRecord die unit) s = .next t ∧ t.now.mod.corrected = m.corrected.filter (· ≠ e) ∧ t.now.mod.logSeq = m.logSeq + 1 ∧
        SameMemory s t ∧ t.now.mod.log.getLast? = some r ∧ fld r 0 8 = (if e.inPlace then 2 else 1) ∧ fld r 64 64 = e.first % 2 ^ 64 ∧
        (die < 10 → fld r 8 4 = die ∧ fld r 12 4 = unitCode unit ∧ fld r 32 32 = e.count % 2 ^ 32)) ∧
    (∀ die sector, exec (.patrolScrub die sector) s = .next s) ∧
    (∀ link up, (link < 64 → ∃ t, exec (.linkStateChange true link up) s = .next t ∧
        (∀ i, i < 64 → t.now.mod.gstat.getLsbD i = if i = link then up else m.gstat.getLsbD i) ∧
        fld t.now.mod.lstat 31 7 = ((upTo 64).filter fun i => t.now.mod.gstat.getLsbD i).length) ∧
      (link < 31 → ∃ t, exec (.linkStateChange false link up) s = .next t ∧
        (∀ i, i < 38 → t.now.mod.lstat.getLsbD i = if i = link then up else m.lstat.getLsbD i) ∧ t.now.mod.gstat = m.gstat)) ∧
    (∀ power temps, temps.length = 10 → m.tick % 60000 = 0 →
      ((∀ x ∈ temps, x < 115) → ∃ t, exec (.powerControlWindow power temps) s = .next t ∧ ∀ d, d < 10 →
        let c := (m.die d).ceil
        let c1 := if m.plim.toNat < power then max 1 (c * m.plim.toNat / power) else if 100 * power < 95 * m.plim.toNat then min 64 (c + 4) else c
        (t.now.mod.die d).ceil = if 100 ≤ temps.getD d 0 then max 1 (c1 / 2) else c1) ∧
      ((∃ x ∈ temps, 115 ≤ x) → ∃ t, exec (.powerControlWindow power temps) s = .next t ∧ HasReset s t))

/-- After a bundle that no branch redirects, pc, depth and the remaining count are those of NextPc. After a bundle with no branch,
outside delay bundles and without a lap opening, the next pc is pc + 32 at depth 0. In a loop, lbc = 1 leaves it for the
bundle after its last; at its last bundle, or with lbc = 2, one is taken from the remaining count, and the loop goes back to
its first bundle while the count stays above 0, else it is left; any other bundle goes on to the next. Nothing else of the
bank changes. (spec/05 R153) -/
def Obligations.NextPcFollowsItsPseudocode : Prop :=
  ∀ (b : Bank) (i : Iss), i.branch = false → i.next = none → b.delay = 0 →
    let n := b.advance i
    let k := b.depth.toNat - 1
    let l := vat ⟨0, 0, false, 0⟩ b.loops k
    let last := l.bstart + 32 * (l.blen.setWidth 64 - 1)
    let counted := i.lbc ≠ 1 ∧ (i.lbc = 2 ∨ b.pc = last)
    (b.depth = 0 → n = { b with pc := b.pc + 32 }) ∧
    (b.depth ≠ 0 →
      n = { b with pc := n.pc, depth := n.depth, loops := n.loops } ∧
      (∀ j, j < 4 → vat ⟨0, 0, false, 0⟩ n.loops j =
        if j = k ∧ counted then { l with remain := l.remain - 1 } else vat ⟨0, 0, false, 0⟩ b.loops j) ∧
      (i.lbc = 1 → n.depth = b.depth - 1 ∧ n.pc = last + 32) ∧
      (counted → (l.remain.toNat : Int) - 1 > 0 → n.depth = b.depth ∧ n.pc = l.bstart) ∧
      (counted → ¬(l.remain.toNat : Int) - 1 > 0 → n.depth = b.depth - 1 ∧ n.pc = last + 32) ∧
      (i.lbc ≠ 1 → ¬counted → n.depth = b.depth ∧ n.pc = b.pc + 32))

/-- Each E5M2 code has the value of R78 and Table 03-3. An E5M2 code with exponent field e from 1 to 30 and mantissa field m is
exactly 2^(e − 15) × (1 + m / 4), stated times 2^16 as (4 + m) × 2^(e − 1); with e = 0 it is m × 2^−16; with e = 31 it is
infinity for m = 0 and NaN otherwise; bit 7 negates. (spec/03 R78) -/
def Obligations.E5m2CodesHaveTheirValues : Prop :=
  ∀ e m : Nat, e < 32 → m < 4 → ∀ neg : Bool,
    let x := decodeNum .e5m2 ((if neg then 0x80 else 0) + 4 * e + m)
    (e = 31 → x = if m = 0 then .inf neg else .nan) ∧
    (e ≠ 31 → ∃ (n : Nat) (k : Int), x = .fin neg n k ∧ -16 ≤ k ∧ n * 2 ^ (k + 16).toNat = if e = 0 then m else (4 + m) * 2 ^ (e - 1))

/-- After reset nothing runs, nothing is queued, no key is held, and the registers have the reset values the manual gives. After
reset the tick is 0; no core holds a launch; every work queue, ring, the heap, every join and every sequence table is empty;
no epoch key is held, dstat is 0, and the semaphore is free; the power limit is 2,400 W, every duty ceiling 64, the gap
timeout 600,000 ticks and the largest frame 1,518 bytes; memory is in its canonical form; and nothing is under issue. That
memory reads as 0 is the model's choice (log 1). (spec/17 R421; spec/17 R422; spec/17 R428; spec/13 R336; spec/16 R407;
spec/16 R418) -/
def Obligations.ResetLeavesAnIdleModule : Prop :=
  let m := State.reset.now.mod
  m.tick = 0 ∧ m.cores = [] ∧ m.launches = [] ∧ (∀ d, d < 10 → (m.die d).wq = [] ∧ (m.die d).cands = [] ∧ (m.die d).ceil = 64) ∧
    (∀ r, (m.ring r).tail = 0 ∧ (m.ring r).en = false) ∧ m.pendRecs = [] ∧ m.heap = [] ∧ (∀ j, (m.joinSlot j).join = none) ∧
    (∀ d p i, ((m.kvSlice d p).seq i).live = false) ∧ m.dom.keys = [] ∧ m.dom.newKeys = none ∧ m.dom.word = 0 ∧ m.semaOwner = 0 ∧ m.rdy = 0 ∧
    m.plim = 2400 ∧ m.gapt = 600000 ∧ (∀ p, p < 4 → (m.ethPort p).mtu = 1518 ∧ (m.ethPort p).en = false) ∧
    Memory.wf m.mem = true ∧ (∀ a, m.byte a = 0) ∧ State.reset.agenda = [] ∧ State.reset.AtRest

/-- Every step answers a next state, with nothing left under issue. From every state, reached or not, the step neither faults nor
is refused. It answers a state in which no core or context stands in the issue stage and nothing is being issued, unless the
event it took from the agenda was a slot operation, which is no event and changes nothing else. (spec/01 R17; spec/05 R144;
spec/15 R377) -/
def Obligations.EveryStepGoesOnAndEndsAtRest : Prop :=
  ∀ s : State, ∃ t, step s = .next t ∧ (s.AtRest ∨ (∀ i rest, s.agenda = i :: rest → slotOf i = none) → t.AtRest)

/-- A step takes the next event of the agenda, or gives a core its cycle, in which the bundle at pc is decoded and issued. With an
event at the head of the agenda, the step is exec of that event, with the issue stage cleared. With an empty agenda, in the part
of the cycle in which bundles issue, the next core in turn whose launch runs, its Running context or the context it selects, with
no fault to deliver, not held, no head of a queue that it reads missing, and the bytes at its pc decoding to a bundle of one
well-formed operation i that passes the decode checks: when exec of i, on the view at the start of the bundle with its pops
made, answers a next state that neither holds nor traps, the step leaves the machine of that state with the pc advanced. (spec/05
R134; spec/05 R135; spec/05 R143; spec/05 R153; spec/05 R154; spec/01 R17) -/
def Obligations.StepRunsTheDecodedBundle : Prop :=
  (∀ (s : State) (i : Instr) (rest : List Instr) (t : State), s.agenda = i :: rest → slotOf i = none → exec i { s with agenda := rest } = .next t →
    step s = .next t.rest) ∧
  (∀ (s : State) (c x : Nat) (k : Core) (m : Mach) (bytes : List Byte) (u : Bundle) (sl : Slot) (i : Instr) (t : State), s.agenda = [] → s.AtRest →
    s.turn / 2 ^ 20 = 1 → s.now.mod.coreFrom (s.turn % 2 ^ 20) = some (c, k) → s.now.acts c = true →
    let b := (s.now.pendCycle s.free c).endingCycle c
    b.runs c = true →
    let m0 := b.agingHold c
    ((m0.coreAt c).running = some x ∧ m = m0.unload.load c x) ∨
      ((m0.coreAt c).running = none ∧ m0.select c = some x ∧ m = (m0.unload.load c x).run x) →
    m.ctx.firstFault = none →
    m.mod.fetch m.ctx m.code (m.mod.launch (m.core.launch.getD 0)).record.part m.ctx.saved.isSome m.ctx.bank.pc.toNat = .ok bytes →
    decodeBundle (decide (8 ≤ m.cid / 64)) (BitVec.ofNat 256 (leNat bytes)) = .ok u → u.ops = [(sl, i)] → i.wf = true →
    decodeTrap m.ctx.saved.isSome m.ctx.bank u = none → m.heldBefore u.hdr.pop = false → m.headsMissing u.ops = false →
    m.core.badPop u.hdr.pop = none →
    exec i { s with
      now := { m with core := m.core.popAll u.hdr.pop }, start := m
      iss := { Iss.idle with pop := u.hdr.pop, yield := u.hdr.yld, rep := u.hdr.rep.toNat, lbc := u.hdr.lbc.toNat } } = .next t →
    t.iss.held = false → t.iss.trapped = false →
    step s = .next (State.rest { s with now := (t.now.afterIssue t.iss m.ctx.bank.pc).unload, turn := turnOf 1 (coreKey (c, k) + 1) }))

/-- Words written out in the manual decode to the operations they stand for. Words that the manual writes out field by field
decode in their slots to their operations: add.i32 s4, s4, 1; atom.add s10 on a3; fma.f32 v3, v1, v2 ?p2; mma.bf16 on acc0 and
sh2; mskld s20, 2; copy s20, sh3, sh4; swr s11, s3, s4; bar.cl s7, 4; lap.lr 2; trap s3; and the zero word is a nop. (spec/05
R139; spec/05 R140; spec/05 R141; spec/05 R156; spec/06 R176; spec/06 R182; spec/06 R185) -/
def Obligations.WordsOfTheManualDecode : Prop :=
  decodeSlot false .s0 0x0820C104#32 = some (some (.addI32 .s0 (some 4) (.s 4) (.imm 1)), false) ∧
  decodeSlot false .s0 0x5854C343#32 = some (some (.atomAdd .s0 10 .mod 3 3 (.a 3)), false) ∧
  decodeSlot false .v0 0x101A5251#32 = some (some (.vfmaF32 .v0 3 2 (.v 1) (.v 2)), false) ∧
  decodeSlot false .m 0x04085150#32 = some (some (.mmaBf16 0 2 (.v 0) (.v 1)), false) ∧
  decodeSlot true .m 0x4C00C214#32 = some (some (.mskld (.s 20) (.imm 2)), false) ∧
  decodeSlot false .x 0x04A08C8B#32 = some (some (.copy (some 20) (.sh 3) (.sh 4)), false) ∧
  decodeSlot false .c 0xE0590403#32 = some (some (.swr (some 11) (.s 3) (.s 4)), false) ∧
  decodeSlot false .c 0x2002C407#32 = some (some (.bar .cl (.s 7) (.imm 4)), false) ∧
  decodeSlot false .c 0x18180000#32 = some (some (.lapLr 1), false) ∧
  decodeSlot false .c 0x30000003#32 = some (some (.trap (.s 3)), false) ∧
  ∀ sl, decodeSlot false sl 0 = some (none, false)

/-- Every well-formed slot operation, whatever its operands, decodes from its word to itself. For every operation of every slot
and every operand that its encoding admits, the word that encode gives decodes in its slot to that operation, with no reserved
field set. Attention operations decode so on attention cores. (spec/05 R139; spec/05 R140; spec/05 R141; spec/05 R142; spec/05
R156) -/
def Obligations.DecodeInvertsEncode : Prop :=
  ∀ (i : Instr) (sl : Slot) (att : Bool), slotOf i = some sl → i.wf = true → (i.isAttention = true → att = true) →
    decodeSlot att sl (encode i) = some (some i, false)

/-- Every step keeps memory a list of bytes with rising addresses that lists no byte equal to what an unlisted one reads as. From
every state whose memory is in canonical form, whatever the step takes up - a bundle, an event of another agent, a packet, a
host write, a reset - the memory of the next state is in canonical form. So equal memories are equal data. (spec/04 R109;
spec/04 R112; spec/09 R254; spec/16 R399; spec/17 R421) -/
def Obligations.MemoryStaysCanonical : Prop :=
  ∀ s t : State, Memory.wf s.now.mod.mem = true → step s = .next t → Memory.wf t.now.mod.mem = true
end

