-- ==== Sys2Proof/Laws/Encoding.lean ====
section
/-! SUPPORT. Each field of a slot word that a format puts together reads back (spec/05 Table 05-3), and each way of reading a
format recovers the operands that the encoder put there. -/

namespace Sys2Proof.Laws

section
variable {op : BitVec 6} {d : BitVec 7} {fn : BitVec 3} {b : BitVec 8} {a : BitVec 8}
theorem aOf_encR : aOf (encR op d fn b a) = a :=
  (BitVec.extractLsb'_append_eq_of_add_le (by decide)).trans BitVec.extractLsb'_eq_self
theorem bOf_encR : bOf (encR op d fn b a) = b :=
  (BitVec.extractLsb'_append_eq_of_le (by decide)).trans ((BitVec.extractLsb'_append_eq_of_add_le (by decide)).trans BitVec.extractLsb'_eq_self)
theorem fnOf_encR : fnOf (encR op d fn b a) = fn :=
  (BitVec.extractLsb'_append_eq_of_le (by decide)).trans ((BitVec.extractLsb'_append_eq_of_le (by decide)).trans ((BitVec.extractLsb'_append_eq_of_add_le (by decide)).trans BitVec.extractLsb'_eq_self))
theorem dstOf_encR : dstOf (encR op d fn b a) = d :=
  (BitVec.extractLsb'_append_eq_of_le (by decide)).trans ((BitVec.extractLsb'_append_eq_of_le (by decide)).trans ((BitVec.extractLsb'_append_eq_of_le (by decide)).trans ((BitVec.extractLsb'_append_eq_of_add_le (by decide)).trans BitVec.extractLsb'_eq_self)))
theorem opOf_encR : opOf (encR op d fn b a) = op :=
  (BitVec.extractLsb'_append_eq_of_le (by decide)).trans ((BitVec.extractLsb'_append_eq_of_le (by decide)).trans ((BitVec.extractLsb'_append_eq_of_le (by decide)).trans ((BitVec.extractLsb'_append_eq_of_le (by decide)).trans (BitVec.extractLsb'_eq_self))))
end

section
variable {op : BitVec 6} {d : BitVec 7} {fn : BitVec 3} {imm : BitVec 16}
theorem immOf_encI : immOf (encI op d fn imm) = imm :=
  (BitVec.extractLsb'_append_eq_of_add_le (by decide)).trans BitVec.extractLsb'_eq_self
theorem fnOf_encI : fnOf (encI op d fn imm) = fn :=
  (BitVec.extractLsb'_append_eq_of_le (by decide)).trans ((BitVec.extractLsb'_append_eq_of_add_le (by decide)).trans BitVec.extractLsb'_eq_self)
theorem dstOf_encI : dstOf (encI op d fn imm) = d :=
  (BitVec.extractLsb'_append_eq_of_le (by decide)).trans ((BitVec.extractLsb'_append_eq_of_le (by decide)).trans ((BitVec.extractLsb'_append_eq_of_add_le (by decide)).trans BitVec.extractLsb'_eq_self))
theorem opOf_encI : opOf (encI op d fn imm) = op :=
  (BitVec.extractLsb'_append_eq_of_le (by decide)).trans ((BitVec.extractLsb'_append_eq_of_le (by decide)).trans ((BitVec.extractLsb'_append_eq_of_le (by decide)).trans (BitVec.extractLsb'_eq_self)))
end

section
variable {op : BitVec 6} {d : BitVec 7} {sc : BitVec 3} {w : BitVec 2} {f : BitVec 4} {o : BitVec 2} {a : BitVec 8}
theorem aOf_encA : aOf (encA op d sc w f o a) = a :=
  (BitVec.extractLsb'_append_eq_of_add_le (by decide)).trans BitVec.extractLsb'_eq_self
theorem ordOf_encA : ordOf (encA op d sc w f o a) = o :=
  (BitVec.extractLsb'_append_eq_of_le (by decide)).trans ((BitVec.extractLsb'_append_eq_of_add_le (by decide)).trans BitVec.extractLsb'_eq_self)
theorem fOf_encA : fOf (encA op d sc w f o a) = f :=
  (BitVec.extractLsb'_append_eq_of_le (by decide)).trans ((BitVec.extractLsb'_append_eq_of_le (by decide)).trans ((BitVec.extractLsb'_append_eq_of_add_le (by decide)).trans BitVec.extractLsb'_eq_self))
theorem wOf_encA : wOf (encA op d sc w f o a) = w :=
  (BitVec.extractLsb'_append_eq_of_le (by decide)).trans ((BitVec.extractLsb'_append_eq_of_le (by decide)).trans ((BitVec.extractLsb'_append_eq_of_le (by decide)).trans ((BitVec.extractLsb'_append_eq_of_add_le (by decide)).trans BitVec.extractLsb'_eq_self)))
theorem fnOf_encA : fnOf (encA op d sc w f o a) = sc :=
  (BitVec.extractLsb'_append_eq_of_le (by decide)).trans ((BitVec.extractLsb'_append_eq_of_le (by decide)).trans ((BitVec.extractLsb'_append_eq_of_le (by decide)).trans ((BitVec.extractLsb'_append_eq_of_le (by decide)).trans ((BitVec.extractLsb'_append_eq_of_add_le (by decide)).trans BitVec.extractLsb'_eq_self))))
theorem dstOf_encA : dstOf (encA op d sc w f o a) = d :=
  (BitVec.extractLsb'_append_eq_of_le (by decide)).trans ((BitVec.extractLsb'_append_eq_of_le (by decide)).trans ((BitVec.extractLsb'_append_eq_of_le (by decide)).trans ((BitVec.extractLsb'_append_eq_of_le (by decide)).trans ((BitVec.extractLsb'_append_eq_of_le (by decide)).trans ((BitVec.extractLsb'_append_eq_of_add_le (by decide)).trans BitVec.extractLsb'_eq_self)))))
theorem opOf_encA : opOf (encA op d sc w f o a) = op :=
  (BitVec.extractLsb'_append_eq_of_le (by decide)).trans ((BitVec.extractLsb'_append_eq_of_le (by decide)).trans ((BitVec.extractLsb'_append_eq_of_le (by decide)).trans ((BitVec.extractLsb'_append_eq_of_le (by decide)).trans ((BitVec.extractLsb'_append_eq_of_le (by decide)).trans ((BitVec.extractLsb'_append_eq_of_le (by decide)).trans (BitVec.extractLsb'_eq_self))))))
end

section
variable {op : BitVec 6} {c : BitVec 8} {off : BitVec 18}
theorem offOf_encB : offOf (encB op c off) = off :=
  (BitVec.extractLsb'_append_eq_of_add_le (by decide)).trans BitVec.extractLsb'_eq_self
theorem cOf_encB : cOf (encB op c off) = c :=
  (BitVec.extractLsb'_append_eq_of_le (by decide)).trans ((BitVec.extractLsb'_append_eq_of_add_le (by decide)).trans BitVec.extractLsb'_eq_self)
theorem opOf_encB : opOf (encB op c off) = op :=
  (BitVec.extractLsb'_append_eq_of_le (by decide)).trans ((BitVec.extractLsb'_append_eq_of_le (by decide)).trans (BitVec.extractLsb'_eq_self))
end

section
variable {op : BitVec 6} {len : BitVec 6} {lr : BitVec 1} {a : BitVec 8}
theorem aOf_encL : aOf (encL op len lr a) = a :=
  (BitVec.extractLsb'_append_eq_of_add_le (by decide)).trans BitVec.extractLsb'_eq_self
theorem lresOf_encL : lresOf (encL op len lr a) = 0#11 :=
  (BitVec.extractLsb'_append_eq_of_le (by decide)).trans ((BitVec.extractLsb'_append_eq_of_add_le (by decide)).trans BitVec.extractLsb'_eq_self)
theorem lrOf_encL : lrOf (encL op len lr a) = lr :=
  (BitVec.extractLsb'_append_eq_of_le (by decide)).trans ((BitVec.extractLsb'_append_eq_of_le (by decide)).trans ((BitVec.extractLsb'_append_eq_of_add_le (by decide)).trans BitVec.extractLsb'_eq_self))
theorem lenOf_encL : lenOf (encL op len lr a) = len :=
  (BitVec.extractLsb'_append_eq_of_le (by decide)).trans ((BitVec.extractLsb'_append_eq_of_le (by decide)).trans ((BitVec.extractLsb'_append_eq_of_le (by decide)).trans ((BitVec.extractLsb'_append_eq_of_add_le (by decide)).trans BitVec.extractLsb'_eq_self)))
theorem opOf_encL : opOf (encL op len lr a) = op :=
  (BitVec.extractLsb'_append_eq_of_le (by decide)).trans ((BitVec.extractLsb'_append_eq_of_le (by decide)).trans ((BitVec.extractLsb'_append_eq_of_le (by decide)).trans ((BitVec.extractLsb'_append_eq_of_le (by decide)).trans (BitVec.extractLsb'_eq_self))))
end

section
variable {op : BitVec 6} {acc : BitVec 4} {sh : BitVec 4} {fn : BitVec 2} {b : BitVec 8} {a : BitVec 8}
theorem aOf_encM : aOf (encM op acc sh fn b a) = a :=
  (BitVec.extractLsb'_append_eq_of_add_le (by decide)).trans BitVec.extractLsb'_eq_self
theorem bOf_encM : bOf (encM op acc sh fn b a) = b :=
  (BitVec.extractLsb'_append_eq_of_le (by decide)).trans ((BitVec.extractLsb'_append_eq_of_add_le (by decide)).trans BitVec.extractLsb'_eq_self)
theorem mfnOf_encM : mfnOf (encM op acc sh fn b a) = fn :=
  (BitVec.extractLsb'_append_eq_of_le (by decide)).trans ((BitVec.extractLsb'_append_eq_of_le (by decide)).trans ((BitVec.extractLsb'_append_eq_of_add_le (by decide)).trans BitVec.extractLsb'_eq_self))
theorem shOf_encM : shOf (encM op acc sh fn b a) = sh :=
  (BitVec.extractLsb'_append_eq_of_le (by decide)).trans ((BitVec.extractLsb'_append_eq_of_le (by decide)).trans ((BitVec.extractLsb'_append_eq_of_le (by decide)).trans ((BitVec.extractLsb'_append_eq_of_add_le (by decide)).trans BitVec.extractLsb'_eq_self)))
theorem accOf_encM : accOf (encM op acc sh fn b a) = acc :=
  (BitVec.extractLsb'_append_eq_of_le (by decide)).trans ((BitVec.extractLsb'_append_eq_of_le (by decide)).trans ((BitVec.extractLsb'_append_eq_of_le (by decide)).trans ((BitVec.extractLsb'_append_eq_of_le (by decide)).trans ((BitVec.extractLsb'_append_eq_of_add_le (by decide)).trans BitVec.extractLsb'_eq_self))))
theorem opOf_encM : opOf (encM op acc sh fn b a) = op :=
  (BitVec.extractLsb'_append_eq_of_le (by decide)).trans ((BitVec.extractLsb'_append_eq_of_le (by decide)).trans ((BitVec.extractLsb'_append_eq_of_le (by decide)).trans ((BitVec.extractLsb'_append_eq_of_le (by decide)).trans ((BitVec.extractLsb'_append_eq_of_le (by decide)).trans (BitVec.extractLsb'_eq_self)))))
end

section
variable {op : BitVec 6} {vd : BitVec 5} {st : BitVec 4} {rm : BitVec 3} {sat : BitVec 1} {dt : BitVec 4} {a : BitVec 8}
theorem aOf_encVC : aOf (encVC op vd st rm sat dt a) = a :=
  (BitVec.extractLsb'_append_eq_of_add_le (by decide)).trans BitVec.extractLsb'_eq_self
theorem vresOf_encVC : vresOf (encVC op vd st rm sat dt a) = 0#1 :=
  (BitVec.extractLsb'_append_eq_of_le (by decide)).trans ((BitVec.extractLsb'_append_eq_of_add_le (by decide)).trans BitVec.extractLsb'_eq_self)
theorem dtOf_encVC : dtOf (encVC op vd st rm sat dt a) = dt :=
  (BitVec.extractLsb'_append_eq_of_le (by decide)).trans ((BitVec.extractLsb'_append_eq_of_le (by decide)).trans ((BitVec.extractLsb'_append_eq_of_add_le (by decide)).trans BitVec.extractLsb'_eq_self))
theorem satOf_encVC : satOf (encVC op vd st rm sat dt a) = sat :=
  (BitVec.extractLsb'_append_eq_of_le (by decide)).trans ((BitVec.extractLsb'_append_eq_of_le (by decide)).trans ((BitVec.extractLsb'_append_eq_of_le (by decide)).trans ((BitVec.extractLsb'_append_eq_of_add_le (by decide)).trans BitVec.extractLsb'_eq_self)))
theorem rmOf_encVC : rmOf (encVC op vd st rm sat dt a) = rm :=
  (BitVec.extractLsb'_append_eq_of_le (by decide)).trans ((BitVec.extractLsb'_append_eq_of_le (by decide)).trans ((BitVec.extractLsb'_append_eq_of_le (by decide)).trans ((BitVec.extractLsb'_append_eq_of_le (by decide)).trans ((BitVec.extractLsb'_append_eq_of_add_le (by decide)).trans BitVec.extractLsb'_eq_self))))
theorem stOf_encVC : stOf (encVC op vd st rm sat dt a) = st :=
  (BitVec.extractLsb'_append_eq_of_le (by decide)).trans ((BitVec.extractLsb'_append_eq_of_le (by decide)).trans ((BitVec.extractLsb'_append_eq_of_le (by decide)).trans ((BitVec.extractLsb'_append_eq_of_le (by decide)).trans ((BitVec.extractLsb'_append_eq_of_le (by decide)).trans ((BitVec.extractLsb'_append_eq_of_add_le (by decide)).trans BitVec.extractLsb'_eq_self)))))
theorem vdOf_encVC : vdOf (encVC op vd st rm sat dt a) = vd :=
  (BitVec.extractLsb'_append_eq_of_le (by decide)).trans ((BitVec.extractLsb'_append_eq_of_le (by decide)).trans ((BitVec.extractLsb'_append_eq_of_le (by decide)).trans ((BitVec.extractLsb'_append_eq_of_le (by decide)).trans ((BitVec.extractLsb'_append_eq_of_le (by decide)).trans ((BitVec.extractLsb'_append_eq_of_le (by decide)).trans ((BitVec.extractLsb'_append_eq_of_add_le (by decide)).trans BitVec.extractLsb'_eq_self))))))
theorem opOf_encVC : opOf (encVC op vd st rm sat dt a) = op :=
  (BitVec.extractLsb'_append_eq_of_le (by decide)).trans ((BitVec.extractLsb'_append_eq_of_le (by decide)).trans ((BitVec.extractLsb'_append_eq_of_le (by decide)).trans ((BitVec.extractLsb'_append_eq_of_le (by decide)).trans ((BitVec.extractLsb'_append_eq_of_le (by decide)).trans ((BitVec.extractLsb'_append_eq_of_le (by decide)).trans ((BitVec.extractLsb'_append_eq_of_le (by decide)).trans (BitVec.extractLsb'_eq_self)))))))
end

/-! ### Operand fields -/

theorem decSrc_encSrc (a : Src) : decSrc (encSrc a) = some a := by
  cases a with
  | imm i => revert i; decide +kernel
  | _ => first | rfl | (rename_i n; revert n; decide +kernel)

theorem decScope_encScope (sc : Scope) : decScope (encScope sc) = some sc := by cases sc <;> rfl

theorem decK_enc (k : Fin 3) : decK (encFin 3 k.succ) = some k := by revert k; decide

theorem finOf_encFin {w : Nat} (k : Fin (2 ^ w)) : finOf (encFin w k) = k := by
  apply Fin.ext; simp [finOf, encFin]

/-- An index below 64 in a 7-bit field: bit 6 is clear and the field's value is the index. -/
theorem encFin_low {n : Nat} (k : Fin n) (h : n ≤ 64) :
    ¬ (BitVec.ofNat 7 k.val).getLsbD 6 = true ∧ (BitVec.ofNat 7 k.val).toNat = k.val := by
  have hk := k.isLt
  have ht : (BitVec.ofNat 7 k.val).toNat = k.val := by
    simp only [BitVec.toNat_ofNat]; omega
  refine ⟨?_, ht⟩
  rw [← BitVec.testBit_toNat, ht, Nat.testBit_lt_two_pow (by omega)]
  decide

theorem dData_enc {n : Nat} (k : Fin n) (h : n ≤ 64) : dData n (encFin 7 k) = some (k, false) := by
  have := encFin_low k h
  unfold dData encFin
  rw [if_neg this.1]
  simp only [this.2, k.isLt, dite_true]

theorem dRes_enc {n : Nat} [NeZero n] (k : Fin n) (h : n ≤ 64) : dRes n (encFin 7 k) = some (k, false) := by
  have := encFin_low k h
  unfold dRes encFin
  rw [if_neg this.1]
  simp only [this.2, k.isLt, dite_true]

theorem dOpt_enc {n : Nat} (d : Option (Fin n)) (h : n ≤ 64) : dOpt n (encOpt d) = some (d, false) := by
  cases d with
  | none => simp [dOpt, encOpt]
  | some k =>
    have := encFin_low k h
    unfold dOpt encOpt
    rw [if_neg this.1]
    simp only [this.2, k.isLt, dite_true]

/-! ### Formats -/

section
variable {D : Type} {dk : BitVec 7 → Option (D × Bool)} {x : D} {op : BitVec 6} {d : BitVec 7} {fn : BitVec 3}

theorem decDAB_enc (h : dk d = some (x, false)) (b a : Src) (k : D → Src → Src → Instr) :
    decDAB dk (encR op d fn (encSrc b) (encSrc a)) k = some (k x a b, false) := by
  simp [decDAB, dstOf_encR, aOf_encR, bOf_encR, decSrc_encSrc, h]

theorem decDA_enc (h : dk d = some (x, false)) (a : Src) (k : D → Src → Instr) :
    decDA dk (encR op d fn 0#8 (encSrc a)) k = some (k x a, false) := by
  simp [decDA, dstOf_encR, aOf_encR, bOf_encR, decSrc_encSrc, h]

theorem decDB_enc (h : dk d = some (x, false)) (b : Src) (k : D → Src → Instr) :
    decDB dk (encR op d fn (encSrc b) 0#8) k = some (k x b, false) := by
  simp [decDB, dstOf_encR, aOf_encR, bOf_encR, decSrc_encSrc, h]

theorem decD_enc (h : dk d = some (x, false)) (k : D → Instr) : decD dk (encR op d fn 0#8 0#8) k = some (k x, false) := by
  simp [decD, dstOf_encR, aOf_encR, bOf_encR, h]

theorem decDAm_enc (h : dk d = some (x, false)) (b : BitVec 8) (a : Src) (k : D → Src → Instr) :
    decDAm dk (encR op d fn b (encSrc a)) k = some (k x a, false) := by
  simp [decDAm, dstOf_encR, aOf_encR, decSrc_encSrc, h]

theorem decStrong_enc (h : dk d = some (x, false)) (sc : Scope) (w o : BitVec 2) (f : BitVec 4) (a : Src) (k : D → Scope → Src → Instr) :
    decStrong dk (encA op d (encScope sc) w f o (encSrc a)) k = some (k x sc a, false) := by
  simp [decStrong, dstOf_encA, fnOf_encA, aOf_encA, decSrc_encSrc, decScope_encScope, h]
end

section
variable {op : BitVec 6} {fn : BitVec 3}

theorem decAB_enc (b a : Src) (k : Src → Src → Instr) : decAB (encR op 0#7 fn (encSrc b) (encSrc a)) k = some (k a b, false) := by
  simp [decAB, dstOf_encR, aOf_encR, bOf_encR, decSrc_encSrc]

theorem decA_enc (a : Src) (k : Src → Instr) : decA (encR op 0#7 fn 0#8 (encSrc a)) k = some (k a, false) := by
  simp [decA, dstOf_encR, aOf_encR, bOf_encR, decSrc_encSrc]

theorem decZ_enc (i : Instr) : decZ (encR op 0#7 fn 0#8 0#8) i = some (i, false) := by
  simp [decZ, dstOf_encR, aOf_encR, bOf_encR]

theorem decScoped_enc {d : BitVec 7} {b a : BitVec 8} (sc : Scope) (k : Scope → Parsed) :
    decScoped (encR op d (encScope sc) b a) k = k sc := by
  simp [decScoped, fnOf_encR, decScope_encScope]

theorem decBr_enc (c : Src) (off : BitVec 18) (k : Src → BitVec 18 → Instr) :
    decBr (encB op (encSrc c) off) k = some (k c off, false) := by
  simp [decBr, cOf_encB, offOf_encB, decSrc_encSrc]
end

section
variable {op : BitVec 6} {acc sh : BitVec 4} {fn : BitVec 2} {res : Bool}

theorem decMAB_enc (h : res = false) (b a : Src) (k : Src → Src → Instr) :
    decMAB (encM op acc sh fn (encSrc b) (encSrc a)) res k = some (k a b, false) := by
  simp [decMAB, aOf_encM, bOf_encM, decSrc_encSrc, h]

theorem decMA_enc (h : res = false) (b : BitVec 8) (a : Src) (k : Src → Instr) :
    decMA (encM op acc sh fn b (encSrc a)) res k = some (k a, false) := by
  simp [decMA, aOf_encM, decSrc_encSrc, h]
end

/-- The slot of a scalar or vector operation. -/
theorem decodeWord_scalar (u : SU) {w : W32} (h : ¬ 0x30 ≤ (opOf w).toNat) :
    decodeWord (match u with | .s0 => .s0 | .s1 => .s1) w = decodeScalar u w := by
  cases u
  · rfl
  · exact if_neg h

theorem decodeWord_branch {w : W32} (h : 0x30 ≤ (opOf w).toNat) : decodeWord .s1 w = decodeBranchS1 w := if_pos h

theorem decodeWord_vector (u : VU) (w : W32) :
    decodeWord (match u with | .v0 => .v0 | .v1 => .v1) w = decodeVector u w := by cases u <;> rfl

/-- A slot whose word is not zero and reads as a well-formed instruction that its core has. -/
theorem decodeSlot_of {att : Bool} {sl : Slot} {w : W32} {i : Instr} (ho : opOf w ≠ 0#6) (hd : decodeWord sl w = some (i, false))
    (hw : i.wf = true) (ha : i.isAttention = true → att = true) : decodeSlot att sl w = some (some i, false) := by
  have h0 : w ≠ 0#32 := by rintro rfl; exact ho rfl
  have hx : (att || !i.isAttention) = true := by
    cases h : i.isAttention
    · simp
    · simp [ha h]
  unfold decodeSlot
  rw [if_neg h0, if_neg ho, hd]
  simp [hw, hx]

end Sys2Proof.Laws
end

