-- ==== Sys2Proof/Laws/Memory.lean ====
section
/-! SUPPORT. Tables by key and memory: what a key holds after each operation, that each operation keeps the canonical form, and
that canonical memories with equal bytes are equal. -/

namespace Sys2Proof.Laws
open Sys2Proof Sys2Proof.Machine

variable {α : Type}

/-! ### What a key holds -/

@[simp] theorem tfind_nil (k : Nat) : tfind k ([] : List (Nat × α)) = none := rfl

theorem tfind_cons (k j : Nat) (v : α) (t : List (Nat × α)) : tfind k ((j, v) :: t) = if j = k then some v else tfind k t := rfl

theorem tfind_tset_same (k : Nat) (v : α) (t : List (Nat × α)) : tfind k (tset k v t) = some v := by
  induction t with
  | nil => simp [tset, tfind]
  | cons e t ih =>
    obtain ⟨j, w⟩ := e
    simp only [tset]
    split
    · simp [tfind]
    · split
      · simp [tfind]
      · rename_i h; rw [tfind_cons, if_neg h]; exact ih

theorem tfind_tset_other {k j : Nat} (h : j ≠ k) (v : α) (t : List (Nat × α)) : tfind j (tset k v t) = tfind j t := by
  induction t with
  | nil => simp [tset, tfind, Ne.symm h]
  | cons e t ih =>
    obtain ⟨i, w⟩ := e
    simp only [tset]
    split
    · rw [tfind_cons, if_neg (Ne.symm h)]
    · split
      · rename_i hi; rw [tfind_cons, tfind_cons, if_neg (Ne.symm h), hi, if_neg (Ne.symm h)]
      · rw [tfind_cons, tfind_cons, ih]

theorem tfind_filter (p : Nat → Bool) (j : Nat) (t : List (Nat × α)) :
    tfind j (t.filter fun e => p e.1) = if p j then tfind j t else none := by
  induction t with
  | nil => simp
  | cons e t ih =>
    obtain ⟨i, w⟩ := e
    rw [List.filter_cons]
    by_cases hi : i = j
    · subst hi; by_cases hp : p i <;> simp [hp, tfind_cons, ih]
    · by_cases hp : p i <;> simp [hp, tfind_cons, ih, hi]

theorem tfind_tdel_same (k : Nat) (t : List (Nat × α)) : tfind k (tdel k t) = none := by
  have := tfind_filter (fun j => decide (j ≠ k)) k t
  simpa [tdel] using this

theorem tfind_tdel_other {k j : Nat} (h : j ≠ k) (t : List (Nat × α)) : tfind j (tdel k t) = tfind j t := by
  have := tfind_filter (fun j => decide (j ≠ k)) j t
  simpa [tdel, h] using this

theorem tget_tput_same [DecidableEq α] (d : α) (k : Nat) (v : α) (t : List (Nat × α)) : tget d k (tput d k v t) = v := by
  unfold tget tput
  split
  · rename_i h; rw [tfind_tdel_same, h]; rfl
  · rw [tfind_tset_same]; rfl

theorem tget_tput_other [DecidableEq α] (d : α) {k j : Nat} (h : j ≠ k) (v : α) (t : List (Nat × α)) :
    tget d j (tput d k v t) = tget d j t := by
  unfold tget tput
  split
  · rw [tfind_tdel_other h]
  · rw [tfind_tset_other h]

/-! ### The canonical form -/

theorem keysAbove_mono {a b : Nat} (h : a ≤ b) (t : List (Nat × α)) (ht : keysAbove (some b) t = true) : keysAbove (some a) t = true := by
  cases t with
  | nil => rfl
  | cons e t =>
    simp only [keysAbove, Bool.and_eq_true, decide_eq_true_eq] at ht ⊢
    exact ⟨by omega, ht.2⟩

theorem keysAbove_none {b : Nat} (t : List (Nat × α)) (ht : keysAbove (some b) t = true) : keysAbove none t = true := by
  cases t with
  | nil => rfl
  | cons e t =>
    simp only [keysAbove, Bool.and_eq_true] at ht ⊢
    exact ht.2

theorem keysAbove_tset (k : Nat) (v : α) (t : List (Nat × α)) (b : Nat) (hb : b < k) (ht : keysAbove (some b) t = true) :
    keysAbove (some b) (tset k v t) = true := by
  induction t generalizing b with
  | nil => simp [tset, keysAbove, hb]
  | cons e t ih =>
    obtain ⟨j, w⟩ := e
    simp only [keysAbove, Bool.and_eq_true, decide_eq_true_eq] at ht
    simp only [tset]
    split
    · rename_i hk; simp [keysAbove, hb, hk, ht.2]
    · split
      · rename_i hj; subst hj; simp [keysAbove, hb, ht.2]
      · simp only [keysAbove, Bool.and_eq_true, decide_eq_true_eq]
        exact ⟨ht.1, ih j (by omega) ht.2⟩

theorem keysRise_tset (k : Nat) (v : α) (t : List (Nat × α)) (ht : keysRise t = true) : keysRise (tset k v t) = true := by
  cases t with
  | nil => rfl
  | cons e t =>
    obtain ⟨j, w⟩ := e
    have h : keysAbove (some j) t = true := ht
    simp only [tset]
    split
    · rename_i hk; show keysAbove (some k) ((j, w) :: t) = true; simp [keysAbove, hk, h]
    · split
      · rename_i hj; subst hj; exact h
      · exact keysAbove_tset k v t j (by omega) h

theorem keysAbove_filter (p : Nat × α → Bool) (t : List (Nat × α)) (b : Nat) (ht : keysAbove (some b) t = true) :
    keysAbove (some b) (t.filter p) = true := by
  induction t generalizing b with
  | nil => rfl
  | cons e t ih =>
    simp only [keysAbove, Bool.and_eq_true, decide_eq_true_eq] at ht
    rw [List.filter_cons]
    split
    · simp only [keysAbove, Bool.and_eq_true, decide_eq_true_eq]; exact ⟨ht.1, ih e.1 ht.2⟩
    · exact ih b (keysAbove_mono (Nat.le_of_lt ht.1) t ht.2)

theorem keysRise_filter (p : Nat × α → Bool) (t : List (Nat × α)) (ht : keysRise t = true) : keysRise (t.filter p) = true := by
  cases t with
  | nil => rfl
  | cons e t =>
    have h : keysAbove (some e.1) t = true := ht
    rw [List.filter_cons]
    split
    · exact keysAbove_filter p t e.1 h
    · exact keysAbove_none _ (keysAbove_filter p t e.1 h)

theorem mem_tset {k : Nat} {v : α} {t : List (Nat × α)} {e : Nat × α} (h : e ∈ tset k v t) : e = (k, v) ∨ e ∈ t := by
  induction t with
  | nil => simpa [tset] using h
  | cons x t ih =>
    obtain ⟨j, w⟩ := x
    simp only [tset] at h
    split at h
    · simpa using h
    · split at h
      · rename_i hj; rcases List.mem_cons.1 h with h | h
        · exact .inl h
        · exact .inr (List.mem_cons_of_mem _ h)
      · rcases List.mem_cons.1 h with h | h
        · exact .inr (h ▸ List.mem_cons_self)
        · rcases ih h with h | h
          · exact .inl h
          · exact .inr (List.mem_cons_of_mem _ h)

theorem tableWf_filter [DecidableEq α] (d : α) (p : Nat × α → Bool) (t : List (Nat × α)) (ht : tableWf d t = true) :
    tableWf d (t.filter p) = true := by
  simp only [tableWf, Bool.and_eq_true, List.all_eq_true] at ht ⊢
  exact ⟨keysRise_filter p t ht.1, fun e he => ht.2 e (List.mem_filter.1 he).1⟩

theorem tableWf_tput [DecidableEq α] (d : α) (k : Nat) (v : α) (t : List (Nat × α)) (ht : tableWf d t = true) :
    tableWf d (tput d k v t) = true := by
  unfold tput
  split
  · exact tableWf_filter d _ t ht
  · rename_i hv
    simp only [tableWf, Bool.and_eq_true, List.all_eq_true] at ht ⊢
    refine ⟨keysRise_tset k v t ht.1, fun e he => ?_⟩
    rcases mem_tset he with rfl | he
    · simpa using hv
    · exact ht.2 e he

/-! ### Memory: every operation keeps the canonical form -/

theorem wf_write (m : List Host.Cell) (a : Nat) (b : Byte) (h : Memory.wf m = true) : Memory.wf (Memory.write m a b) = true :=
  tableWf_tput emptyByte a b m h

theorem wf_fill (m : List Host.Cell) (a : Nat) (bs : List Byte) (h : Memory.wf m = true) : Memory.wf (Memory.fill m a bs) = true := by
  induction bs generalizing m a with
  | nil => exact h
  | cons b bs ih => exact ih _ _ (wf_write m a b h)

theorem wf_store (m cells : List Host.Cell) (h : Memory.wf m = true) : Memory.wf (Memory.store m cells) = true := by
  induction cells generalizing m with
  | nil => exact h
  | cons c t ih => exact ih _ (wf_write m c.1 c.2 h)

theorem wf_filter (m : List Host.Cell) (p : Host.Cell → Bool) (h : Memory.wf m = true) : Memory.wf (m.filter p) = true :=
  tableWf_filter emptyByte p m h

theorem wf_writeBytes (m : Mod) (dp : Option Nat) (cells : List Host.Cell) (bad : List Nat) (h : Memory.wf m.mem = true) :
    Memory.wf (m.writeBytes dp cells bad).mem = true := wf_store m.mem cells h

theorem wf_publishCells (m : Mod) (dp : Option Nat) (src : PubBy) (sc : Option Scope) (cells : List Host.Cell) (bad : List Nat)
    (h : Memory.wf m.mem = true) : Memory.wf (m.publishCells dp src sc cells bad).mem = true := by
  rw [Mod.publishCells]
  split
  · exact h
  · exact wf_writeBytes m dp cells bad h

theorem wf_reset : Memory.wf State.reset.now.mod.mem = true := rfl

/-! ### Memory: what a byte reads as -/

@[simp] theorem read_write_same (m : List Host.Cell) (a : Nat) (b : Byte) : Memory.read (Memory.write m a b) a = b :=
  tget_tput_same emptyByte a b m

theorem read_write_other (m : List Host.Cell) {a x : Nat} (h : x ≠ a) (b : Byte) : Memory.read (Memory.write m a b) x = Memory.read m x :=
  tget_tput_other emptyByte h b m

theorem read_fill_outside (m : List Host.Cell) (a : Nat) (bs : List Byte) (x : Nat) (h : x < a ∨ a + bs.length ≤ x) :
    Memory.read (Memory.fill m a bs) x = Memory.read m x := by
  induction bs generalizing m a with
  | nil => rfl
  | cons b bs ih =>
    simp only [List.length_cons] at h
    rw [Memory.fill, ih _ _ (by omega), read_write_other m (by omega)]

theorem read_fill_inside (m : List Host.Cell) (a : Nat) (bs : List Byte) (i : Nat) (b : Byte) (h : bs[i]? = some b) :
    Memory.read (Memory.fill m a bs) (a + i) = b := by
  induction bs generalizing m a i with
  | nil => simp at h
  | cons c bs ih =>
    cases i with
    | zero =>
      obtain rfl : c = b := by simpa using h
      rw [Memory.fill, read_fill_outside _ _ _ _ (by omega)]
      exact read_write_same m a c
    | succ i =>
      rw [Memory.fill, show a + (i + 1) = a + 1 + i by omega]
      exact ih _ _ _ (by simpa using h)

theorem read_store_outside (m cells : List Host.Cell) (x : Nat) (h : ∀ c ∈ cells, c.1 ≠ x) :
    Memory.read (Memory.store m cells) x = Memory.read m x := by
  induction cells generalizing m with
  | nil => rfl
  | cons c t ih =>
    rw [Memory.store, ih _ fun y hy => h y (List.mem_cons_of_mem _ hy), read_write_other m (Ne.symm (h c List.mem_cons_self))]

/-- Bytes at different addresses each hold what was stored there. -/
theorem read_store_inside (m cells : List Host.Cell) (h : (cells.map Prod.fst).Nodup) (c : Host.Cell) (hc : c ∈ cells) :
    Memory.read (Memory.store m cells) c.1 = c.2 := by
  induction cells generalizing m with
  | nil => simp at hc
  | cons y t ih =>
    simp only [List.map_cons, List.nodup_cons] at h
    rcases List.mem_cons.1 hc with rfl | hc
    · rw [Memory.store, read_store_outside _ _ _ fun z hz e => h.1 (by rw [← e]; exact List.mem_map_of_mem hz), read_write_same]
    · exact ih _ h.2 hc

theorem byte_writeBytes_outside (m : Mod) (dp : Option Nat) (cells : List Host.Cell) (bad : List Nat) (x : Nat) (h : ∀ c ∈ cells, c.1 ≠ x) :
    (m.writeBytes dp cells bad).byte x = m.byte x := read_store_outside m.mem cells x h

theorem byte_writeBytes_inside (m : Mod) (dp : Option Nat) (cells : List Host.Cell) (bad : List Nat) (h : (cells.map Prod.fst).Nodup)
    (c : Host.Cell) (hc : c ∈ cells) : (m.writeBytes dp cells bad).byte c.1 = c.2 := read_store_inside m.mem cells h c hc

/-- A publish leaves in memory what a write of the same bytes leaves there. -/
theorem byte_publishCells (m : Mod) (dp : Option Nat) (src : PubBy) (sc : Option Scope) (cells : List Host.Cell) (bad : List Nat) (x : Nat) :
    (m.publishCells dp src sc cells bad).byte x = (m.writeBytes dp cells bad).byte x := by
  rw [Mod.publishCells]
  split
  · next h => subst h; rfl
  · rfl

/-! ### Equal bytes are equal memories -/

theorem tfind_below {b : Nat} (t : List (Nat × α)) (h : keysAbove (some b) t = true) (k : Nat) (hk : k ≤ b) : tfind k t = none := by
  induction t generalizing b with
  | nil => rfl
  | cons e t ih =>
    obtain ⟨j, w⟩ := e
    simp only [keysAbove, Bool.and_eq_true, decide_eq_true_eq] at h
    rw [tfind_cons, if_neg (by omega)]
    exact ih h.2 (by omega)

theorem tfind_mem {t : List (Nat × α)} {k : Nat} {v : α} (h : tfind k t = some v) : (k, v) ∈ t := by
  induction t with
  | nil => simp at h
  | cons e t ih =>
    obtain ⟨j, w⟩ := e
    rw [tfind_cons] at h
    split at h
    · rename_i hj; cases h; subst hj; exact List.mem_cons_self
    · exact List.mem_cons_of_mem _ (ih h)

theorem table_ext (s t : List (Nat × α)) (hs : keysRise s = true) (ht : keysRise t = true) (h : ∀ k, tfind k s = tfind k t) : s = t := by
  induction s generalizing t with
  | nil =>
    cases t with
    | nil => rfl
    | cons e t => have := h e.1; rw [show e = (e.1, e.2) from rfl, tfind_cons, if_pos rfl] at this; simp at this
  | cons e s ih =>
    obtain ⟨j, v⟩ := e
    cases t with
    | nil => have := h j; rw [tfind_cons, if_pos rfl] at this; simp at this
    | cons f t =>
      obtain ⟨i, w⟩ := f
      have hs' : keysAbove (some j) s = true := hs
      have ht' : keysAbove (some i) t = true := ht
      have hij : j = i := by
        rcases Nat.lt_trichotomy j i with hl | he | hg
        · have := h j; rw [tfind_cons, if_pos rfl, tfind_cons, if_neg (by omega), tfind_below t ht' j (by omega)] at this; simp at this
        · exact he
        · have := h i; rw [tfind_cons i i, if_pos rfl, tfind_cons, if_neg (by omega), tfind_below s hs' i (by omega)] at this; simp at this
      subst hij
      have hv : v = w := by have := h j; rw [tfind_cons, if_pos rfl, tfind_cons, if_pos rfl] at this; simpa using this
      subst hv
      congr 1
      refine ih t (keysAbove_none _ hs') (keysAbove_none _ ht') fun k => ?_
      by_cases hk : k ≤ j
      · rw [tfind_below s hs' k hk, tfind_below t ht' k hk]
      · have := h k; rwa [tfind_cons, if_neg (by omega), tfind_cons, if_neg (by omega)] at this

/-- Canonical memories that read alike are equal. -/
theorem memory_ext (m n : List Host.Cell) (hm : Memory.wf m = true) (hn : Memory.wf n = true)
    (h : ∀ a, Memory.read m a = Memory.read n a) : m = n := by
  simp only [Memory.wf, tableWf, Bool.and_eq_true, List.all_eq_true] at hm hn
  refine table_ext m n hm.1 hn.1 fun k => ?_
  have hk := h k
  unfold Memory.read tget at hk
  cases hf : tfind k m with
  | none =>
    cases hg : tfind k n with
    | none => rfl
    | some w => rw [hf, hg] at hk; have := hn.2 _ (tfind_mem hg); simp at hk this; exact absurd hk.symm this
  | some v =>
    cases hg : tfind k n with
    | none => rw [hf, hg] at hk; have := hm.2 _ (tfind_mem hf); simp at hk this; exact absurd hk this
    | some w => rw [hf, hg] at hk; simpa using hk

end Sys2Proof.Laws
end

