-- ==== Sys2Proof/Laws/Operands.lean ====
section
/-! SUPPORT. What the shared operations over registers do: writing one register, opening its window, and giving a result. -/

namespace Sys2Proof.Laws
open Sys2Proof Sys2Proof.Machine

/-! ### One register -/

/-- The width of a register (spec/00 Table 00-4, spec/02 R45, R46). -/
def width : WReg → Nat
  | .s _ => 64
  | .a _ => 128
  | .v _ => 2048
  | .p _ => 128
  | .sh _ => 512
  | .lat k => latWidth k
  | .link => 64
  | .lrc => 16

theorem get_setLat_same (b : Bank) (k : Nat) (v : VecReg) (hk : k < 7) :
    (b.setLat k v).lat k = if latWidth k = 64 then (v.setWidth 64).setWidth 2048 else v := by
  rcases k with _ | _ | _ | _ | _ | _ | _ | k <;> first | omega | simp [Bank.setLat, Bank.lat, latWidth]

theorem get_setLat_other (b : Bank) (k j : Nat) (v : VecReg) (hk : k < 7) (hj : j < 7) (h : j ≠ k) :
    (b.setLat k v).lat j = b.lat j := by
  rcases k with _ | _ | _ | _ | _ | _ | _ | k <;> rcases j with _ | _ | _ | _ | _ | _ | _ | j <;> first | rfl | omega

theorem rest_setLat (b : Bank) (k : Nat) (v : VecReg) : (b.setLat k v).rest = b.rest := by
  unfold Bank.setLat
  split <;> rfl

theorem rest_write (b : Bank) (r : WReg) (v : VecReg) : (b.write r v).rest = b.rest := by
  cases r with
  | p n => by_cases h : n.val = 0 <;> simp [Bank.write, h] <;> rfl
  | lat k => exact rest_setLat b k v
  | _ => rfl

/-- A register that is not the one written keeps its value. -/
theorem get_write_other (b : Bank) (r q : WReg) (v : VecReg) (hr : r.real) (hq : q.real) (h : q ≠ r) :
    (b.write r v).get q = b.get q := by
  have fin : ∀ {n : Nat} {α : Type} (x : Vector α n) (i j : Fin n) (y : α), j ≠ i → (x.set i y)[j] = x[j] := by
    intro n α x i j y hij
    have : i.val ≠ j.val := fun e => hij (Fin.ext e.symm)
    simp [this]
  have lats : ∀ k j, (Bank.setLat b k v).get (.lat j) = (Bank.setLat b k v).lat j := fun _ _ => rfl
  cases r with
  | s i => cases q with
    | s j => simp only [Bank.write, Bank.get]; rw [fin]; intro e; exact h (by rw [e])
    | _ => rfl
  | a i => cases q with
    | a j => simp only [Bank.write, Bank.get]; rw [fin]; intro e; exact h (by rw [e])
    | _ => rfl
  | v i => cases q with
    | v j => simp only [Bank.write, Bank.get]; rw [fin]; intro e; exact h (by rw [e])
    | _ => rfl
  | p i =>
    by_cases h0 : i.val = 0
    · simp [Bank.write, h0]
    · simp only [Bank.write, h0, if_false]
      cases q with
      | p j => simp only [Bank.get]; rw [fin]; intro e; exact h (by rw [e])
      | _ => rfl
  | sh i => cases q with
    | sh j => simp only [Bank.write, Bank.get]; rw [fin]; intro e; exact h (by rw [e])
    | _ => rfl
  | lat k =>
    cases q with
    | lat j => exact get_setLat_other b k j v hr hq (fun e => h (by rw [e]))
    | _ => simp only [Bank.write, Bank.setLat]; split <;> rfl
  | link => cases q <;> first | rfl | exact absurd rfl h
  | lrc => cases q <;> first | rfl | exact absurd rfl h

/-- A register written holds the value, cut to its width; p0 keeps all its bits (spec/01 Table 01-2). -/
theorem get_write_same (b : Bank) (r : WReg) (v : VecReg) (hr : r.real) (h0 : r ≠ .p 0) :
    (b.write r v).get r = (v.setWidth (width r)).setWidth 2048 := by
  cases r with
  | s i => simp [Bank.write, Bank.get, width]
  | a i => simp [Bank.write, Bank.get, width]
  | v i => simp [Bank.write, Bank.get, width]
  | p i =>
    have : i.val ≠ 0 := fun e => h0 (by congr; exact Fin.ext e)
    simp [Bank.write, Bank.get, width, this]
  | sh i => simp [Bank.write, Bank.get, width]
  | lat k =>
    have := get_setLat_same b k v hr
    simp only [Bank.write, Bank.get, width, this]
    split
    · next h => rw [h]
    · next h =>
      have h2 : latWidth k = 2048 := by
        unfold latWidth at h ⊢; split <;> simp_all
      rw [h2]; simp
  | link => rfl
  | lrc => rfl

theorem write_p0 (b : Bank) (v : VecReg) : b.write (.p 0) v = b := rfl

/-! ### Windows -/

theorem open_iff (c : Ctx) (k : Nat) (r : WReg) :
    c.open k r = true ↔ ∃ w ∈ c.windows, w.reg = r ∧ (w.until' = none ∨ ∃ u, w.until' = some u ∧ k < u) := by
  simp only [Ctx.open, List.any_eq_true, Bool.and_eq_true, decide_eq_true_eq]
  constructor
  · rintro ⟨w, hw, hr, h⟩
    refine ⟨w, hw, hr, ?_⟩
    cases hu : w.until' with
    | none => exact .inl rfl
    | some u => rw [hu] at h; exact .inr ⟨u, rfl, of_decide_eq_true h⟩
  · rintro ⟨w, hw, hr, h⟩
    refine ⟨w, hw, hr, ?_⟩
    rcases h with h | ⟨u, h, hk⟩
    · rw [h]
    · rw [h]; exact decide_eq_true hk

/-- The windows that `opened` keeps, without the new one. -/
def kept (c : Ctx) (tick : Nat) (r : WReg) : List Window :=
  ((c.windows.filter fun w => !(w.reg = r && w.until'.isNone)).map fun w =>
    if w.reg = r then { w with req := none } else w).filter fun w =>
      w.req.isSome || (match w.until' with | none => true | some u => decide (tick < u))

theorem mem_kept {c : Ctx} {tick : Nat} {r : WReg} {w : Window} (h : w ∈ kept c tick r) :
    ∃ x ∈ c.windows, x.reg = w.reg ∧ x.until' = w.until' ∧ (w.reg = r → w.until' ≠ none) := by
  simp only [kept, List.mem_filter, List.mem_map] at h
  obtain ⟨⟨x, ⟨hx, hn⟩, rfl⟩, -⟩ := h
  refine ⟨x, hx, by split <;> rfl, by split <;> rfl, ?_⟩
  intro hr
  have hr' : x.reg = r := by revert hr; split <;> exact id
  intro hu
  have hu' : x.until' = none := by revert hu; split <;> exact id
  simp [hr', hu'] at hn

theorem kept_mem {c : Ctx} {tick : Nat} {r : WReg} {x : Window} (hx : x ∈ c.windows) (hn : x.reg = r → x.until' ≠ none)
    (hu : ∀ u, x.until' = some u → tick < u) : ∃ w ∈ kept c tick r, w.reg = x.reg ∧ w.until' = x.until' := by
  refine ⟨if x.reg = r then { x with req := none } else x, ?_, by split <;> rfl, by split <;> rfl⟩
  simp only [kept, List.mem_filter, List.mem_map]
  refine ⟨⟨x, ⟨hx, ?_⟩, rfl⟩, ?_⟩
  · by_cases h : x.reg = r
    · have := hn h
      cases hy : x.until' with
      | none => exact absurd hy this
      | some u => simp
    · simp [h]
  · have : (if x.reg = r then { x with req := none } else x : Window).until' = x.until' := by split <;> rfl
    rw [this]
    cases hy : x.until' with
    | none => simp
    | some u => simp [hu u hy]

/-- Only p0 is fixed (spec/01 Table 01-2). -/
theorem fixed_false {r : WReg} (h : r ≠ .p 0) : r.fixed = false := by
  cases r with
  | p n => exact beq_eq_false_iff_ne.2 fun e => h (by congr; exact Fin.ext e)
  | _ => rfl

/-- No window of p0 opens (spec/02 R69). -/
theorem opened_fixed (c : Ctx) (tick l : Nat) (r : WReg) (req : Option Nat) (h : r.fixed = true) : c.opened tick l r req = c := by
  simp [Ctx.opened, h]

theorem opened_windows (c : Ctx) (tick l : Nat) (r : WReg) (req : Option Nat) (hf : r.fixed = false) :
    (c.opened tick l r req).windows =
      if 1 < l ∨ req.isSome then kept c tick r ++ [⟨r, some (tick + l), req⟩] else kept c tick r := by
  simp only [Ctx.opened, hf]; rfl

theorem opened_poison (c : Ctx) (tick l : Nat) (r : WReg) (req : Option Nat) (hf : r.fixed = false) :
    (c.opened tick l r req).poison = c.poison.filter (· ≠ r) := by
  simp only [Ctx.opened, hf]; rfl

/-- Opening a window touches the windows, the poison and nothing else. -/
theorem opened_eq (c : Ctx) (tick l : Nat) (r : WReg) (req : Option Nat) : c.opened tick l r req =
    { c with windows := (c.opened tick l r req).windows, poison := (c.opened tick l r req).poison } := by
  unfold Ctx.opened
  split <;> rfl

/-- Opening a window of r leaves the windows of every other register open as they were. -/
theorem opened_other (c : Ctx) (tick l : Nat) (r q : WReg) (req : Option Nat) (h : q ≠ r) (k : Nat) (hk : tick ≤ k) :
    (c.opened tick l r req).open k q = c.open k q := by
  by_cases hp : r = .p 0
  · subst hp; rw [opened_fixed c tick l (.p 0) req rfl]
  rw [Bool.eq_iff_iff, open_iff, open_iff, opened_windows _ _ _ _ _ (fixed_false hp)]
  constructor
  · rintro ⟨w, hw, rfl, h2⟩
    have hw' : w ∈ kept c tick r := by
      split at hw
      · rcases List.mem_append.1 hw with hw | hw
        · exact hw
        · simp at hw; rw [hw] at h; exact absurd rfl h
      · exact hw
    obtain ⟨x, hx, hr, hu, -⟩ := mem_kept hw'
    exact ⟨x, hx, hr, by rw [hu]; exact h2⟩
  · rintro ⟨x, hx, rfl, h2⟩
    have hu : ∀ u, x.until' = some u → tick < u := by
      intro u hu
      rcases h2 with h2 | ⟨u', h2, hk'⟩
      · rw [h2] at hu; cases hu
      · rw [h2] at hu; cases hu; omega
    obtain ⟨w, hw, hr, hu'⟩ := kept_mem (tick := tick) (r := r) hx (fun e => absurd e h) hu
    refine ⟨w, ?_, hr, by rw [hu']; exact h2⟩
    split
    · exact List.mem_append.2 (.inl hw)
    · exact hw

/-- The register whose window is opened. -/
theorem opened_same (c : Ctx) (tick l : Nat) (r : WReg) (hp : r ≠ .p 0) (k : Nat) (hk : tick ≤ k) :
    (c.opened tick l r none).open k r = true ↔
      (1 < l ∧ k < tick + l) ∨ ∃ w ∈ c.windows, w.reg = r ∧ ∃ u, w.until' = some u ∧ k < u := by
  rw [open_iff, opened_windows _ _ _ _ _ (fixed_false hp)]
  constructor
  · rintro ⟨w, hw, hr, h2⟩
    have old : w ∈ kept c tick r → ∃ w ∈ c.windows, w.reg = r ∧ ∃ u, w.until' = some u ∧ k < u := by
      intro hw'
      obtain ⟨x, hx, hr', hu, hn⟩ := mem_kept hw'
      rcases h2 with h2 | ⟨u, h2, hk'⟩
      · exact absurd h2 (hn hr)
      · exact ⟨x, hx, hr'.trans hr, u, hu.trans h2, hk'⟩
    split at hw
    · next hl =>
      rcases List.mem_append.1 hw with hw | hw
      · exact .inr (old hw)
      · simp at hw
        subst hw
        rcases h2 with h2 | ⟨u, h2, hk'⟩
        · cases h2
        · cases h2
          exact .inl ⟨by simpa using hl, hk'⟩
    · exact .inr (old hw)
  · rintro (⟨hl, hk'⟩ | ⟨x, hx, hr, u, hu, hk'⟩)
    · rw [if_pos (.inl hl)]
      exact ⟨_, List.mem_append.2 (.inr (List.mem_singleton.2 rfl)), rfl, .inr ⟨_, rfl, hk'⟩⟩
    · obtain ⟨w, hw, hr', hu'⟩ := kept_mem (tick := tick) (r := r) hx (fun _ e => by rw [hu] at e; cases e)
        (fun u' e => by rw [hu] at e; cases e; omega)
      refine ⟨w, ?_, hr'.trans hr, .inr ⟨u, hu'.trans hu, hk'⟩⟩
      split
      · exact List.mem_append.2 (.inl hw)
      · exact hw

/-! ### Writing a register of the issuing context -/

/-- t is s with register r of the issuing context written with a bound l. -/
def put (s : State) (l : Nat) (r : WReg) (v : VecReg) : State := s.onCtx fun c => c.put s.tick l r v

/-- The context after a register is written. -/
theorem put_ctx (s : State) (l : Nat) (r : WReg) (v : VecReg) : (put s l r v).now.ctx =
    { (s.now.ctx.opened s.tick l r none) with bank := s.now.ctx.bank.write r v } := by
  change Ctx.put _ _ _ _ _ = _
  unfold Ctx.put Ctx.opened
  split <;> rfl

theorem put_only (s : State) (l : Nat) (r : WReg) (v : VecReg) (hr : r.real) : OnlyWrites s (put s l r v) [r] where
  outside := by
    unfold OnlyRegisters
    have h := put_ctx s l r v
    rw [opened_eq] at h
    have : put s l r v = { s with now := { s.now with ctx := (put s l r v).now.ctx } } := rfl
    rw [this, h]
  regs q hq h := get_write_other _ r q v hr hq (by simpa using h)
  rest := rest_write _ r v
  windows q h k hk := opened_other _ _ l r q none (by simpa using h) k hk
  poison q h := by
    have : q ≠ r := by simpa using h
    rw [put_ctx]
    by_cases hp : r = .p 0
    · subst hp; rw [opened_fixed _ _ _ (.p 0) _ rfl]
    · change q ∈ (Ctx.opened _ _ _ _ _).poison ↔ _
      rw [opened_poison _ _ _ _ _ (fixed_false hp)]
      simp [this]
  memory _ := rfl

theorem put_opens (s : State) (l : Nat) (r : WReg) (v : VecReg) (hp : r ≠ .p 0) : OpensFor s (put s l r v) r l := by
  intro k hk
  rw [put_ctx]
  exact opened_same _ _ l r hp k hk

theorem put_clean (s : State) (l : Nat) (r : WReg) (v : VecReg) (hp : r ≠ .p 0) : r ∉ (put s l r v).now.ctx.poison := by
  rw [put_ctx]
  change r ∉ (Ctx.opened _ _ _ _ _).poison
  rw [opened_poison _ _ _ _ _ (fixed_false hp)]
  simp

theorem put_windows (s : State) (l : Nat) (r : WReg) (v : VecReg) (hp : r ≠ .p 0) : (put s l r v).now.ctx.windows =
    if 1 < l ∨ (none : Option Nat).isSome then kept s.now.ctx s.tick r ++ [⟨r, some (s.tick + l), none⟩] else kept s.now.ctx s.tick r := by
  rw [put_ctx]
  exact opened_windows _ _ _ _ _ (fixed_false hp)

/-- Writing p0 leaves its windows alone (spec/01 Table 01-2). -/
theorem put_p0 (s : State) (l : Nat) (v : VecReg) : (put s l (.p 0) v).now.ctx = s.now.ctx := by
  rw [put_ctx, opened_fixed _ _ _ (.p 0) _ rfl]
  rfl

theorem OnlyWrites.trans {s t u : State} {l m : List WReg} (h : OnlyWrites s t l) (g : OnlyWrites t u m) : OnlyWrites s u (l ++ m) where
  outside := by
    have h1 := h.outside
    have h2 := g.outside
    unfold OnlyRegisters at *
    rw [h2, h1]
  regs q hq hn := by
    simp only [List.mem_append, not_or] at hn
    rw [g.regs q hq hn.2, h.regs q hq hn.1]
  rest := g.rest.trans h.rest
  windows q hn k hk := by
    simp only [List.mem_append, not_or] at hn
    have ht : t.tick = s.tick := by rw [h.outside]; rfl
    rw [g.windows q hn.2 k (by omega), h.windows q hn.1 k hk]
  poison q hn := by
    simp only [List.mem_append, not_or] at hn
    rw [g.poison q hn.2, h.poison q hn.1]
  memory a := (g.memory a).trans (h.memory a)

/-! ### Giving a result -/

theorem result_eq (s : State) (slot l n : Nat) (d : Option WReg) (v : VecReg) :
    s.result slot l n d v = put (match d with | some r => put s l r v | none => s) l (.lat slot) (s.latched slot n v) := by
  cases d <;> rfl

/-- The low bits of what a latch takes are the result's (spec/02 R45). -/
theorem latched_low (s : State) (slot n : Nat) (v : VecReg) (hn : n ≤ latWidth slot) (i : Nat) (hi : i < n) (h2 : n < 2048 ∨ n = latWidth slot) :
    (s.latched slot n v).getLsbD i = v.getLsbD i := by
  unfold State.latched
  rw [if_neg (by omega)]
  split
  · rfl
  · have hlt : n < 2048 := by omega
    have hm : (BitVec.ofNat 2048 (2 ^ n - 1)).getLsbD i = true := by
      rw [BitVec.getLsbD_ofNat]
      simp [Nat.testBit_two_pow_sub_one, hi]
      omega
    simp only [BitVec.getLsbD_or, BitVec.getLsbD_shiftLeft, BitVec.getLsbD_and, hm]
    simp [hi]

theorem latWidth_cases (k : Nat) : latWidth k = 64 ∨ latWidth k = 2048 := by
  unfold latWidth; split <;> simp

/-- Everything that giving a result does: the destination and the slot's latch take it, and nothing else changes. -/
theorem result_gives (s : State) (slot l n : Nat) (d : Option WReg) (v : VecReg) (hs : slot < 7) (hn : 0 < n) (hn2 : n ≤ 2048)
    (hd : ∀ r ∈ d, r.real ∧ (∀ k, r ≠ .lat k) ∧ width r = n) (hv : (v.setWidth n).setWidth 2048 = v) :
    Gives s (.next (s.result slot l n d v)) slot l n d v := by
  refine ⟨_, rfl, ?_⟩
  rw [result_eq]
  have lreal : (WReg.lat slot).real := hs
  have latPart : ∀ t : State, n ≤ latWidth slot → ∀ i, i < n →
      ((put t l (.lat slot) (s.latched slot n v)).get (.lat slot)).getLsbD i = v.getLsbD i := by
    intro t hw i hi
    have h1 := get_write_same t.now.ctx.bank (.lat slot) (s.latched slot n v) lreal (by simp)
    change ((t.now.ctx.bank.write (.lat slot) (s.latched slot n v)).get (.lat slot)).getLsbD i = _
    rw [h1]
    rcases latWidth_cases slot with h | h
    · have e : width (.lat slot) = 64 := h
      have h3 := latched_low s slot n v hw i hi (.inl (by omega))
      have a1 : i < 2048 := by omega
      have a2 : i < 64 := by omega
      rw [e, BitVec.getLsbD_setWidth, BitVec.getLsbD_setWidth, h3]
      simp [a1, a2]
    · have e : width (.lat slot) = 2048 := h
      have h3 := latched_low s slot n v hw i hi (by omega)
      have a1 : i < 2048 := by omega
      rw [e, BitVec.getLsbD_setWidth, BitVec.getLsbD_setWidth, h3]
      simp [a1]
  cases d with
  | none =>
    refine ⟨put_only _ _ _ _ lreal, by simp, by simp, latPart _, ?_⟩
    intro r hr h0
    simp at hr; subst hr
    exact ⟨put_opens _ _ _ _ h0, put_clean _ _ _ _ h0⟩
  | some r =>
    obtain ⟨hreal, hlat, hwid⟩ := hd r rfl
    have only : OnlyWrites s (put (put s l r v) l (.lat slot) (s.latched slot n v)) [.lat slot, r] := by
      have h := OnlyWrites.trans (put_only s l r v hreal) (put_only (put s l r v) l (.lat slot) (s.latched slot n v) lreal)
      exact { h with
        regs := fun q hq hn => h.regs q hq (by simp at hn ⊢; exact ⟨hn.2, hn.1⟩)
        windows := fun q hn => h.windows q (by simp at hn ⊢; exact ⟨hn.2, hn.1⟩)
        poison := fun q hn => h.poison q (by simp at hn ⊢; exact ⟨hn.2, hn.1⟩) }
    have second := put_only (put s l r v) l (.lat slot) (s.latched slot n v) lreal
    have rnot : r ∉ [WReg.lat slot] := by simpa using hlat slot
    refine ⟨only, ?_, ?_, latPart _, ?_⟩
    · intro q hq h0
      cases hq
      rw [second.regs r hreal rnot]
      change (Bank.write _ _ _).get _ = _
      rw [get_write_same _ r v hreal h0, hwid, hv]
    · intro h
      cases h
      refine ⟨?_, fun k hk => ?_⟩
      · rw [second.regs (.p 0) trivial rnot]
        rfl
      · rw [second.windows (.p 0) rnot k hk, put_p0]
    · intro q hq hq0
      simp at hq
      rcases hq with rfl | rfl
      · refine ⟨?_, put_clean _ _ _ _ hq0⟩
        intro k hk
        rw [put_opens (put s l r v) l (.lat slot) (s.latched slot n v) hq0 k hk]
        have ht : (put s l r v).tick = s.tick := rfl
        rw [ht]
        have hw := (put_only s l r v hreal).windows (.lat slot) (by simpa using (hlat slot).symm) 
        have e : ∀ k, s.tick ≤ k → ((∃ w ∈ (put s l r v).now.ctx.windows, w.reg = .lat slot ∧ ∃ u, w.until' = some u ∧ k < u) ↔
            ∃ w ∈ s.now.ctx.windows, w.reg = .lat slot ∧ ∃ u, w.until' = some u ∧ k < u) := by
          intro k hk
          by_cases hp : r = .p 0
          · subst hp; rw [put_p0]
          rw [put_windows _ _ _ _ hp]
          constructor
          · rintro ⟨w, hw, hr, u, hu, hk'⟩
            have hw' : w ∈ kept s.now.ctx s.tick r := by
              split at hw
              · rcases List.mem_append.1 hw with hw | hw
                · exact hw
                · simp at hw; rw [hw] at hr; exact absurd hr (hlat slot)
              · exact hw
            obtain ⟨x, hx, hr', hu', -⟩ := mem_kept hw'
            exact ⟨x, hx, hr'.trans hr, u, hu'.trans hu, hk'⟩
          · rintro ⟨x, hx, hr, u, hu, hk'⟩
            obtain ⟨w, hw, hr', hu'⟩ := kept_mem (tick := s.tick) (r := r) hx (fun e => absurd (e.symm.trans hr) (hlat slot))
              (fun u' e => by rw [hu] at e; cases e; omega)
            refine ⟨w, ?_, hr'.trans hr, u, hu'.trans hu, hk'⟩
            split
            · exact List.mem_append.2 (.inl hw)
            · exact hw
        rw [e k hk]
      · refine ⟨?_, ?_⟩
        · intro k hk
          rw [second.windows q rnot k hk]
          exact put_opens s l q v hq0 k hk
        · rw [second.poison q rnot]
          exact put_clean s l q v hq0

theorem gives_of_eq {s : State} {o : Answer} {slot l n : Nat} {d : Option WReg} {v : VecReg} (t : State)
    (ho : o = .next t) (h : Gives s (.next t) slot l n d v) : Gives s o slot l n d v := by rw [ho]; exact h

theorem retS_gives (s : State) (slot l : Nat) (d : Option (Fin 64)) (v : W64) (hs : slot < 7) :
    GivesS s (.next (s.retS slot l d v)) slot l d v := by
  refine result_gives s slot l 64 _ _ hs (by decide) (by decide) ?_ (by simp)
  intro r hr
  cases d <;> simp at hr
  subst hr; exact ⟨trivial, by simp, rfl⟩

theorem retA_gives (s : State) (slot l : Nat) (d : Option (Fin 16)) (v : Cap) (hs : slot < 7) :
    GivesA s (.next (s.retA slot l d v)) slot l d v := by
  refine result_gives s slot l 128 _ _ hs (by decide) (by decide) ?_ (by simp)
  intro r hr
  cases d <;> simp at hr
  subst hr; exact ⟨trivial, by simp, rfl⟩

theorem retV_gives (s : State) (slot l : Nat) (d : Option (Fin 32)) (v : VecReg) (hs : slot < 7) :
    GivesV s (.next (s.retV slot l d v)) slot l d v := by
  refine result_gives s slot l 2048 _ _ hs (by decide) (by decide) ?_ (by simp)
  intro r hr
  cases d <;> simp at hr
  subst hr; exact ⟨trivial, by simp, rfl⟩

theorem retP_gives (s : State) (slot l : Nat) (d : Option (Fin 24)) (v : Pred) (hs : slot < 7) :
    GivesP s (.next (s.retP slot l d v)) slot l d v := by
  refine result_gives s slot l 128 _ _ hs (by decide) (by decide) ?_ (by simp)
  intro r hr
  cases d <;> simp at hr
  subst hr; exact ⟨trivial, by simp, rfl⟩

theorem retSh_gives (s : State) (slot l : Nat) (d : Option (Fin 16)) (v : Shape) (hs : slot < 7) :
    GivesSh s (.next (s.retSh slot l d v)) slot l d v := by
  refine result_gives s slot l 512 _ _ hs (by decide) (by decide) ?_ (by simp)
  intro r hr
  cases d <;> simp at hr
  subst hr; exact ⟨trivial, by simp, rfl⟩

theorem slotS_lt (u : SU) : slotS u < 7 := by cases u <;> decide
theorem slotV_lt (u : VU) : slotV u < 7 := by cases u <;> decide

end Sys2Proof.Laws
end

