-- ==== Sys2Proof/Laws/PerInstr.lean ====
section
/-! SUPPORT. Claims made for all instructions, one lemma for each constructor of Instr. -/

namespace Sys2Proof.Laws.RoundTrip

/-- Decoding the word that the encoder gives a well-formed slot operation, in the slot the operation belongs to and on a core
that has it, gives the operation back with every operand, and finds no reserved bit set. -/
def Statement (i : Instr) : Prop :=
  ∀ (sl : Slot) (att : Bool), slotOf i = some sl → i.wf = true → (i.isAttention = true → att = true) →
    decodeSlot att sl (encode i) = some (some i, false)

/-- From the slot of an operation and its word. -/
theorem statement_of {i : Instr} {sl : Slot} {w : W32} (hs : slotOf i = some sl) (he : encode i = w) (ho : opOf w ≠ 0#6)
    (hd : decodeWord sl w = some (i, false)) : Statement i := by
  intro sl' att h hw ha
  rw [hs] at h
  cases h
  rw [he]
  exact decodeSlot_of ho hd hw ha

theorem addI64 (u : SU) (d : Option (Fin 64)) (a : Src) (b : Src) : Statement (.addI64 u d a b) := by
  refine statement_of rfl rfl (by rw [show encode _ = encR 1#6 (encOpt d) 0#3 (encSrc b) (encSrc a) from rfl, opOf_encR]; decide) ?_
  change decodeWord _ (encR 1#6 (encOpt d) 0#3 (encSrc b) (encSrc a)) = _
  refine (decodeWord_scalar u (by rw [opOf_encR]; decide)).trans ?_
  delta decodeScalar; rw [opOf_encR, fnOf_encR]
  exact decDAB_enc (dOpt_enc d (by decide)) _ _ _

theorem subI64 (u : SU) (d : Option (Fin 64)) (a : Src) (b : Src) : Statement (.subI64 u d a b) := by
  refine statement_of rfl rfl (by rw [show encode _ = encR 1#6 (encOpt d) 1#3 (encSrc b) (encSrc a) from rfl, opOf_encR]; decide) ?_
  change decodeWord _ (encR 1#6 (encOpt d) 1#3 (encSrc b) (encSrc a)) = _
  refine (decodeWord_scalar u (by rw [opOf_encR]; decide)).trans ?_
  delta decodeScalar; rw [opOf_encR, fnOf_encR]
  exact decDAB_enc (dOpt_enc d (by decide)) _ _ _

theorem minI64 (u : SU) (d : Option (Fin 64)) (a : Src) (b : Src) : Statement (.minI64 u d a b) := by
  refine statement_of rfl rfl (by rw [show encode _ = encR 1#6 (encOpt d) 2#3 (encSrc b) (encSrc a) from rfl, opOf_encR]; decide) ?_
  change decodeWord _ (encR 1#6 (encOpt d) 2#3 (encSrc b) (encSrc a)) = _
  refine (decodeWord_scalar u (by rw [opOf_encR]; decide)).trans ?_
  delta decodeScalar; rw [opOf_encR, fnOf_encR]
  exact decDAB_enc (dOpt_enc d (by decide)) _ _ _

theorem maxI64 (u : SU) (d : Option (Fin 64)) (a : Src) (b : Src) : Statement (.maxI64 u d a b) := by
  refine statement_of rfl rfl (by rw [show encode _ = encR 1#6 (encOpt d) 3#3 (encSrc b) (encSrc a) from rfl, opOf_encR]; decide) ?_
  change decodeWord _ (encR 1#6 (encOpt d) 3#3 (encSrc b) (encSrc a)) = _
  refine (decodeWord_scalar u (by rw [opOf_encR]; decide)).trans ?_
  delta decodeScalar; rw [opOf_encR, fnOf_encR]
  exact decDAB_enc (dOpt_enc d (by decide)) _ _ _

theorem addsI64 (u : SU) (d : Option (Fin 64)) (a : Src) (b : Src) : Statement (.addsI64 u d a b) := by
  refine statement_of rfl rfl (by rw [show encode _ = encR 1#6 (encOpt d) 4#3 (encSrc b) (encSrc a) from rfl, opOf_encR]; decide) ?_
  change decodeWord _ (encR 1#6 (encOpt d) 4#3 (encSrc b) (encSrc a)) = _
  refine (decodeWord_scalar u (by rw [opOf_encR]; decide)).trans ?_
  delta decodeScalar; rw [opOf_encR, fnOf_encR]
  exact decDAB_enc (dOpt_enc d (by decide)) _ _ _

theorem minZ64 (u : SU) (d : Option (Fin 64)) (a : Src) (b : Src) : Statement (.minZ64 u d a b) := by
  refine statement_of rfl rfl (by rw [show encode _ = encR 1#6 (encOpt d) 5#3 (encSrc b) (encSrc a) from rfl, opOf_encR]; decide) ?_
  change decodeWord _ (encR 1#6 (encOpt d) 5#3 (encSrc b) (encSrc a)) = _
  refine (decodeWord_scalar u (by rw [opOf_encR]; decide)).trans ?_
  delta decodeScalar; rw [opOf_encR, fnOf_encR]
  exact decDAB_enc (dOpt_enc d (by decide)) _ _ _

theorem maxZ64 (u : SU) (d : Option (Fin 64)) (a : Src) (b : Src) : Statement (.maxZ64 u d a b) := by
  refine statement_of rfl rfl (by rw [show encode _ = encR 1#6 (encOpt d) 6#3 (encSrc b) (encSrc a) from rfl, opOf_encR]; decide) ?_
  change decodeWord _ (encR 1#6 (encOpt d) 6#3 (encSrc b) (encSrc a)) = _
  refine (decodeWord_scalar u (by rw [opOf_encR]; decide)).trans ?_
  delta decodeScalar; rw [opOf_encR, fnOf_encR]
  exact decDAB_enc (dOpt_enc d (by decide)) _ _ _

theorem addI32 (u : SU) (d : Option (Fin 64)) (a : Src) (b : Src) : Statement (.addI32 u d a b) := by
  refine statement_of rfl rfl (by rw [show encode _ = encR 2#6 (encOpt d) 0#3 (encSrc b) (encSrc a) from rfl, opOf_encR]; decide) ?_
  change decodeWord _ (encR 2#6 (encOpt d) 0#3 (encSrc b) (encSrc a)) = _
  refine (decodeWord_scalar u (by rw [opOf_encR]; decide)).trans ?_
  delta decodeScalar; rw [opOf_encR, fnOf_encR]
  exact decDAB_enc (dOpt_enc d (by decide)) _ _ _

theorem subI32 (u : SU) (d : Option (Fin 64)) (a : Src) (b : Src) : Statement (.subI32 u d a b) := by
  refine statement_of rfl rfl (by rw [show encode _ = encR 2#6 (encOpt d) 1#3 (encSrc b) (encSrc a) from rfl, opOf_encR]; decide) ?_
  change decodeWord _ (encR 2#6 (encOpt d) 1#3 (encSrc b) (encSrc a)) = _
  refine (decodeWord_scalar u (by rw [opOf_encR]; decide)).trans ?_
  delta decodeScalar; rw [opOf_encR, fnOf_encR]
  exact decDAB_enc (dOpt_enc d (by decide)) _ _ _

theorem minI32 (u : SU) (d : Option (Fin 64)) (a : Src) (b : Src) : Statement (.minI32 u d a b) := by
  refine statement_of rfl rfl (by rw [show encode _ = encR 2#6 (encOpt d) 2#3 (encSrc b) (encSrc a) from rfl, opOf_encR]; decide) ?_
  change decodeWord _ (encR 2#6 (encOpt d) 2#3 (encSrc b) (encSrc a)) = _
  refine (decodeWord_scalar u (by rw [opOf_encR]; decide)).trans ?_
  delta decodeScalar; rw [opOf_encR, fnOf_encR]
  exact decDAB_enc (dOpt_enc d (by decide)) _ _ _

theorem maxI32 (u : SU) (d : Option (Fin 64)) (a : Src) (b : Src) : Statement (.maxI32 u d a b) := by
  refine statement_of rfl rfl (by rw [show encode _ = encR 2#6 (encOpt d) 3#3 (encSrc b) (encSrc a) from rfl, opOf_encR]; decide) ?_
  change decodeWord _ (encR 2#6 (encOpt d) 3#3 (encSrc b) (encSrc a)) = _
  refine (decodeWord_scalar u (by rw [opOf_encR]; decide)).trans ?_
  delta decodeScalar; rw [opOf_encR, fnOf_encR]
  exact decDAB_enc (dOpt_enc d (by decide)) _ _ _

theorem addsI32 (u : SU) (d : Option (Fin 64)) (a : Src) (b : Src) : Statement (.addsI32 u d a b) := by
  refine statement_of rfl rfl (by rw [show encode _ = encR 2#6 (encOpt d) 4#3 (encSrc b) (encSrc a) from rfl, opOf_encR]; decide) ?_
  change decodeWord _ (encR 2#6 (encOpt d) 4#3 (encSrc b) (encSrc a)) = _
  refine (decodeWord_scalar u (by rw [opOf_encR]; decide)).trans ?_
  delta decodeScalar; rw [opOf_encR, fnOf_encR]
  exact decDAB_enc (dOpt_enc d (by decide)) _ _ _

theorem minZ32 (u : SU) (d : Option (Fin 64)) (a : Src) (b : Src) : Statement (.minZ32 u d a b) := by
  refine statement_of rfl rfl (by rw [show encode _ = encR 2#6 (encOpt d) 5#3 (encSrc b) (encSrc a) from rfl, opOf_encR]; decide) ?_
  change decodeWord _ (encR 2#6 (encOpt d) 5#3 (encSrc b) (encSrc a)) = _
  refine (decodeWord_scalar u (by rw [opOf_encR]; decide)).trans ?_
  delta decodeScalar; rw [opOf_encR, fnOf_encR]
  exact decDAB_enc (dOpt_enc d (by decide)) _ _ _

theorem maxZ32 (u : SU) (d : Option (Fin 64)) (a : Src) (b : Src) : Statement (.maxZ32 u d a b) := by
  refine statement_of rfl rfl (by rw [show encode _ = encR 2#6 (encOpt d) 6#3 (encSrc b) (encSrc a) from rfl, opOf_encR]; decide) ?_
  change decodeWord _ (encR 2#6 (encOpt d) 6#3 (encSrc b) (encSrc a)) = _
  refine (decodeWord_scalar u (by rw [opOf_encR]; decide)).trans ?_
  delta decodeScalar; rw [opOf_encR, fnOf_encR]
  exact decDAB_enc (dOpt_enc d (by decide)) _ _ _

theorem and (u : SU) (d : Option (Fin 64)) (a : Src) (b : Src) : Statement (.and u d a b) := by
  refine statement_of rfl rfl (by rw [show encode _ = encR 3#6 (encOpt d) 0#3 (encSrc b) (encSrc a) from rfl, opOf_encR]; decide) ?_
  change decodeWord _ (encR 3#6 (encOpt d) 0#3 (encSrc b) (encSrc a)) = _
  refine (decodeWord_scalar u (by rw [opOf_encR]; decide)).trans ?_
  delta decodeScalar; rw [opOf_encR, fnOf_encR]
  exact decDAB_enc (dOpt_enc d (by decide)) _ _ _

theorem or (u : SU) (d : Option (Fin 64)) (a : Src) (b : Src) : Statement (.or u d a b) := by
  refine statement_of rfl rfl (by rw [show encode _ = encR 3#6 (encOpt d) 1#3 (encSrc b) (encSrc a) from rfl, opOf_encR]; decide) ?_
  change decodeWord _ (encR 3#6 (encOpt d) 1#3 (encSrc b) (encSrc a)) = _
  refine (decodeWord_scalar u (by rw [opOf_encR]; decide)).trans ?_
  delta decodeScalar; rw [opOf_encR, fnOf_encR]
  exact decDAB_enc (dOpt_enc d (by decide)) _ _ _

theorem xor (u : SU) (d : Option (Fin 64)) (a : Src) (b : Src) : Statement (.xor u d a b) := by
  refine statement_of rfl rfl (by rw [show encode _ = encR 3#6 (encOpt d) 2#3 (encSrc b) (encSrc a) from rfl, opOf_encR]; decide) ?_
  change decodeWord _ (encR 3#6 (encOpt d) 2#3 (encSrc b) (encSrc a)) = _
  refine (decodeWord_scalar u (by rw [opOf_encR]; decide)).trans ?_
  delta decodeScalar; rw [opOf_encR, fnOf_encR]
  exact decDAB_enc (dOpt_enc d (by decide)) _ _ _

theorem andn (u : SU) (d : Option (Fin 64)) (a : Src) (b : Src) : Statement (.andn u d a b) := by
  refine statement_of rfl rfl (by rw [show encode _ = encR 3#6 (encOpt d) 3#3 (encSrc b) (encSrc a) from rfl, opOf_encR]; decide) ?_
  change decodeWord _ (encR 3#6 (encOpt d) 3#3 (encSrc b) (encSrc a)) = _
  refine (decodeWord_scalar u (by rw [opOf_encR]; decide)).trans ?_
  delta decodeScalar; rw [opOf_encR, fnOf_encR]
  exact decDAB_enc (dOpt_enc d (by decide)) _ _ _

theorem orn (u : SU) (d : Option (Fin 64)) (a : Src) (b : Src) : Statement (.orn u d a b) := by
  refine statement_of rfl rfl (by rw [show encode _ = encR 3#6 (encOpt d) 4#3 (encSrc b) (encSrc a) from rfl, opOf_encR]; decide) ?_
  change decodeWord _ (encR 3#6 (encOpt d) 4#3 (encSrc b) (encSrc a)) = _
  refine (decodeWord_scalar u (by rw [opOf_encR]; decide)).trans ?_
  delta decodeScalar; rw [opOf_encR, fnOf_encR]
  exact decDAB_enc (dOpt_enc d (by decide)) _ _ _

theorem not (u : SU) (d : Option (Fin 64)) (a : Src) : Statement (.not u d a) := by
  refine statement_of rfl rfl (by rw [show encode _ = encR 3#6 (encOpt d) 5#3 0#8 (encSrc a) from rfl, opOf_encR]; decide) ?_
  change decodeWord _ (encR 3#6 (encOpt d) 5#3 0#8 (encSrc a)) = _
  refine (decodeWord_scalar u (by rw [opOf_encR]; decide)).trans ?_
  delta decodeScalar; rw [opOf_encR, fnOf_encR]
  exact decDA_enc (dOpt_enc d (by decide)) _ _

theorem shl (u : SU) (d : Option (Fin 64)) (a : Src) (b : Src) : Statement (.shl u d a b) := by
  refine statement_of rfl rfl (by rw [show encode _ = encR 4#6 (encOpt d) 0#3 (encSrc b) (encSrc a) from rfl, opOf_encR]; decide) ?_
  change decodeWord _ (encR 4#6 (encOpt d) 0#3 (encSrc b) (encSrc a)) = _
  refine (decodeWord_scalar u (by rw [opOf_encR]; decide)).trans ?_
  delta decodeScalar; rw [opOf_encR, fnOf_encR]
  exact decDAB_enc (dOpt_enc d (by decide)) _ _ _

theorem shr (u : SU) (d : Option (Fin 64)) (a : Src) (b : Src) : Statement (.shr u d a b) := by
  refine statement_of rfl rfl (by rw [show encode _ = encR 4#6 (encOpt d) 1#3 (encSrc b) (encSrc a) from rfl, opOf_encR]; decide) ?_
  change decodeWord _ (encR 4#6 (encOpt d) 1#3 (encSrc b) (encSrc a)) = _
  refine (decodeWord_scalar u (by rw [opOf_encR]; decide)).trans ?_
  delta decodeScalar; rw [opOf_encR, fnOf_encR]
  exact decDAB_enc (dOpt_enc d (by decide)) _ _ _

theorem sar (u : SU) (d : Option (Fin 64)) (a : Src) (b : Src) : Statement (.sar u d a b) := by
  refine statement_of rfl rfl (by rw [show encode _ = encR 4#6 (encOpt d) 2#3 (encSrc b) (encSrc a) from rfl, opOf_encR]; decide) ?_
  change decodeWord _ (encR 4#6 (encOpt d) 2#3 (encSrc b) (encSrc a)) = _
  refine (decodeWord_scalar u (by rw [opOf_encR]; decide)).trans ?_
  delta decodeScalar; rw [opOf_encR, fnOf_encR]
  exact decDAB_enc (dOpt_enc d (by decide)) _ _ _

theorem ceq (u : SU) (d : Option (Fin 64)) (a : Src) (b : Src) : Statement (.ceq u d a b) := by
  refine statement_of rfl rfl (by rw [show encode _ = encR 5#6 (encOpt d) 0#3 (encSrc b) (encSrc a) from rfl, opOf_encR]; decide) ?_
  change decodeWord _ (encR 5#6 (encOpt d) 0#3 (encSrc b) (encSrc a)) = _
  refine (decodeWord_scalar u (by rw [opOf_encR]; decide)).trans ?_
  delta decodeScalar; rw [opOf_encR, fnOf_encR]
  exact decDAB_enc (dOpt_enc d (by decide)) _ _ _

theorem cne (u : SU) (d : Option (Fin 64)) (a : Src) (b : Src) : Statement (.cne u d a b) := by
  refine statement_of rfl rfl (by rw [show encode _ = encR 5#6 (encOpt d) 1#3 (encSrc b) (encSrc a) from rfl, opOf_encR]; decide) ?_
  change decodeWord _ (encR 5#6 (encOpt d) 1#3 (encSrc b) (encSrc a)) = _
  refine (decodeWord_scalar u (by rw [opOf_encR]; decide)).trans ?_
  delta decodeScalar; rw [opOf_encR, fnOf_encR]
  exact decDAB_enc (dOpt_enc d (by decide)) _ _ _

theorem cltI64 (u : SU) (d : Option (Fin 64)) (a : Src) (b : Src) : Statement (.cltI64 u d a b) := by
  refine statement_of rfl rfl (by rw [show encode _ = encR 5#6 (encOpt d) 2#3 (encSrc b) (encSrc a) from rfl, opOf_encR]; decide) ?_
  change decodeWord _ (encR 5#6 (encOpt d) 2#3 (encSrc b) (encSrc a)) = _
  refine (decodeWord_scalar u (by rw [opOf_encR]; decide)).trans ?_
  delta decodeScalar; rw [opOf_encR, fnOf_encR]
  exact decDAB_enc (dOpt_enc d (by decide)) _ _ _

theorem cleI64 (u : SU) (d : Option (Fin 64)) (a : Src) (b : Src) : Statement (.cleI64 u d a b) := by
  refine statement_of rfl rfl (by rw [show encode _ = encR 5#6 (encOpt d) 3#3 (encSrc b) (encSrc a) from rfl, opOf_encR]; decide) ?_
  change decodeWord _ (encR 5#6 (encOpt d) 3#3 (encSrc b) (encSrc a)) = _
  refine (decodeWord_scalar u (by rw [opOf_encR]; decide)).trans ?_
  delta decodeScalar; rw [opOf_encR, fnOf_encR]
  exact decDAB_enc (dOpt_enc d (by decide)) _ _ _

theorem cltZ64 (u : SU) (d : Option (Fin 64)) (a : Src) (b : Src) : Statement (.cltZ64 u d a b) := by
  refine statement_of rfl rfl (by rw [show encode _ = encR 5#6 (encOpt d) 4#3 (encSrc b) (encSrc a) from rfl, opOf_encR]; decide) ?_
  change decodeWord _ (encR 5#6 (encOpt d) 4#3 (encSrc b) (encSrc a)) = _
  refine (decodeWord_scalar u (by rw [opOf_encR]; decide)).trans ?_
  delta decodeScalar; rw [opOf_encR, fnOf_encR]
  exact decDAB_enc (dOpt_enc d (by decide)) _ _ _

theorem cleZ64 (u : SU) (d : Option (Fin 64)) (a : Src) (b : Src) : Statement (.cleZ64 u d a b) := by
  refine statement_of rfl rfl (by rw [show encode _ = encR 5#6 (encOpt d) 5#3 (encSrc b) (encSrc a) from rfl, opOf_encR]; decide) ?_
  change decodeWord _ (encR 5#6 (encOpt d) 5#3 (encSrc b) (encSrc a)) = _
  refine (decodeWord_scalar u (by rw [opOf_encR]; decide)).trans ?_
  delta decodeScalar; rw [opOf_encR, fnOf_encR]
  exact decDAB_enc (dOpt_enc d (by decide)) _ _ _

theorem mul (u : SU) (d : Option (Fin 64)) (a : Src) (b : Src) : Statement (.mul u d a b) := by
  refine statement_of rfl rfl (by rw [show encode _ = encR 6#6 (encOpt d) 0#3 (encSrc b) (encSrc a) from rfl, opOf_encR]; decide) ?_
  change decodeWord _ (encR 6#6 (encOpt d) 0#3 (encSrc b) (encSrc a)) = _
  refine (decodeWord_scalar u (by rw [opOf_encR]; decide)).trans ?_
  delta decodeScalar; rw [opOf_encR, fnOf_encR]
  exact decDAB_enc (dOpt_enc d (by decide)) _ _ _

theorem mulhI64 (u : SU) (d : Option (Fin 64)) (a : Src) (b : Src) : Statement (.mulhI64 u d a b) := by
  refine statement_of rfl rfl (by rw [show encode _ = encR 6#6 (encOpt d) 1#3 (encSrc b) (encSrc a) from rfl, opOf_encR]; decide) ?_
  change decodeWord _ (encR 6#6 (encOpt d) 1#3 (encSrc b) (encSrc a)) = _
  refine (decodeWord_scalar u (by rw [opOf_encR]; decide)).trans ?_
  delta decodeScalar; rw [opOf_encR, fnOf_encR]
  exact decDAB_enc (dOpt_enc d (by decide)) _ _ _

theorem mulhZ64 (u : SU) (d : Option (Fin 64)) (a : Src) (b : Src) : Statement (.mulhZ64 u d a b) := by
  refine statement_of rfl rfl (by rw [show encode _ = encR 6#6 (encOpt d) 2#3 (encSrc b) (encSrc a) from rfl, opOf_encR]; decide) ?_
  change decodeWord _ (encR 6#6 (encOpt d) 2#3 (encSrc b) (encSrc a)) = _
  refine (decodeWord_scalar u (by rw [opOf_encR]; decide)).trans ?_
  delta decodeScalar; rw [opOf_encR, fnOf_encR]
  exact decDAB_enc (dOpt_enc d (by decide)) _ _ _

theorem divI64 (u : SU) (d : Option (Fin 64)) (a : Src) (b : Src) : Statement (.divI64 u d a b) := by
  refine statement_of rfl rfl (by rw [show encode _ = encR 7#6 (encOpt d) 0#3 (encSrc b) (encSrc a) from rfl, opOf_encR]; decide) ?_
  change decodeWord _ (encR 7#6 (encOpt d) 0#3 (encSrc b) (encSrc a)) = _
  refine (decodeWord_scalar u (by rw [opOf_encR]; decide)).trans ?_
  delta decodeScalar; rw [opOf_encR, fnOf_encR]
  exact decDAB_enc (dOpt_enc d (by decide)) _ _ _

theorem divZ64 (u : SU) (d : Option (Fin 64)) (a : Src) (b : Src) : Statement (.divZ64 u d a b) := by
  refine statement_of rfl rfl (by rw [show encode _ = encR 7#6 (encOpt d) 1#3 (encSrc b) (encSrc a) from rfl, opOf_encR]; decide) ?_
  change decodeWord _ (encR 7#6 (encOpt d) 1#3 (encSrc b) (encSrc a)) = _
  refine (decodeWord_scalar u (by rw [opOf_encR]; decide)).trans ?_
  delta decodeScalar; rw [opOf_encR, fnOf_encR]
  exact decDAB_enc (dOpt_enc d (by decide)) _ _ _

theorem remI64 (u : SU) (d : Option (Fin 64)) (a : Src) (b : Src) : Statement (.remI64 u d a b) := by
  refine statement_of rfl rfl (by rw [show encode _ = encR 7#6 (encOpt d) 2#3 (encSrc b) (encSrc a) from rfl, opOf_encR]; decide) ?_
  change decodeWord _ (encR 7#6 (encOpt d) 2#3 (encSrc b) (encSrc a)) = _
  refine (decodeWord_scalar u (by rw [opOf_encR]; decide)).trans ?_
  delta decodeScalar; rw [opOf_encR, fnOf_encR]
  exact decDAB_enc (dOpt_enc d (by decide)) _ _ _

theorem remZ64 (u : SU) (d : Option (Fin 64)) (a : Src) (b : Src) : Statement (.remZ64 u d a b) := by
  refine statement_of rfl rfl (by rw [show encode _ = encR 7#6 (encOpt d) 3#3 (encSrc b) (encSrc a) from rfl, opOf_encR]; decide) ?_
  change decodeWord _ (encR 7#6 (encOpt d) 3#3 (encSrc b) (encSrc a)) = _
  refine (decodeWord_scalar u (by rw [opOf_encR]; decide)).trans ?_
  delta decodeScalar; rw [opOf_encR, fnOf_encR]
  exact decDAB_enc (dOpt_enc d (by decide)) _ _ _

theorem divI32 (u : SU) (d : Option (Fin 64)) (a : Src) (b : Src) : Statement (.divI32 u d a b) := by
  refine statement_of rfl rfl (by rw [show encode _ = encR 7#6 (encOpt d) 4#3 (encSrc b) (encSrc a) from rfl, opOf_encR]; decide) ?_
  change decodeWord _ (encR 7#6 (encOpt d) 4#3 (encSrc b) (encSrc a)) = _
  refine (decodeWord_scalar u (by rw [opOf_encR]; decide)).trans ?_
  delta decodeScalar; rw [opOf_encR, fnOf_encR]
  exact decDAB_enc (dOpt_enc d (by decide)) _ _ _

theorem divZ32 (u : SU) (d : Option (Fin 64)) (a : Src) (b : Src) : Statement (.divZ32 u d a b) := by
  refine statement_of rfl rfl (by rw [show encode _ = encR 7#6 (encOpt d) 5#3 (encSrc b) (encSrc a) from rfl, opOf_encR]; decide) ?_
  change decodeWord _ (encR 7#6 (encOpt d) 5#3 (encSrc b) (encSrc a)) = _
  refine (decodeWord_scalar u (by rw [opOf_encR]; decide)).trans ?_
  delta decodeScalar; rw [opOf_encR, fnOf_encR]
  exact decDAB_enc (dOpt_enc d (by decide)) _ _ _

theorem remI32 (u : SU) (d : Option (Fin 64)) (a : Src) (b : Src) : Statement (.remI32 u d a b) := by
  refine statement_of rfl rfl (by rw [show encode _ = encR 7#6 (encOpt d) 6#3 (encSrc b) (encSrc a) from rfl, opOf_encR]; decide) ?_
  change decodeWord _ (encR 7#6 (encOpt d) 6#3 (encSrc b) (encSrc a)) = _
  refine (decodeWord_scalar u (by rw [opOf_encR]; decide)).trans ?_
  delta decodeScalar; rw [opOf_encR, fnOf_encR]
  exact decDAB_enc (dOpt_enc d (by decide)) _ _ _

theorem remZ32 (u : SU) (d : Option (Fin 64)) (a : Src) (b : Src) : Statement (.remZ32 u d a b) := by
  refine statement_of rfl rfl (by rw [show encode _ = encR 7#6 (encOpt d) 7#3 (encSrc b) (encSrc a) from rfl, opOf_encR]; decide) ?_
  change decodeWord _ (encR 7#6 (encOpt d) 7#3 (encSrc b) (encSrc a)) = _
  refine (decodeWord_scalar u (by rw [opOf_encR]; decide)).trans ?_
  delta decodeScalar; rw [opOf_encR, fnOf_encR]
  exact decDAB_enc (dOpt_enc d (by decide)) _ _ _

theorem li (u : SU) (d : Fin 64) (imm : BitVec 16) : Statement (.li u d imm) := by
  refine statement_of rfl rfl (by rw [show encode _ = encI 8#6 (encFin 7 d) 0#3 imm from rfl, opOf_encI]; decide) ?_
  change decodeWord _ (encI 8#6 (encFin 7 d) 0#3 imm) = _
  refine (decodeWord_scalar u (by rw [opOf_encI]; decide)).trans ?_
  delta decodeScalar; rw [opOf_encI, fnOf_encI, dstOf_encI, immOf_encI]
  rw [dRes_enc d (by decide)]; rfl

theorem lis (u : SU) (d : Fin 64) (k : Fin 3) (imm : BitVec 16) : Statement (.lis u d k imm) := by
  refine statement_of rfl rfl (by rw [show encode _ = encI 8#6 (encFin 7 d) (encFin 3 k.succ) imm from rfl, opOf_encI]; decide) ?_
  change decodeWord _ (encI 8#6 (encFin 7 d) (encFin 3 k.succ) imm) = _
  refine (decodeWord_scalar u (by rw [opOf_encI]; decide)).trans ?_
  delta decodeScalar; rw [opOf_encI, fnOf_encI, dstOf_encI, immOf_encI]
  cases k using Fin.cases with
  | zero => rw [dRes_enc d (by decide)]; rfl
  | succ k => cases k using Fin.cases with
    | zero => rw [dRes_enc d (by decide)]; rfl
    | succ k => obtain rfl : k = 0 := Fin.ext (by omega)
                rw [dRes_enc d (by decide)]; rfl

theorem addi (u : SU) (d : Fin 64) (imm : BitVec 16) : Statement (.addi u d imm) := by
  refine statement_of rfl rfl (by rw [show encode _ = encI 8#6 (encFin 7 d) 4#3 imm from rfl, opOf_encI]; decide) ?_
  change decodeWord _ (encI 8#6 (encFin 7 d) 4#3 imm) = _
  refine (decodeWord_scalar u (by rw [opOf_encI]; decide)).trans ?_
  delta decodeScalar; rw [opOf_encI, fnOf_encI, dstOf_encI, immOf_encI]
  rw [dRes_enc d (by decide)]; rfl

theorem andi (u : SU) (d : Fin 64) (imm : BitVec 16) : Statement (.andi u d imm) := by
  refine statement_of rfl rfl (by rw [show encode _ = encI 8#6 (encFin 7 d) 5#3 imm from rfl, opOf_encI]; decide) ?_
  change decodeWord _ (encI 8#6 (encFin 7 d) 5#3 imm) = _
  refine (decodeWord_scalar u (by rw [opOf_encI]; decide)).trans ?_
  delta decodeScalar; rw [opOf_encI, fnOf_encI, dstOf_encI, immOf_encI]
  rw [dRes_enc d (by decide)]; rfl

theorem mov (u : SU) (d : Option (Fin 64)) (a : Src) : Statement (.mov u d a) := by
  refine statement_of rfl rfl (by rw [show encode _ = encR 9#6 (encOpt d) 0#3 0#8 (encSrc a) from rfl, opOf_encR]; decide) ?_
  change decodeWord _ (encR 9#6 (encOpt d) 0#3 0#8 (encSrc a)) = _
  refine (decodeWord_scalar u (by rw [opOf_encR]; decide)).trans ?_
  delta decodeScalar; rw [opOf_encR, fnOf_encR]
  exact decDA_enc (dOpt_enc d (by decide)) _ _

theorem clz (u : SU) (d : Option (Fin 64)) (a : Src) : Statement (.clz u d a) := by
  refine statement_of rfl rfl (by rw [show encode _ = encR 9#6 (encOpt d) 1#3 0#8 (encSrc a) from rfl, opOf_encR]; decide) ?_
  change decodeWord _ (encR 9#6 (encOpt d) 1#3 0#8 (encSrc a)) = _
  refine (decodeWord_scalar u (by rw [opOf_encR]; decide)).trans ?_
  delta decodeScalar; rw [opOf_encR, fnOf_encR]
  exact decDA_enc (dOpt_enc d (by decide)) _ _

theorem ctz (u : SU) (d : Option (Fin 64)) (a : Src) : Statement (.ctz u d a) := by
  refine statement_of rfl rfl (by rw [show encode _ = encR 9#6 (encOpt d) 2#3 0#8 (encSrc a) from rfl, opOf_encR]; decide) ?_
  change decodeWord _ (encR 9#6 (encOpt d) 2#3 0#8 (encSrc a)) = _
  refine (decodeWord_scalar u (by rw [opOf_encR]; decide)).trans ?_
  delta decodeScalar; rw [opOf_encR, fnOf_encR]
  exact decDA_enc (dOpt_enc d (by decide)) _ _

theorem popc (u : SU) (d : Option (Fin 64)) (a : Src) : Statement (.popc u d a) := by
  refine statement_of rfl rfl (by rw [show encode _ = encR 9#6 (encOpt d) 3#3 0#8 (encSrc a) from rfl, opOf_encR]; decide) ?_
  change decodeWord _ (encR 9#6 (encOpt d) 3#3 0#8 (encSrc a)) = _
  refine (decodeWord_scalar u (by rw [opOf_encR]; decide)).trans ?_
  delta decodeScalar; rw [opOf_encR, fnOf_encR]
  exact decDA_enc (dOpt_enc d (by decide)) _ _

theorem sext (u : SU) (d : Option (Fin 64)) (a : Src) (b : Src) : Statement (.sext u d a b) := by
  refine statement_of rfl rfl (by rw [show encode _ = encR 9#6 (encOpt d) 4#3 (encSrc b) (encSrc a) from rfl, opOf_encR]; decide) ?_
  change decodeWord _ (encR 9#6 (encOpt d) 4#3 (encSrc b) (encSrc a)) = _
  refine (decodeWord_scalar u (by rw [opOf_encR]; decide)).trans ?_
  delta decodeScalar; rw [opOf_encR, fnOf_encR]
  exact decDAB_enc (dOpt_enc d (by decide)) _ _ _

theorem zext (u : SU) (d : Option (Fin 64)) (a : Src) (b : Src) : Statement (.zext u d a b) := by
  refine statement_of rfl rfl (by rw [show encode _ = encR 9#6 (encOpt d) 5#3 (encSrc b) (encSrc a) from rfl, opOf_encR]; decide) ?_
  change decodeWord _ (encR 9#6 (encOpt d) 5#3 (encSrc b) (encSrc a)) = _
  refine (decodeWord_scalar u (by rw [opOf_encR]; decide)).trans ?_
  delta decodeScalar; rw [opOf_encR, fnOf_encR]
  exact decDAB_enc (dOpt_enc d (by decide)) _ _ _

theorem cder (u : SU) (d : Option (Fin 16)) (a : Src) (b : Src) : Statement (.cder u d a b) := by
  refine statement_of rfl rfl (by rw [show encode _ = encR 10#6 (encOpt d) 0#3 (encSrc b) (encSrc a) from rfl, opOf_encR]; decide) ?_
  change decodeWord _ (encR 10#6 (encOpt d) 0#3 (encSrc b) (encSrc a)) = _
  refine (decodeWord_scalar u (by rw [opOf_encR]; decide)).trans ?_
  delta decodeScalar; rw [opOf_encR, fnOf_encR]
  exact decDAB_enc (dOpt_enc d (by decide)) _ _ _

theorem cbnd (u : SU) (d : Option (Fin 16)) (a : Src) (b : Src) : Statement (.cbnd u d a b) := by
  refine statement_of rfl rfl (by rw [show encode _ = encR 10#6 (encOpt d) 1#3 (encSrc b) (encSrc a) from rfl, opOf_encR]; decide) ?_
  change decodeWord _ (encR 10#6 (encOpt d) 1#3 (encSrc b) (encSrc a)) = _
  refine (decodeWord_scalar u (by rw [opOf_encR]; decide)).trans ?_
  delta decodeScalar; rw [opOf_encR, fnOf_encR]
  exact decDAB_enc (dOpt_enc d (by decide)) _ _ _

theorem csetoff (u : SU) (d : Option (Fin 16)) (a : Src) (b : Src) : Statement (.csetoff u d a b) := by
  refine statement_of rfl rfl (by rw [show encode _ = encR 10#6 (encOpt d) 2#3 (encSrc b) (encSrc a) from rfl, opOf_encR]; decide) ?_
  change decodeWord _ (encR 10#6 (encOpt d) 2#3 (encSrc b) (encSrc a)) = _
  refine (decodeWord_scalar u (by rw [opOf_encR]; decide)).trans ?_
  delta decodeScalar; rw [opOf_encR, fnOf_encR]
  exact decDAB_enc (dOpt_enc d (by decide)) _ _ _

theorem caddoff (u : SU) (d : Option (Fin 16)) (a : Src) (b : Src) : Statement (.caddoff u d a b) := by
  refine statement_of rfl rfl (by rw [show encode _ = encR 10#6 (encOpt d) 3#3 (encSrc b) (encSrc a) from rfl, opOf_encR]; decide) ?_
  change decodeWord _ (encR 10#6 (encOpt d) 3#3 (encSrc b) (encSrc a)) = _
  refine (decodeWord_scalar u (by rw [opOf_encR]; decide)).trans ?_
  delta decodeScalar; rw [opOf_encR, fnOf_encR]
  exact decDAB_enc (dOpt_enc d (by decide)) _ _ _

theorem cmov (u : SU) (d : Option (Fin 16)) (a : Src) : Statement (.cmov u d a) := by
  refine statement_of rfl rfl (by rw [show encode _ = encR 10#6 (encOpt d) 4#3 0#8 (encSrc a) from rfl, opOf_encR]; decide) ?_
  change decodeWord _ (encR 10#6 (encOpt d) 4#3 0#8 (encSrc a)) = _
  refine (decodeWord_scalar u (by rw [opOf_encR]; decide)).trans ?_
  delta decodeScalar; rw [opOf_encR, fnOf_encR]
  exact decDA_enc (dOpt_enc d (by decide)) _ _

theorem cchk (u : SU) (d : Option (Fin 64)) (a : Src) (b : Src) : Statement (.cchk u d a b) := by
  refine statement_of rfl rfl (by rw [show encode _ = encR 10#6 (encOpt d) 5#3 (encSrc b) (encSrc a) from rfl, opOf_encR]; decide) ?_
  change decodeWord _ (encR 10#6 (encOpt d) 5#3 (encSrc b) (encSrc a)) = _
  refine (decodeWord_scalar u (by rw [opOf_encR]; decide)).trans ?_
  delta decodeScalar; rw [opOf_encR, fnOf_encR]
  exact decDAB_enc (dOpt_enc d (by decide)) _ _ _

theorem cget (u : SU) (d : Option (Fin 64)) (a : Src) (b : Src) : Statement (.cget u d a b) := by
  refine statement_of rfl rfl (by rw [show encode _ = encR 10#6 (encOpt d) 6#3 (encSrc b) (encSrc a) from rfl, opOf_encR]; decide) ?_
  change decodeWord _ (encR 10#6 (encOpt d) 6#3 (encSrc b) (encSrc a)) = _
  refine (decodeWord_scalar u (by rw [opOf_encR]; decide)).trans ?_
  delta decodeScalar; rw [opOf_encR, fnOf_encR]
  exact decDAB_enc (dOpt_enc d (by decide)) _ _ _

theorem shld (u : SU) (d : Option (Fin 16)) (a : Src) (b : Src) : Statement (.shld u d a b) := by
  refine statement_of rfl rfl (by rw [show encode _ = encR 11#6 (encOpt d) 0#3 (encSrc b) (encSrc a) from rfl, opOf_encR]; decide) ?_
  change decodeWord _ (encR 11#6 (encOpt d) 0#3 (encSrc b) (encSrc a)) = _
  refine (decodeWord_scalar u (by rw [opOf_encR]; decide)).trans ?_
  delta decodeScalar; rw [opOf_encR, fnOf_encR]
  exact decDAB_enc (dOpt_enc d (by decide)) _ _ _

theorem shldImg (u : SU) (d : Option (Fin 16)) (b : Src) : Statement (.shldImg u d b) := by
  refine statement_of rfl rfl (by rw [show encode _ = encR 11#6 (encOpt d) 1#3 (encSrc b) 0#8 from rfl, opOf_encR]; decide) ?_
  change decodeWord _ (encR 11#6 (encOpt d) 1#3 (encSrc b) 0#8) = _
  refine (decodeWord_scalar u (by rw [opOf_encR]; decide)).trans ?_
  delta decodeScalar; rw [opOf_encR, fnOf_encR]
  exact decDB_enc (dOpt_enc d (by decide)) _ _

theorem shset (u : SU) (d : Fin 16) (a : Src) (b : Src) : Statement (.shset u d a b) := by
  refine statement_of rfl rfl (by rw [show encode _ = encR 11#6 (encFin 7 d) 2#3 (encSrc b) (encSrc a) from rfl, opOf_encR]; decide) ?_
  change decodeWord _ (encR 11#6 (encFin 7 d) 2#3 (encSrc b) (encSrc a)) = _
  refine (decodeWord_scalar u (by rw [opOf_encR]; decide)).trans ?_
  delta decodeScalar; rw [opOf_encR, fnOf_encR]
  exact decDAB_enc (dRes_enc d (by decide)) _ _ _

theorem shget (u : SU) (d : Option (Fin 64)) (a : Src) (b : Src) : Statement (.shget u d a b) := by
  refine statement_of rfl rfl (by rw [show encode _ = encR 11#6 (encOpt d) 3#3 (encSrc b) (encSrc a) from rfl, opOf_encR]; decide) ?_
  change decodeWord _ (encR 11#6 (encOpt d) 3#3 (encSrc b) (encSrc a)) = _
  refine (decodeWord_scalar u (by rw [opOf_encR]; decide)).trans ?_
  delta decodeScalar; rw [opOf_encR, fnOf_encR]
  exact decDAB_enc (dOpt_enc d (by decide)) _ _ _

theorem pand (u : SU) (d : Option (Fin 24)) (a : Src) (b : Src) : Statement (.pand u d a b) := by
  refine statement_of rfl rfl (by rw [show encode _ = encR 12#6 (encOpt d) 0#3 (encSrc b) (encSrc a) from rfl, opOf_encR]; decide) ?_
  change decodeWord _ (encR 12#6 (encOpt d) 0#3 (encSrc b) (encSrc a)) = _
  refine (decodeWord_scalar u (by rw [opOf_encR]; decide)).trans ?_
  delta decodeScalar; rw [opOf_encR, fnOf_encR]
  exact decDAB_enc (dOpt_enc d (by decide)) _ _ _

theorem por (u : SU) (d : Option (Fin 24)) (a : Src) (b : Src) : Statement (.por u d a b) := by
  refine statement_of rfl rfl (by rw [show encode _ = encR 12#6 (encOpt d) 1#3 (encSrc b) (encSrc a) from rfl, opOf_encR]; decide) ?_
  change decodeWord _ (encR 12#6 (encOpt d) 1#3 (encSrc b) (encSrc a)) = _
  refine (decodeWord_scalar u (by rw [opOf_encR]; decide)).trans ?_
  delta decodeScalar; rw [opOf_encR, fnOf_encR]
  exact decDAB_enc (dOpt_enc d (by decide)) _ _ _

theorem pxor (u : SU) (d : Option (Fin 24)) (a : Src) (b : Src) : Statement (.pxor u d a b) := by
  refine statement_of rfl rfl (by rw [show encode _ = encR 12#6 (encOpt d) 2#3 (encSrc b) (encSrc a) from rfl, opOf_encR]; decide) ?_
  change decodeWord _ (encR 12#6 (encOpt d) 2#3 (encSrc b) (encSrc a)) = _
  refine (decodeWord_scalar u (by rw [opOf_encR]; decide)).trans ?_
  delta decodeScalar; rw [opOf_encR, fnOf_encR]
  exact decDAB_enc (dOpt_enc d (by decide)) _ _ _

theorem pandn (u : SU) (d : Option (Fin 24)) (a : Src) (b : Src) : Statement (.pandn u d a b) := by
  refine statement_of rfl rfl (by rw [show encode _ = encR 12#6 (encOpt d) 3#3 (encSrc b) (encSrc a) from rfl, opOf_encR]; decide) ?_
  change decodeWord _ (encR 12#6 (encOpt d) 3#3 (encSrc b) (encSrc a)) = _
  refine (decodeWord_scalar u (by rw [opOf_encR]; decide)).trans ?_
  delta decodeScalar; rw [opOf_encR, fnOf_encR]
  exact decDAB_enc (dOpt_enc d (by decide)) _ _ _

theorem pnot (u : SU) (d : Option (Fin 24)) (a : Src) : Statement (.pnot u d a) := by
  refine statement_of rfl rfl (by rw [show encode _ = encR 12#6 (encOpt d) 4#3 0#8 (encSrc a) from rfl, opOf_encR]; decide) ?_
  change decodeWord _ (encR 12#6 (encOpt d) 4#3 0#8 (encSrc a)) = _
  refine (decodeWord_scalar u (by rw [opOf_encR]; decide)).trans ?_
  delta decodeScalar; rw [opOf_encR, fnOf_encR]
  exact decDA_enc (dOpt_enc d (by decide)) _ _

theorem pmov (u : SU) (d : Option (Fin 24)) (a : Src) : Statement (.pmov u d a) := by
  refine statement_of rfl rfl (by rw [show encode _ = encR 12#6 (encOpt d) 5#3 0#8 (encSrc a) from rfl, opOf_encR]; decide) ?_
  change decodeWord _ (encR 12#6 (encOpt d) 5#3 0#8 (encSrc a)) = _
  refine (decodeWord_scalar u (by rw [opOf_encR]; decide)).trans ?_
  delta decodeScalar; rw [opOf_encR, fnOf_encR]
  exact decDA_enc (dOpt_enc d (by decide)) _ _

theorem pset (u : SU) (d : Option (Fin 24)) (a : Src) : Statement (.pset u d a) := by
  refine statement_of rfl rfl (by rw [show encode _ = encR 13#6 (encOpt d) 0#3 0#8 (encSrc a) from rfl, opOf_encR]; decide) ?_
  change decodeWord _ (encR 13#6 (encOpt d) 0#3 0#8 (encSrc a)) = _
  refine (decodeWord_scalar u (by rw [opOf_encR]; decide)).trans ?_
  delta decodeScalar; rw [opOf_encR, fnOf_encR]
  exact decDA_enc (dOpt_enc d (by decide)) _ _

theorem pany (u : SU) (d : Option (Fin 64)) (a : Src) : Statement (.pany u d a) := by
  refine statement_of rfl rfl (by rw [show encode _ = encR 13#6 (encOpt d) 1#3 0#8 (encSrc a) from rfl, opOf_encR]; decide) ?_
  change decodeWord _ (encR 13#6 (encOpt d) 1#3 0#8 (encSrc a)) = _
  refine (decodeWord_scalar u (by rw [opOf_encR]; decide)).trans ?_
  delta decodeScalar; rw [opOf_encR, fnOf_encR]
  exact decDA_enc (dOpt_enc d (by decide)) _ _

theorem pcnt (u : SU) (d : Option (Fin 64)) (a : Src) : Statement (.pcnt u d a) := by
  refine statement_of rfl rfl (by rw [show encode _ = encR 13#6 (encOpt d) 2#3 0#8 (encSrc a) from rfl, opOf_encR]; decide) ?_
  change decodeWord _ (encR 13#6 (encOpt d) 2#3 0#8 (encSrc a)) = _
  refine (decodeWord_scalar u (by rw [opOf_encR]; decide)).trans ?_
  delta decodeScalar; rw [opOf_encR, fnOf_encR]
  exact decDA_enc (dOpt_enc d (by decide)) _ _

theorem rdsr (u : SU) (d : Option (Fin 64)) (b : Src) : Statement (.rdsr u d b) := by
  refine statement_of rfl rfl (by rw [show encode _ = encR 14#6 (encOpt d) 0#3 (encSrc b) 0#8 from rfl, opOf_encR]; decide) ?_
  change decodeWord _ (encR 14#6 (encOpt d) 0#3 (encSrc b) 0#8) = _
  refine (decodeWord_scalar u (by rw [opOf_encR]; decide)).trans ?_
  delta decodeScalar; rw [opOf_encR, fnOf_encR]
  exact decDB_enc (dOpt_enc d (by decide)) _ _

theorem wrsr (u : SU) (a : Src) (b : Src) : Statement (.wrsr u a b) := by
  refine statement_of rfl rfl (by rw [show encode _ = encR 14#6 0#7 1#3 (encSrc b) (encSrc a) from rfl, opOf_encR]; decide) ?_
  change decodeWord _ (encR 14#6 0#7 1#3 (encSrc b) (encSrc a)) = _
  refine (decodeWord_scalar u (by rw [opOf_encR]; decide)).trans ?_
  delta decodeScalar; rw [opOf_encR, fnOf_encR]
  exact decAB_enc _ _ _

theorem bfrd (u : SU) (d : Option (Fin 64)) (b : Src) : Statement (.bfrd u d b) := by
  refine statement_of rfl rfl (by rw [show encode _ = encR 15#6 (encOpt d) 0#3 (encSrc b) 0#8 from rfl, opOf_encR]; decide) ?_
  change decodeWord _ (encR 15#6 (encOpt d) 0#3 (encSrc b) 0#8) = _
  refine (decodeWord_scalar u (by rw [opOf_encR]; decide)).trans ?_
  delta decodeScalar; rw [opOf_encR, fnOf_encR]
  exact decDB_enc (dOpt_enc d (by decide)) _ _

theorem bfwr (u : SU) (a : Src) (b : Src) : Statement (.bfwr u a b) := by
  refine statement_of rfl rfl (by rw [show encode _ = encR 15#6 0#7 1#3 (encSrc b) (encSrc a) from rfl, opOf_encR]; decide) ?_
  change decodeWord _ (encR 15#6 0#7 1#3 (encSrc b) (encSrc a)) = _
  refine (decodeWord_scalar u (by rw [opOf_encR]; decide)).trans ?_
  delta decodeScalar; rw [opOf_encR, fnOf_encR]
  exact decAB_enc _ _ _

theorem ldZ8 (u : SU) (d : Option (Fin 64)) (a : Src) (b : Src) : Statement (.ldZ8 u d a b) := by
  refine statement_of rfl rfl (by rw [show encode _ = encR 16#6 (encOpt d) 0#3 (encSrc b) (encSrc a) from rfl, opOf_encR]; decide) ?_
  change decodeWord _ (encR 16#6 (encOpt d) 0#3 (encSrc b) (encSrc a)) = _
  refine (decodeWord_scalar u (by rw [opOf_encR]; decide)).trans ?_
  delta decodeScalar; rw [opOf_encR, fnOf_encR]
  exact decDAB_enc (dOpt_enc d (by decide)) _ _ _

theorem ldZ16 (u : SU) (d : Option (Fin 64)) (a : Src) (b : Src) : Statement (.ldZ16 u d a b) := by
  refine statement_of rfl rfl (by rw [show encode _ = encR 16#6 (encOpt d) 1#3 (encSrc b) (encSrc a) from rfl, opOf_encR]; decide) ?_
  change decodeWord _ (encR 16#6 (encOpt d) 1#3 (encSrc b) (encSrc a)) = _
  refine (decodeWord_scalar u (by rw [opOf_encR]; decide)).trans ?_
  delta decodeScalar; rw [opOf_encR, fnOf_encR]
  exact decDAB_enc (dOpt_enc d (by decide)) _ _ _

theorem ldZ32 (u : SU) (d : Option (Fin 64)) (a : Src) (b : Src) : Statement (.ldZ32 u d a b) := by
  refine statement_of rfl rfl (by rw [show encode _ = encR 16#6 (encOpt d) 2#3 (encSrc b) (encSrc a) from rfl, opOf_encR]; decide) ?_
  change decodeWord _ (encR 16#6 (encOpt d) 2#3 (encSrc b) (encSrc a)) = _
  refine (decodeWord_scalar u (by rw [opOf_encR]; decide)).trans ?_
  delta decodeScalar; rw [opOf_encR, fnOf_encR]
  exact decDAB_enc (dOpt_enc d (by decide)) _ _ _

theorem ldI8 (u : SU) (d : Option (Fin 64)) (a : Src) (b : Src) : Statement (.ldI8 u d a b) := by
  refine statement_of rfl rfl (by rw [show encode _ = encR 16#6 (encOpt d) 3#3 (encSrc b) (encSrc a) from rfl, opOf_encR]; decide) ?_
  change decodeWord _ (encR 16#6 (encOpt d) 3#3 (encSrc b) (encSrc a)) = _
  refine (decodeWord_scalar u (by rw [opOf_encR]; decide)).trans ?_
  delta decodeScalar; rw [opOf_encR, fnOf_encR]
  exact decDAB_enc (dOpt_enc d (by decide)) _ _ _

theorem ldI16 (u : SU) (d : Option (Fin 64)) (a : Src) (b : Src) : Statement (.ldI16 u d a b) := by
  refine statement_of rfl rfl (by rw [show encode _ = encR 16#6 (encOpt d) 4#3 (encSrc b) (encSrc a) from rfl, opOf_encR]; decide) ?_
  change decodeWord _ (encR 16#6 (encOpt d) 4#3 (encSrc b) (encSrc a)) = _
  refine (decodeWord_scalar u (by rw [opOf_encR]; decide)).trans ?_
  delta decodeScalar; rw [opOf_encR, fnOf_encR]
  exact decDAB_enc (dOpt_enc d (by decide)) _ _ _

theorem ldI32 (u : SU) (d : Option (Fin 64)) (a : Src) (b : Src) : Statement (.ldI32 u d a b) := by
  refine statement_of rfl rfl (by rw [show encode _ = encR 16#6 (encOpt d) 5#3 (encSrc b) (encSrc a) from rfl, opOf_encR]; decide) ?_
  change decodeWord _ (encR 16#6 (encOpt d) 5#3 (encSrc b) (encSrc a)) = _
  refine (decodeWord_scalar u (by rw [opOf_encR]; decide)).trans ?_
  delta decodeScalar; rw [opOf_encR, fnOf_encR]
  exact decDAB_enc (dOpt_enc d (by decide)) _ _ _

theorem ldI64 (u : SU) (d : Option (Fin 64)) (a : Src) (b : Src) : Statement (.ldI64 u d a b) := by
  refine statement_of rfl rfl (by rw [show encode _ = encR 16#6 (encOpt d) 6#3 (encSrc b) (encSrc a) from rfl, opOf_encR]; decide) ?_
  change decodeWord _ (encR 16#6 (encOpt d) 6#3 (encSrc b) (encSrc a)) = _
  refine (decodeWord_scalar u (by rw [opOf_encR]; decide)).trans ?_
  delta decodeScalar; rw [opOf_encR, fnOf_encR]
  exact decDAB_enc (dOpt_enc d (by decide)) _ _ _

theorem ldC128 (u : SU) (d : Option (Fin 16)) (a : Src) (b : Src) : Statement (.ldC128 u d a b) := by
  refine statement_of rfl rfl (by rw [show encode _ = encR 16#6 (encOpt d) 7#3 (encSrc b) (encSrc a) from rfl, opOf_encR]; decide) ?_
  change decodeWord _ (encR 16#6 (encOpt d) 7#3 (encSrc b) (encSrc a)) = _
  refine (decodeWord_scalar u (by rw [opOf_encR]; decide)).trans ?_
  delta decodeScalar; rw [opOf_encR, fnOf_encR]
  exact decDAB_enc (dOpt_enc d (by decide)) _ _ _

theorem ldNr (u : SU) (d : Option (Fin 64)) (p : Fin 8) (a : Src) (b : Src) : Statement (.ldNr u d p a b) := by
  refine statement_of rfl rfl (by rw [show encode _ = encR 17#6 (encOpt d) (encFin 3 p) (encSrc b) (encSrc a) from rfl, opOf_encR]; decide) ?_
  change decodeWord _ (encR 17#6 (encOpt d) (encFin 3 p) (encSrc b) (encSrc a)) = _
  refine (decodeWord_scalar u (by rw [opOf_encR]; decide)).trans ?_
  delta decodeScalar; rw [opOf_encR, fnOf_encR, finOf_encFin]
  exact decDAB_enc (dOpt_enc d (by decide)) _ _ _

theorem stZ8 (u : SU) (d : Fin 64) (a : Src) (b : Src) : Statement (.stZ8 u d a b) := by
  refine statement_of rfl rfl (by rw [show encode _ = encR 18#6 (encFin 7 d) 0#3 (encSrc b) (encSrc a) from rfl, opOf_encR]; decide) ?_
  change decodeWord _ (encR 18#6 (encFin 7 d) 0#3 (encSrc b) (encSrc a)) = _
  refine (decodeWord_scalar u (by rw [opOf_encR]; decide)).trans ?_
  delta decodeScalar; rw [opOf_encR, fnOf_encR]
  exact decDAB_enc (dData_enc d (by decide)) _ _ _

theorem stZ16 (u : SU) (d : Fin 64) (a : Src) (b : Src) : Statement (.stZ16 u d a b) := by
  refine statement_of rfl rfl (by rw [show encode _ = encR 18#6 (encFin 7 d) 1#3 (encSrc b) (encSrc a) from rfl, opOf_encR]; decide) ?_
  change decodeWord _ (encR 18#6 (encFin 7 d) 1#3 (encSrc b) (encSrc a)) = _
  refine (decodeWord_scalar u (by rw [opOf_encR]; decide)).trans ?_
  delta decodeScalar; rw [opOf_encR, fnOf_encR]
  exact decDAB_enc (dData_enc d (by decide)) _ _ _

theorem stZ32 (u : SU) (d : Fin 64) (a : Src) (b : Src) : Statement (.stZ32 u d a b) := by
  refine statement_of rfl rfl (by rw [show encode _ = encR 18#6 (encFin 7 d) 2#3 (encSrc b) (encSrc a) from rfl, opOf_encR]; decide) ?_
  change decodeWord _ (encR 18#6 (encFin 7 d) 2#3 (encSrc b) (encSrc a)) = _
  refine (decodeWord_scalar u (by rw [opOf_encR]; decide)).trans ?_
  delta decodeScalar; rw [opOf_encR, fnOf_encR]
  exact decDAB_enc (dData_enc d (by decide)) _ _ _

theorem stZ64 (u : SU) (d : Fin 64) (a : Src) (b : Src) : Statement (.stZ64 u d a b) := by
  refine statement_of rfl rfl (by rw [show encode _ = encR 18#6 (encFin 7 d) 3#3 (encSrc b) (encSrc a) from rfl, opOf_encR]; decide) ?_
  change decodeWord _ (encR 18#6 (encFin 7 d) 3#3 (encSrc b) (encSrc a)) = _
  refine (decodeWord_scalar u (by rw [opOf_encR]; decide)).trans ?_
  delta decodeScalar; rw [opOf_encR, fnOf_encR]
  exact decDAB_enc (dData_enc d (by decide)) _ _ _

theorem lds (u : SU) (d : Option (Fin 64)) (a : Src) (b : Src) : Statement (.lds u d a b) := by
  refine statement_of rfl rfl (by rw [show encode _ = encR 19#6 (encOpt d) 0#3 (encSrc b) (encSrc a) from rfl, opOf_encR]; decide) ?_
  change decodeWord _ (encR 19#6 (encOpt d) 0#3 (encSrc b) (encSrc a)) = _
  refine (decodeWord_scalar u (by rw [opOf_encR]; decide)).trans ?_
  delta decodeScalar; rw [opOf_encR, fnOf_encR]
  exact decDAB_enc (dOpt_enc d (by decide)) _ _ _

theorem ldsC (u : SU) (d : Option (Fin 64)) (a : Src) (b : Src) : Statement (.ldsC u d a b) := by
  refine statement_of rfl rfl (by rw [show encode _ = encR 19#6 (encOpt d) 1#3 (encSrc b) (encSrc a) from rfl, opOf_encR]; decide) ?_
  change decodeWord _ (encR 19#6 (encOpt d) 1#3 (encSrc b) (encSrc a)) = _
  refine (decodeWord_scalar u (by rw [opOf_encR]; decide)).trans ?_
  delta decodeScalar; rw [opOf_encR, fnOf_encR]
  exact decDAB_enc (dOpt_enc d (by decide)) _ _ _

theorem sts (u : SU) (d : Fin 64) (a : Src) (b : Src) : Statement (.sts u d a b) := by
  refine statement_of rfl rfl (by rw [show encode _ = encR 19#6 (encFin 7 d) 2#3 (encSrc b) (encSrc a) from rfl, opOf_encR]; decide) ?_
  change decodeWord _ (encR 19#6 (encFin 7 d) 2#3 (encSrc b) (encSrc a)) = _
  refine (decodeWord_scalar u (by rw [opOf_encR]; decide)).trans ?_
  delta decodeScalar; rw [opOf_encR, fnOf_encR]
  exact decDAB_enc (dData_enc d (by decide)) _ _ _

theorem stsF (u : SU) (d : Fin 64) (a : Src) (b : Src) : Statement (.stsF u d a b) := by
  refine statement_of rfl rfl (by rw [show encode _ = encR 19#6 (encFin 7 d) 3#3 (encSrc b) (encSrc a) from rfl, opOf_encR]; decide) ?_
  change decodeWord _ (encR 19#6 (encFin 7 d) 3#3 (encSrc b) (encSrc a)) = _
  refine (decodeWord_scalar u (by rw [opOf_encR]; decide)).trans ?_
  delta decodeScalar; rw [opOf_encR, fnOf_encR]
  exact decDAB_enc (dData_enc d (by decide)) _ _ _

theorem drain (u : SU) (a : Src) (b : Src) : Statement (.drain u a b) := by
  refine statement_of rfl rfl (by rw [show encode _ = encR 19#6 0#7 4#3 (encSrc b) (encSrc a) from rfl, opOf_encR]; decide) ?_
  change decodeWord _ (encR 19#6 0#7 4#3 (encSrc b) (encSrc a)) = _
  refine (decodeWord_scalar u (by rw [opOf_encR]; decide)).trans ?_
  delta decodeScalar; rw [opOf_encR, fnOf_encR]
  exact decAB_enc _ _ _

theorem ldRlx (u : SU) (d : Option (Fin 64)) (sc : Scope) (w : BitVec 2) (sg : Bool) (a : Src) : Statement (.ldRlx u d sc w sg a) := by
  refine statement_of rfl rfl (by rw [show encode _ = encA 20#6 (encOpt d) (encScope sc) w (BitVec.ofNat 4 sg.toNat) 0#2 (encSrc a) from rfl, opOf_encA]; decide) ?_
  change decodeWord _ (encA 20#6 (encOpt d) (encScope sc) w (BitVec.ofNat 4 sg.toNat) 0#2 (encSrc a)) = _
  refine (decodeWord_scalar u (by rw [opOf_encA]; decide)).trans ?_
  cases sg
  all_goals
    delta decodeScalar; rw [opOf_encA, ordOf_encA, fOf_encA, wOf_encA]; exact decStrong_enc (dOpt_enc d (by decide)) _ _ _ _ _ _

theorem ldAcq (u : SU) (d : Option (Fin 64)) (sc : Scope) (w : BitVec 2) (sg : Bool) (a : Src) : Statement (.ldAcq u d sc w sg a) := by
  refine statement_of rfl rfl (by rw [show encode _ = encA 20#6 (encOpt d) (encScope sc) w (BitVec.ofNat 4 sg.toNat) 1#2 (encSrc a) from rfl, opOf_encA]; decide) ?_
  change decodeWord _ (encA 20#6 (encOpt d) (encScope sc) w (BitVec.ofNat 4 sg.toNat) 1#2 (encSrc a)) = _
  refine (decodeWord_scalar u (by rw [opOf_encA]; decide)).trans ?_
  cases sg
  all_goals
    delta decodeScalar; rw [opOf_encA, ordOf_encA, fOf_encA, wOf_encA]; exact decStrong_enc (dOpt_enc d (by decide)) _ _ _ _ _ _

theorem stRlx (u : SU) (d : Fin 64) (sc : Scope) (w : BitVec 2) (a : Src) : Statement (.stRlx u d sc w a) := by
  refine statement_of rfl rfl (by rw [show encode _ = encA 21#6 (encFin 7 d) (encScope sc) w 0#4 0#2 (encSrc a) from rfl, opOf_encA]; decide) ?_
  change decodeWord _ (encA 21#6 (encFin 7 d) (encScope sc) w 0#4 0#2 (encSrc a)) = _
  refine (decodeWord_scalar u (by rw [opOf_encA]; decide)).trans ?_
  delta decodeScalar; rw [opOf_encA, ordOf_encA, fOf_encA, wOf_encA]
  exact decStrong_enc (dData_enc d (by decide)) _ _ _ _ _ _

theorem stRel (u : SU) (d : Fin 64) (sc : Scope) (w : BitVec 2) (a : Src) : Statement (.stRel u d sc w a) := by
  refine statement_of rfl rfl (by rw [show encode _ = encA 21#6 (encFin 7 d) (encScope sc) w 0#4 2#2 (encSrc a) from rfl, opOf_encA]; decide) ?_
  change decodeWord _ (encA 21#6 (encFin 7 d) (encScope sc) w 0#4 2#2 (encSrc a)) = _
  refine (decodeWord_scalar u (by rw [opOf_encA]; decide)).trans ?_
  delta decodeScalar; rw [opOf_encA, ordOf_encA, fOf_encA, wOf_encA]
  exact decStrong_enc (dData_enc d (by decide)) _ _ _ _ _ _

theorem atomAdd (u : SU) (d : Fin 64) (sc : Scope) (w : BitVec 2) (o : BitVec 2) (a : Src) : Statement (.atomAdd u d sc w o a) := by
  refine statement_of rfl rfl (by rw [show encode _ = encA 22#6 (encFin 7 d) (encScope sc) w 0#4 o (encSrc a) from rfl, opOf_encA]; decide) ?_
  change decodeWord _ (encA 22#6 (encFin 7 d) (encScope sc) w 0#4 o (encSrc a)) = _
  refine (decodeWord_scalar u (by rw [opOf_encA]; decide)).trans ?_
  delta decodeScalar; rw [opOf_encA, ordOf_encA, fOf_encA, wOf_encA]
  exact decStrong_enc (dRes_enc d (by decide)) _ _ _ _ _ _

theorem atomAnd (u : SU) (d : Fin 64) (sc : Scope) (w : BitVec 2) (o : BitVec 2) (a : Src) : Statement (.atomAnd u d sc w o a) := by
  refine statement_of rfl rfl (by rw [show encode _ = encA 22#6 (encFin 7 d) (encScope sc) w 1#4 o (encSrc a) from rfl, opOf_encA]; decide) ?_
  change decodeWord _ (encA 22#6 (encFin 7 d) (encScope sc) w 1#4 o (encSrc a)) = _
  refine (decodeWord_scalar u (by rw [opOf_encA]; decide)).trans ?_
  delta decodeScalar; rw [opOf_encA, ordOf_encA, fOf_encA, wOf_encA]
  exact decStrong_enc (dRes_enc d (by decide)) _ _ _ _ _ _

theorem atomOr (u : SU) (d : Fin 64) (sc : Scope) (w : BitVec 2) (o : BitVec 2) (a : Src) : Statement (.atomOr u d sc w o a) := by
  refine statement_of rfl rfl (by rw [show encode _ = encA 22#6 (encFin 7 d) (encScope sc) w 2#4 o (encSrc a) from rfl, opOf_encA]; decide) ?_
  change decodeWord _ (encA 22#6 (encFin 7 d) (encScope sc) w 2#4 o (encSrc a)) = _
  refine (decodeWord_scalar u (by rw [opOf_encA]; decide)).trans ?_
  delta decodeScalar; rw [opOf_encA, ordOf_encA, fOf_encA, wOf_encA]
  exact decStrong_enc (dRes_enc d (by decide)) _ _ _ _ _ _

theorem atomXor (u : SU) (d : Fin 64) (sc : Scope) (w : BitVec 2) (o : BitVec 2) (a : Src) : Statement (.atomXor u d sc w o a) := by
  refine statement_of rfl rfl (by rw [show encode _ = encA 22#6 (encFin 7 d) (encScope sc) w 3#4 o (encSrc a) from rfl, opOf_encA]; decide) ?_
  change decodeWord _ (encA 22#6 (encFin 7 d) (encScope sc) w 3#4 o (encSrc a)) = _
  refine (decodeWord_scalar u (by rw [opOf_encA]; decide)).trans ?_
  delta decodeScalar; rw [opOf_encA, ordOf_encA, fOf_encA, wOf_encA]
  exact decStrong_enc (dRes_enc d (by decide)) _ _ _ _ _ _

theorem atomMinI (u : SU) (d : Fin 64) (sc : Scope) (w : BitVec 2) (o : BitVec 2) (a : Src) : Statement (.atomMinI u d sc w o a) := by
  refine statement_of rfl rfl (by rw [show encode _ = encA 22#6 (encFin 7 d) (encScope sc) w 4#4 o (encSrc a) from rfl, opOf_encA]; decide) ?_
  change decodeWord _ (encA 22#6 (encFin 7 d) (encScope sc) w 4#4 o (encSrc a)) = _
  refine (decodeWord_scalar u (by rw [opOf_encA]; decide)).trans ?_
  delta decodeScalar; rw [opOf_encA, ordOf_encA, fOf_encA, wOf_encA]
  exact decStrong_enc (dRes_enc d (by decide)) _ _ _ _ _ _

theorem atomMaxI (u : SU) (d : Fin 64) (sc : Scope) (w : BitVec 2) (o : BitVec 2) (a : Src) : Statement (.atomMaxI u d sc w o a) := by
  refine statement_of rfl rfl (by rw [show encode _ = encA 22#6 (encFin 7 d) (encScope sc) w 5#4 o (encSrc a) from rfl, opOf_encA]; decide) ?_
  change decodeWord _ (encA 22#6 (encFin 7 d) (encScope sc) w 5#4 o (encSrc a)) = _
  refine (decodeWord_scalar u (by rw [opOf_encA]; decide)).trans ?_
  delta decodeScalar; rw [opOf_encA, ordOf_encA, fOf_encA, wOf_encA]
  exact decStrong_enc (dRes_enc d (by decide)) _ _ _ _ _ _

theorem atomMinZ (u : SU) (d : Fin 64) (sc : Scope) (w : BitVec 2) (o : BitVec 2) (a : Src) : Statement (.atomMinZ u d sc w o a) := by
  refine statement_of rfl rfl (by rw [show encode _ = encA 22#6 (encFin 7 d) (encScope sc) w 6#4 o (encSrc a) from rfl, opOf_encA]; decide) ?_
  change decodeWord _ (encA 22#6 (encFin 7 d) (encScope sc) w 6#4 o (encSrc a)) = _
  refine (decodeWord_scalar u (by rw [opOf_encA]; decide)).trans ?_
  delta decodeScalar; rw [opOf_encA, ordOf_encA, fOf_encA, wOf_encA]
  exact decStrong_enc (dRes_enc d (by decide)) _ _ _ _ _ _

theorem atomMaxZ (u : SU) (d : Fin 64) (sc : Scope) (w : BitVec 2) (o : BitVec 2) (a : Src) : Statement (.atomMaxZ u d sc w o a) := by
  refine statement_of rfl rfl (by rw [show encode _ = encA 22#6 (encFin 7 d) (encScope sc) w 7#4 o (encSrc a) from rfl, opOf_encA]; decide) ?_
  change decodeWord _ (encA 22#6 (encFin 7 d) (encScope sc) w 7#4 o (encSrc a)) = _
  refine (decodeWord_scalar u (by rw [opOf_encA]; decide)).trans ?_
  delta decodeScalar; rw [opOf_encA, ordOf_encA, fOf_encA, wOf_encA]
  exact decStrong_enc (dRes_enc d (by decide)) _ _ _ _ _ _

theorem atomSwap (u : SU) (d : Fin 64) (sc : Scope) (w : BitVec 2) (o : BitVec 2) (a : Src) : Statement (.atomSwap u d sc w o a) := by
  refine statement_of rfl rfl (by rw [show encode _ = encA 22#6 (encFin 7 d) (encScope sc) w 8#4 o (encSrc a) from rfl, opOf_encA]; decide) ?_
  change decodeWord _ (encA 22#6 (encFin 7 d) (encScope sc) w 8#4 o (encSrc a)) = _
  refine (decodeWord_scalar u (by rw [opOf_encA]; decide)).trans ?_
  delta decodeScalar; rw [opOf_encA, ordOf_encA, fOf_encA, wOf_encA]
  exact decStrong_enc (dRes_enc d (by decide)) _ _ _ _ _ _

theorem atomCas (u : SU) (d : Fin 64) (sc : Scope) (w : BitVec 2) (o : BitVec 2) (a : Src) : Statement (.atomCas u d sc w o a) := by
  refine statement_of rfl rfl (by rw [show encode _ = encA 22#6 (encFin 7 d) (encScope sc) w 9#4 o (encSrc a) from rfl, opOf_encA]; decide) ?_
  change decodeWord _ (encA 22#6 (encFin 7 d) (encScope sc) w 9#4 o (encSrc a)) = _
  refine (decodeWord_scalar u (by rw [opOf_encA]; decide)).trans ?_
  delta decodeScalar; rw [opOf_encA, ordOf_encA, fOf_encA, wOf_encA]
  exact decStrong_enc (dRes_enc d (by decide)) _ _ _ _ _ _

theorem qpushS (u : SU) (d : Fin 64) (q : Fin 8) : Statement (.qpushS u d q) := by
  refine statement_of rfl rfl (by rw [show encode _ = encR 23#6 (encFin 7 d) (encFin 3 q) 0#8 0#8 from rfl, opOf_encR]; decide) ?_
  change decodeWord _ (encR 23#6 (encFin 7 d) (encFin 3 q) 0#8 0#8) = _
  refine (decodeWord_scalar u (by rw [opOf_encR]; decide)).trans ?_
  delta decodeScalar; rw [opOf_encR, fnOf_encR, finOf_encFin]
  exact decD_enc (dData_enc d (by decide)) _

theorem brS1 (c : Src) (off : BitVec 18) : Statement (.brS1 c off) := by
  refine statement_of rfl rfl (by rw [show encode _ = encB 48#6 (encSrc c) off from rfl, opOf_encB]; decide) ?_
  change decodeWord _ (encB 48#6 (encSrc c) off) = _
  refine (decodeWord_branch (by rw [opOf_encB]; decide)).trans ?_
  delta decodeBranchS1; rw [opOf_encB]
  exact decBr_enc _ _ _

theorem brzS1 (c : Src) (off : BitVec 18) : Statement (.brzS1 c off) := by
  refine statement_of rfl rfl (by rw [show encode _ = encB 49#6 (encSrc c) off from rfl, opOf_encB]; decide) ?_
  change decodeWord _ (encB 49#6 (encSrc c) off) = _
  refine (decodeWord_branch (by rw [opOf_encB]; decide)).trans ?_
  delta decodeBranchS1; rw [opOf_encB]
  exact decBr_enc _ _ _

theorem callS1 (c : Src) (off : BitVec 18) : Statement (.callS1 c off) := by
  refine statement_of rfl rfl (by rw [show encode _ = encB 50#6 (encSrc c) off from rfl, opOf_encB]; decide) ?_
  change decodeWord _ (encB 50#6 (encSrc c) off) = _
  refine (decodeWord_branch (by rw [opOf_encB]; decide)).trans ?_
  delta decodeBranchS1; rw [opOf_encB]
  exact decBr_enc _ _ _

theorem vaddF32 (u : VU) (d : Option (Fin 32)) (g : Fin 8) (a : Src) (b : Src) : Statement (.vaddF32 u d g a b) := by
  refine statement_of rfl rfl (by rw [show encode _ = encR 1#6 (encOpt d) (encFin 3 g) (encSrc b) (encSrc a) from rfl, opOf_encR]; decide) ?_
  change decodeWord _ (encR 1#6 (encOpt d) (encFin 3 g) (encSrc b) (encSrc a)) = _
  refine (decodeWord_vector u _).trans ?_
  delta decodeVector; rw [opOf_encR, fnOf_encR, bOf_encR, finOf_encFin]
  exact decDAB_enc (dOpt_enc d (by decide)) _ _ _

theorem vsubF32 (u : VU) (d : Option (Fin 32)) (g : Fin 8) (a : Src) (b : Src) : Statement (.vsubF32 u d g a b) := by
  refine statement_of rfl rfl (by rw [show encode _ = encR 2#6 (encOpt d) (encFin 3 g) (encSrc b) (encSrc a) from rfl, opOf_encR]; decide) ?_
  change decodeWord _ (encR 2#6 (encOpt d) (encFin 3 g) (encSrc b) (encSrc a)) = _
  refine (decodeWord_vector u _).trans ?_
  delta decodeVector; rw [opOf_encR, fnOf_encR, bOf_encR, finOf_encFin]
  exact decDAB_enc (dOpt_enc d (by decide)) _ _ _

theorem vmulF32 (u : VU) (d : Option (Fin 32)) (g : Fin 8) (a : Src) (b : Src) : Statement (.vmulF32 u d g a b) := by
  refine statement_of rfl rfl (by rw [show encode _ = encR 3#6 (encOpt d) (encFin 3 g) (encSrc b) (encSrc a) from rfl, opOf_encR]; decide) ?_
  change decodeWord _ (encR 3#6 (encOpt d) (encFin 3 g) (encSrc b) (encSrc a)) = _
  refine (decodeWord_vector u _).trans ?_
  delta decodeVector; rw [opOf_encR, fnOf_encR, bOf_encR, finOf_encFin]
  exact decDAB_enc (dOpt_enc d (by decide)) _ _ _

theorem vfmaF32 (u : VU) (d : Fin 32) (g : Fin 8) (a : Src) (b : Src) : Statement (.vfmaF32 u d g a b) := by
  refine statement_of rfl rfl (by rw [show encode _ = encR 4#6 (encFin 7 d) (encFin 3 g) (encSrc b) (encSrc a) from rfl, opOf_encR]; decide) ?_
  change decodeWord _ (encR 4#6 (encFin 7 d) (encFin 3 g) (encSrc b) (encSrc a)) = _
  refine (decodeWord_vector u _).trans ?_
  delta decodeVector; rw [opOf_encR, fnOf_encR, bOf_encR, finOf_encFin]
  exact decDAB_enc (dRes_enc d (by decide)) _ _ _

theorem vminF32 (u : VU) (d : Option (Fin 32)) (g : Fin 8) (a : Src) (b : Src) : Statement (.vminF32 u d g a b) := by
  refine statement_of rfl rfl (by rw [show encode _ = encR 5#6 (encOpt d) (encFin 3 g) (encSrc b) (encSrc a) from rfl, opOf_encR]; decide) ?_
  change decodeWord _ (encR 5#6 (encOpt d) (encFin 3 g) (encSrc b) (encSrc a)) = _
  refine (decodeWord_vector u _).trans ?_
  delta decodeVector; rw [opOf_encR, fnOf_encR, bOf_encR, finOf_encFin]
  exact decDAB_enc (dOpt_enc d (by decide)) _ _ _

theorem vmaxF32 (u : VU) (d : Option (Fin 32)) (g : Fin 8) (a : Src) (b : Src) : Statement (.vmaxF32 u d g a b) := by
  refine statement_of rfl rfl (by rw [show encode _ = encR 6#6 (encOpt d) (encFin 3 g) (encSrc b) (encSrc a) from rfl, opOf_encR]; decide) ?_
  change decodeWord _ (encR 6#6 (encOpt d) (encFin 3 g) (encSrc b) (encSrc a)) = _
  refine (decodeWord_vector u _).trans ?_
  delta decodeVector; rw [opOf_encR, fnOf_encR, bOf_encR, finOf_encFin]
  exact decDAB_enc (dOpt_enc d (by decide)) _ _ _

theorem vaddBf16 (u : VU) (d : Option (Fin 32)) (g : Fin 8) (a : Src) (b : Src) : Statement (.vaddBf16 u d g a b) := by
  refine statement_of rfl rfl (by rw [show encode _ = encR 7#6 (encOpt d) (encFin 3 g) (encSrc b) (encSrc a) from rfl, opOf_encR]; decide) ?_
  change decodeWord _ (encR 7#6 (encOpt d) (encFin 3 g) (encSrc b) (encSrc a)) = _
  refine (decodeWord_vector u _).trans ?_
  delta decodeVector; rw [opOf_encR, fnOf_encR, bOf_encR, finOf_encFin]
  exact decDAB_enc (dOpt_enc d (by decide)) _ _ _

theorem vsubBf16 (u : VU) (d : Option (Fin 32)) (g : Fin 8) (a : Src) (b : Src) : Statement (.vsubBf16 u d g a b) := by
  refine statement_of rfl rfl (by rw [show encode _ = encR 8#6 (encOpt d) (encFin 3 g) (encSrc b) (encSrc a) from rfl, opOf_encR]; decide) ?_
  change decodeWord _ (encR 8#6 (encOpt d) (encFin 3 g) (encSrc b) (encSrc a)) = _
  refine (decodeWord_vector u _).trans ?_
  delta decodeVector; rw [opOf_encR, fnOf_encR, bOf_encR, finOf_encFin]
  exact decDAB_enc (dOpt_enc d (by decide)) _ _ _

theorem vmulBf16 (u : VU) (d : Option (Fin 32)) (g : Fin 8) (a : Src) (b : Src) : Statement (.vmulBf16 u d g a b) := by
  refine statement_of rfl rfl (by rw [show encode _ = encR 9#6 (encOpt d) (encFin 3 g) (encSrc b) (encSrc a) from rfl, opOf_encR]; decide) ?_
  change decodeWord _ (encR 9#6 (encOpt d) (encFin 3 g) (encSrc b) (encSrc a)) = _
  refine (decodeWord_vector u _).trans ?_
  delta decodeVector; rw [opOf_encR, fnOf_encR, bOf_encR, finOf_encFin]
  exact decDAB_enc (dOpt_enc d (by decide)) _ _ _

theorem vfmaBf16 (u : VU) (d : Fin 32) (g : Fin 8) (a : Src) (b : Src) : Statement (.vfmaBf16 u d g a b) := by
  refine statement_of rfl rfl (by rw [show encode _ = encR 10#6 (encFin 7 d) (encFin 3 g) (encSrc b) (encSrc a) from rfl, opOf_encR]; decide) ?_
  change decodeWord _ (encR 10#6 (encFin 7 d) (encFin 3 g) (encSrc b) (encSrc a)) = _
  refine (decodeWord_vector u _).trans ?_
  delta decodeVector; rw [opOf_encR, fnOf_encR, bOf_encR, finOf_encFin]
  exact decDAB_enc (dRes_enc d (by decide)) _ _ _

theorem vminBf16 (u : VU) (d : Option (Fin 32)) (g : Fin 8) (a : Src) (b : Src) : Statement (.vminBf16 u d g a b) := by
  refine statement_of rfl rfl (by rw [show encode _ = encR 11#6 (encOpt d) (encFin 3 g) (encSrc b) (encSrc a) from rfl, opOf_encR]; decide) ?_
  change decodeWord _ (encR 11#6 (encOpt d) (encFin 3 g) (encSrc b) (encSrc a)) = _
  refine (decodeWord_vector u _).trans ?_
  delta decodeVector; rw [opOf_encR, fnOf_encR, bOf_encR, finOf_encFin]
  exact decDAB_enc (dOpt_enc d (by decide)) _ _ _

theorem vmaxBf16 (u : VU) (d : Option (Fin 32)) (g : Fin 8) (a : Src) (b : Src) : Statement (.vmaxBf16 u d g a b) := by
  refine statement_of rfl rfl (by rw [show encode _ = encR 12#6 (encOpt d) (encFin 3 g) (encSrc b) (encSrc a) from rfl, opOf_encR]; decide) ?_
  change decodeWord _ (encR 12#6 (encOpt d) (encFin 3 g) (encSrc b) (encSrc a)) = _
  refine (decodeWord_vector u _).trans ?_
  delta decodeVector; rw [opOf_encR, fnOf_encR, bOf_encR, finOf_encFin]
  exact decDAB_enc (dOpt_enc d (by decide)) _ _ _

theorem vabsF32 (u : VU) (d : Option (Fin 32)) (g : Fin 8) (a : Src) : Statement (.vabsF32 u d g a) := by
  refine statement_of rfl rfl (by rw [show encode _ = encR 13#6 (encOpt d) (encFin 3 g) 0#8 (encSrc a) from rfl, opOf_encR]; decide) ?_
  change decodeWord _ (encR 13#6 (encOpt d) (encFin 3 g) 0#8 (encSrc a)) = _
  refine (decodeWord_vector u _).trans ?_
  delta decodeVector; rw [opOf_encR, fnOf_encR, bOf_encR, finOf_encFin]
  exact decDAm_enc (dOpt_enc d (by decide)) _ _ _

theorem vnegF32 (u : VU) (d : Option (Fin 32)) (g : Fin 8) (a : Src) : Statement (.vnegF32 u d g a) := by
  refine statement_of rfl rfl (by rw [show encode _ = encR 13#6 (encOpt d) (encFin 3 g) 1#8 (encSrc a) from rfl, opOf_encR]; decide) ?_
  change decodeWord _ (encR 13#6 (encOpt d) (encFin 3 g) 1#8 (encSrc a)) = _
  refine (decodeWord_vector u _).trans ?_
  delta decodeVector; rw [opOf_encR, fnOf_encR, bOf_encR, finOf_encFin]
  exact decDAm_enc (dOpt_enc d (by decide)) _ _ _

theorem vexp2F32 (u : VU) (d : Option (Fin 32)) (g : Fin 8) (a : Src) : Statement (.vexp2F32 u d g a) := by
  refine statement_of rfl rfl (by rw [show encode _ = encR 13#6 (encOpt d) (encFin 3 g) 2#8 (encSrc a) from rfl, opOf_encR]; decide) ?_
  change decodeWord _ (encR 13#6 (encOpt d) (encFin 3 g) 2#8 (encSrc a)) = _
  refine (decodeWord_vector u _).trans ?_
  delta decodeVector; rw [opOf_encR, fnOf_encR, bOf_encR, finOf_encFin]
  exact decDAm_enc (dOpt_enc d (by decide)) _ _ _

theorem vrcpF32 (u : VU) (d : Option (Fin 32)) (g : Fin 8) (a : Src) : Statement (.vrcpF32 u d g a) := by
  refine statement_of rfl rfl (by rw [show encode _ = encR 13#6 (encOpt d) (encFin 3 g) 3#8 (encSrc a) from rfl, opOf_encR]; decide) ?_
  change decodeWord _ (encR 13#6 (encOpt d) (encFin 3 g) 3#8 (encSrc a)) = _
  refine (decodeWord_vector u _).trans ?_
  delta decodeVector; rw [opOf_encR, fnOf_encR, bOf_encR, finOf_encFin]
  exact decDAm_enc (dOpt_enc d (by decide)) _ _ _

theorem vrsqrtF32 (u : VU) (d : Option (Fin 32)) (g : Fin 8) (a : Src) : Statement (.vrsqrtF32 u d g a) := by
  refine statement_of rfl rfl (by rw [show encode _ = encR 13#6 (encOpt d) (encFin 3 g) 4#8 (encSrc a) from rfl, opOf_encR]; decide) ?_
  change decodeWord _ (encR 13#6 (encOpt d) (encFin 3 g) 4#8 (encSrc a)) = _
  refine (decodeWord_vector u _).trans ?_
  delta decodeVector; rw [opOf_encR, fnOf_encR, bOf_encR, finOf_encFin]
  exact decDAm_enc (dOpt_enc d (by decide)) _ _ _

theorem vabsBf16 (u : VU) (d : Option (Fin 32)) (g : Fin 8) (a : Src) : Statement (.vabsBf16 u d g a) := by
  refine statement_of rfl rfl (by rw [show encode _ = encR 14#6 (encOpt d) (encFin 3 g) 0#8 (encSrc a) from rfl, opOf_encR]; decide) ?_
  change decodeWord _ (encR 14#6 (encOpt d) (encFin 3 g) 0#8 (encSrc a)) = _
  refine (decodeWord_vector u _).trans ?_
  delta decodeVector; rw [opOf_encR, fnOf_encR, bOf_encR, finOf_encFin]
  exact decDAm_enc (dOpt_enc d (by decide)) _ _ _

theorem vnegBf16 (u : VU) (d : Option (Fin 32)) (g : Fin 8) (a : Src) : Statement (.vnegBf16 u d g a) := by
  refine statement_of rfl rfl (by rw [show encode _ = encR 14#6 (encOpt d) (encFin 3 g) 1#8 (encSrc a) from rfl, opOf_encR]; decide) ?_
  change decodeWord _ (encR 14#6 (encOpt d) (encFin 3 g) 1#8 (encSrc a)) = _
  refine (decodeWord_vector u _).trans ?_
  delta decodeVector; rw [opOf_encR, fnOf_encR, bOf_encR, finOf_encFin]
  exact decDAm_enc (dOpt_enc d (by decide)) _ _ _

theorem vexp2Bf16 (u : VU) (d : Option (Fin 32)) (g : Fin 8) (a : Src) : Statement (.vexp2Bf16 u d g a) := by
  refine statement_of rfl rfl (by rw [show encode _ = encR 14#6 (encOpt d) (encFin 3 g) 2#8 (encSrc a) from rfl, opOf_encR]; decide) ?_
  change decodeWord _ (encR 14#6 (encOpt d) (encFin 3 g) 2#8 (encSrc a)) = _
  refine (decodeWord_vector u _).trans ?_
  delta decodeVector; rw [opOf_encR, fnOf_encR, bOf_encR, finOf_encFin]
  exact decDAm_enc (dOpt_enc d (by decide)) _ _ _

theorem vrcpBf16 (u : VU) (d : Option (Fin 32)) (g : Fin 8) (a : Src) : Statement (.vrcpBf16 u d g a) := by
  refine statement_of rfl rfl (by rw [show encode _ = encR 14#6 (encOpt d) (encFin 3 g) 3#8 (encSrc a) from rfl, opOf_encR]; decide) ?_
  change decodeWord _ (encR 14#6 (encOpt d) (encFin 3 g) 3#8 (encSrc a)) = _
  refine (decodeWord_vector u _).trans ?_
  delta decodeVector; rw [opOf_encR, fnOf_encR, bOf_encR, finOf_encFin]
  exact decDAm_enc (dOpt_enc d (by decide)) _ _ _

theorem vrsqrtBf16 (u : VU) (d : Option (Fin 32)) (g : Fin 8) (a : Src) : Statement (.vrsqrtBf16 u d g a) := by
  refine statement_of rfl rfl (by rw [show encode _ = encR 14#6 (encOpt d) (encFin 3 g) 4#8 (encSrc a) from rfl, opOf_encR]; decide) ?_
  change decodeWord _ (encR 14#6 (encOpt d) (encFin 3 g) 4#8 (encSrc a)) = _
  refine (decodeWord_vector u _).trans ?_
  delta decodeVector; rw [opOf_encR, fnOf_encR, bOf_encR, finOf_encFin]
  exact decDAm_enc (dOpt_enc d (by decide)) _ _ _

theorem vaddI16 (u : VU) (d : Option (Fin 32)) (a : Src) (b : Src) : Statement (.vaddI16 u d a b) := by
  refine statement_of rfl rfl (by rw [show encode _ = encR 15#6 (encOpt d) 0#3 (encSrc b) (encSrc a) from rfl, opOf_encR]; decide) ?_
  change decodeWord _ (encR 15#6 (encOpt d) 0#3 (encSrc b) (encSrc a)) = _
  refine (decodeWord_vector u _).trans ?_
  delta decodeVector; rw [opOf_encR, fnOf_encR, bOf_encR]
  exact decDAB_enc (dOpt_enc d (by decide)) _ _ _

theorem vsubI16 (u : VU) (d : Option (Fin 32)) (a : Src) (b : Src) : Statement (.vsubI16 u d a b) := by
  refine statement_of rfl rfl (by rw [show encode _ = encR 15#6 (encOpt d) 1#3 (encSrc b) (encSrc a) from rfl, opOf_encR]; decide) ?_
  change decodeWord _ (encR 15#6 (encOpt d) 1#3 (encSrc b) (encSrc a)) = _
  refine (decodeWord_vector u _).trans ?_
  delta decodeVector; rw [opOf_encR, fnOf_encR, bOf_encR]
  exact decDAB_enc (dOpt_enc d (by decide)) _ _ _

theorem vmulI16 (u : VU) (d : Option (Fin 32)) (a : Src) (b : Src) : Statement (.vmulI16 u d a b) := by
  refine statement_of rfl rfl (by rw [show encode _ = encR 15#6 (encOpt d) 2#3 (encSrc b) (encSrc a) from rfl, opOf_encR]; decide) ?_
  change decodeWord _ (encR 15#6 (encOpt d) 2#3 (encSrc b) (encSrc a)) = _
  refine (decodeWord_vector u _).trans ?_
  delta decodeVector; rw [opOf_encR, fnOf_encR, bOf_encR]
  exact decDAB_enc (dOpt_enc d (by decide)) _ _ _

theorem vminI16 (u : VU) (d : Option (Fin 32)) (a : Src) (b : Src) : Statement (.vminI16 u d a b) := by
  refine statement_of rfl rfl (by rw [show encode _ = encR 15#6 (encOpt d) 3#3 (encSrc b) (encSrc a) from rfl, opOf_encR]; decide) ?_
  change decodeWord _ (encR 15#6 (encOpt d) 3#3 (encSrc b) (encSrc a)) = _
  refine (decodeWord_vector u _).trans ?_
  delta decodeVector; rw [opOf_encR, fnOf_encR, bOf_encR]
  exact decDAB_enc (dOpt_enc d (by decide)) _ _ _

theorem vmaxI16 (u : VU) (d : Option (Fin 32)) (a : Src) (b : Src) : Statement (.vmaxI16 u d a b) := by
  refine statement_of rfl rfl (by rw [show encode _ = encR 15#6 (encOpt d) 4#3 (encSrc b) (encSrc a) from rfl, opOf_encR]; decide) ?_
  change decodeWord _ (encR 15#6 (encOpt d) 4#3 (encSrc b) (encSrc a)) = _
  refine (decodeWord_vector u _).trans ?_
  delta decodeVector; rw [opOf_encR, fnOf_encR, bOf_encR]
  exact decDAB_enc (dOpt_enc d (by decide)) _ _ _

theorem vaddsI16 (u : VU) (d : Option (Fin 32)) (a : Src) (b : Src) : Statement (.vaddsI16 u d a b) := by
  refine statement_of rfl rfl (by rw [show encode _ = encR 15#6 (encOpt d) 5#3 (encSrc b) (encSrc a) from rfl, opOf_encR]; decide) ?_
  change decodeWord _ (encR 15#6 (encOpt d) 5#3 (encSrc b) (encSrc a)) = _
  refine (decodeWord_vector u _).trans ?_
  delta decodeVector; rw [opOf_encR, fnOf_encR, bOf_encR]
  exact decDAB_enc (dOpt_enc d (by decide)) _ _ _

theorem vsubsI16 (u : VU) (d : Option (Fin 32)) (a : Src) (b : Src) : Statement (.vsubsI16 u d a b) := by
  refine statement_of rfl rfl (by rw [show encode _ = encR 15#6 (encOpt d) 6#3 (encSrc b) (encSrc a) from rfl, opOf_encR]; decide) ?_
  change decodeWord _ (encR 15#6 (encOpt d) 6#3 (encSrc b) (encSrc a)) = _
  refine (decodeWord_vector u _).trans ?_
  delta decodeVector; rw [opOf_encR, fnOf_encR, bOf_encR]
  exact decDAB_enc (dOpt_enc d (by decide)) _ _ _

theorem vaddI32 (u : VU) (d : Option (Fin 32)) (a : Src) (b : Src) : Statement (.vaddI32 u d a b) := by
  refine statement_of rfl rfl (by rw [show encode _ = encR 16#6 (encOpt d) 0#3 (encSrc b) (encSrc a) from rfl, opOf_encR]; decide) ?_
  change decodeWord _ (encR 16#6 (encOpt d) 0#3 (encSrc b) (encSrc a)) = _
  refine (decodeWord_vector u _).trans ?_
  delta decodeVector; rw [opOf_encR, fnOf_encR, bOf_encR]
  exact decDAB_enc (dOpt_enc d (by decide)) _ _ _

theorem vsubI32 (u : VU) (d : Option (Fin 32)) (a : Src) (b : Src) : Statement (.vsubI32 u d a b) := by
  refine statement_of rfl rfl (by rw [show encode _ = encR 16#6 (encOpt d) 1#3 (encSrc b) (encSrc a) from rfl, opOf_encR]; decide) ?_
  change decodeWord _ (encR 16#6 (encOpt d) 1#3 (encSrc b) (encSrc a)) = _
  refine (decodeWord_vector u _).trans ?_
  delta decodeVector; rw [opOf_encR, fnOf_encR, bOf_encR]
  exact decDAB_enc (dOpt_enc d (by decide)) _ _ _

theorem vmulI32 (u : VU) (d : Option (Fin 32)) (a : Src) (b : Src) : Statement (.vmulI32 u d a b) := by
  refine statement_of rfl rfl (by rw [show encode _ = encR 16#6 (encOpt d) 2#3 (encSrc b) (encSrc a) from rfl, opOf_encR]; decide) ?_
  change decodeWord _ (encR 16#6 (encOpt d) 2#3 (encSrc b) (encSrc a)) = _
  refine (decodeWord_vector u _).trans ?_
  delta decodeVector; rw [opOf_encR, fnOf_encR, bOf_encR]
  exact decDAB_enc (dOpt_enc d (by decide)) _ _ _

theorem vminI32 (u : VU) (d : Option (Fin 32)) (a : Src) (b : Src) : Statement (.vminI32 u d a b) := by
  refine statement_of rfl rfl (by rw [show encode _ = encR 16#6 (encOpt d) 3#3 (encSrc b) (encSrc a) from rfl, opOf_encR]; decide) ?_
  change decodeWord _ (encR 16#6 (encOpt d) 3#3 (encSrc b) (encSrc a)) = _
  refine (decodeWord_vector u _).trans ?_
  delta decodeVector; rw [opOf_encR, fnOf_encR, bOf_encR]
  exact decDAB_enc (dOpt_enc d (by decide)) _ _ _

theorem vmaxI32 (u : VU) (d : Option (Fin 32)) (a : Src) (b : Src) : Statement (.vmaxI32 u d a b) := by
  refine statement_of rfl rfl (by rw [show encode _ = encR 16#6 (encOpt d) 4#3 (encSrc b) (encSrc a) from rfl, opOf_encR]; decide) ?_
  change decodeWord _ (encR 16#6 (encOpt d) 4#3 (encSrc b) (encSrc a)) = _
  refine (decodeWord_vector u _).trans ?_
  delta decodeVector; rw [opOf_encR, fnOf_encR, bOf_encR]
  exact decDAB_enc (dOpt_enc d (by decide)) _ _ _

theorem vaddsI32 (u : VU) (d : Option (Fin 32)) (a : Src) (b : Src) : Statement (.vaddsI32 u d a b) := by
  refine statement_of rfl rfl (by rw [show encode _ = encR 16#6 (encOpt d) 5#3 (encSrc b) (encSrc a) from rfl, opOf_encR]; decide) ?_
  change decodeWord _ (encR 16#6 (encOpt d) 5#3 (encSrc b) (encSrc a)) = _
  refine (decodeWord_vector u _).trans ?_
  delta decodeVector; rw [opOf_encR, fnOf_encR, bOf_encR]
  exact decDAB_enc (dOpt_enc d (by decide)) _ _ _

theorem vsubsI32 (u : VU) (d : Option (Fin 32)) (a : Src) (b : Src) : Statement (.vsubsI32 u d a b) := by
  refine statement_of rfl rfl (by rw [show encode _ = encR 16#6 (encOpt d) 6#3 (encSrc b) (encSrc a) from rfl, opOf_encR]; decide) ?_
  change decodeWord _ (encR 16#6 (encOpt d) 6#3 (encSrc b) (encSrc a)) = _
  refine (decodeWord_vector u _).trans ?_
  delta decodeVector; rw [opOf_encR, fnOf_encR, bOf_encR]
  exact decDAB_enc (dOpt_enc d (by decide)) _ _ _

theorem vaddZ16 (u : VU) (d : Option (Fin 32)) (a : Src) (b : Src) : Statement (.vaddZ16 u d a b) := by
  refine statement_of rfl rfl (by rw [show encode _ = encR 17#6 (encOpt d) 0#3 (encSrc b) (encSrc a) from rfl, opOf_encR]; decide) ?_
  change decodeWord _ (encR 17#6 (encOpt d) 0#3 (encSrc b) (encSrc a)) = _
  refine (decodeWord_vector u _).trans ?_
  delta decodeVector; rw [opOf_encR, fnOf_encR, bOf_encR]
  exact decDAB_enc (dOpt_enc d (by decide)) _ _ _

theorem vsubZ16 (u : VU) (d : Option (Fin 32)) (a : Src) (b : Src) : Statement (.vsubZ16 u d a b) := by
  refine statement_of rfl rfl (by rw [show encode _ = encR 17#6 (encOpt d) 1#3 (encSrc b) (encSrc a) from rfl, opOf_encR]; decide) ?_
  change decodeWord _ (encR 17#6 (encOpt d) 1#3 (encSrc b) (encSrc a)) = _
  refine (decodeWord_vector u _).trans ?_
  delta decodeVector; rw [opOf_encR, fnOf_encR, bOf_encR]
  exact decDAB_enc (dOpt_enc d (by decide)) _ _ _

theorem vmulZ16 (u : VU) (d : Option (Fin 32)) (a : Src) (b : Src) : Statement (.vmulZ16 u d a b) := by
  refine statement_of rfl rfl (by rw [show encode _ = encR 17#6 (encOpt d) 2#3 (encSrc b) (encSrc a) from rfl, opOf_encR]; decide) ?_
  change decodeWord _ (encR 17#6 (encOpt d) 2#3 (encSrc b) (encSrc a)) = _
  refine (decodeWord_vector u _).trans ?_
  delta decodeVector; rw [opOf_encR, fnOf_encR, bOf_encR]
  exact decDAB_enc (dOpt_enc d (by decide)) _ _ _

theorem vminZ16 (u : VU) (d : Option (Fin 32)) (a : Src) (b : Src) : Statement (.vminZ16 u d a b) := by
  refine statement_of rfl rfl (by rw [show encode _ = encR 17#6 (encOpt d) 3#3 (encSrc b) (encSrc a) from rfl, opOf_encR]; decide) ?_
  change decodeWord _ (encR 17#6 (encOpt d) 3#3 (encSrc b) (encSrc a)) = _
  refine (decodeWord_vector u _).trans ?_
  delta decodeVector; rw [opOf_encR, fnOf_encR, bOf_encR]
  exact decDAB_enc (dOpt_enc d (by decide)) _ _ _

theorem vmaxZ16 (u : VU) (d : Option (Fin 32)) (a : Src) (b : Src) : Statement (.vmaxZ16 u d a b) := by
  refine statement_of rfl rfl (by rw [show encode _ = encR 17#6 (encOpt d) 4#3 (encSrc b) (encSrc a) from rfl, opOf_encR]; decide) ?_
  change decodeWord _ (encR 17#6 (encOpt d) 4#3 (encSrc b) (encSrc a)) = _
  refine (decodeWord_vector u _).trans ?_
  delta decodeVector; rw [opOf_encR, fnOf_encR, bOf_encR]
  exact decDAB_enc (dOpt_enc d (by decide)) _ _ _

theorem vaddsZ16 (u : VU) (d : Option (Fin 32)) (a : Src) (b : Src) : Statement (.vaddsZ16 u d a b) := by
  refine statement_of rfl rfl (by rw [show encode _ = encR 17#6 (encOpt d) 5#3 (encSrc b) (encSrc a) from rfl, opOf_encR]; decide) ?_
  change decodeWord _ (encR 17#6 (encOpt d) 5#3 (encSrc b) (encSrc a)) = _
  refine (decodeWord_vector u _).trans ?_
  delta decodeVector; rw [opOf_encR, fnOf_encR, bOf_encR]
  exact decDAB_enc (dOpt_enc d (by decide)) _ _ _

theorem vsubsZ16 (u : VU) (d : Option (Fin 32)) (a : Src) (b : Src) : Statement (.vsubsZ16 u d a b) := by
  refine statement_of rfl rfl (by rw [show encode _ = encR 17#6 (encOpt d) 6#3 (encSrc b) (encSrc a) from rfl, opOf_encR]; decide) ?_
  change decodeWord _ (encR 17#6 (encOpt d) 6#3 (encSrc b) (encSrc a)) = _
  refine (decodeWord_vector u _).trans ?_
  delta decodeVector; rw [opOf_encR, fnOf_encR, bOf_encR]
  exact decDAB_enc (dOpt_enc d (by decide)) _ _ _

theorem vaddZ32 (u : VU) (d : Option (Fin 32)) (a : Src) (b : Src) : Statement (.vaddZ32 u d a b) := by
  refine statement_of rfl rfl (by rw [show encode _ = encR 18#6 (encOpt d) 0#3 (encSrc b) (encSrc a) from rfl, opOf_encR]; decide) ?_
  change decodeWord _ (encR 18#6 (encOpt d) 0#3 (encSrc b) (encSrc a)) = _
  refine (decodeWord_vector u _).trans ?_
  delta decodeVector; rw [opOf_encR, fnOf_encR, bOf_encR]
  exact decDAB_enc (dOpt_enc d (by decide)) _ _ _

theorem vsubZ32 (u : VU) (d : Option (Fin 32)) (a : Src) (b : Src) : Statement (.vsubZ32 u d a b) := by
  refine statement_of rfl rfl (by rw [show encode _ = encR 18#6 (encOpt d) 1#3 (encSrc b) (encSrc a) from rfl, opOf_encR]; decide) ?_
  change decodeWord _ (encR 18#6 (encOpt d) 1#3 (encSrc b) (encSrc a)) = _
  refine (decodeWord_vector u _).trans ?_
  delta decodeVector; rw [opOf_encR, fnOf_encR, bOf_encR]
  exact decDAB_enc (dOpt_enc d (by decide)) _ _ _

theorem vmulZ32 (u : VU) (d : Option (Fin 32)) (a : Src) (b : Src) : Statement (.vmulZ32 u d a b) := by
  refine statement_of rfl rfl (by rw [show encode _ = encR 18#6 (encOpt d) 2#3 (encSrc b) (encSrc a) from rfl, opOf_encR]; decide) ?_
  change decodeWord _ (encR 18#6 (encOpt d) 2#3 (encSrc b) (encSrc a)) = _
  refine (decodeWord_vector u _).trans ?_
  delta decodeVector; rw [opOf_encR, fnOf_encR, bOf_encR]
  exact decDAB_enc (dOpt_enc d (by decide)) _ _ _

theorem vminZ32 (u : VU) (d : Option (Fin 32)) (a : Src) (b : Src) : Statement (.vminZ32 u d a b) := by
  refine statement_of rfl rfl (by rw [show encode _ = encR 18#6 (encOpt d) 3#3 (encSrc b) (encSrc a) from rfl, opOf_encR]; decide) ?_
  change decodeWord _ (encR 18#6 (encOpt d) 3#3 (encSrc b) (encSrc a)) = _
  refine (decodeWord_vector u _).trans ?_
  delta decodeVector; rw [opOf_encR, fnOf_encR, bOf_encR]
  exact decDAB_enc (dOpt_enc d (by decide)) _ _ _

theorem vmaxZ32 (u : VU) (d : Option (Fin 32)) (a : Src) (b : Src) : Statement (.vmaxZ32 u d a b) := by
  refine statement_of rfl rfl (by rw [show encode _ = encR 18#6 (encOpt d) 4#3 (encSrc b) (encSrc a) from rfl, opOf_encR]; decide) ?_
  change decodeWord _ (encR 18#6 (encOpt d) 4#3 (encSrc b) (encSrc a)) = _
  refine (decodeWord_vector u _).trans ?_
  delta decodeVector; rw [opOf_encR, fnOf_encR, bOf_encR]
  exact decDAB_enc (dOpt_enc d (by decide)) _ _ _

theorem vaddsZ32 (u : VU) (d : Option (Fin 32)) (a : Src) (b : Src) : Statement (.vaddsZ32 u d a b) := by
  refine statement_of rfl rfl (by rw [show encode _ = encR 18#6 (encOpt d) 5#3 (encSrc b) (encSrc a) from rfl, opOf_encR]; decide) ?_
  change decodeWord _ (encR 18#6 (encOpt d) 5#3 (encSrc b) (encSrc a)) = _
  refine (decodeWord_vector u _).trans ?_
  delta decodeVector; rw [opOf_encR, fnOf_encR, bOf_encR]
  exact decDAB_enc (dOpt_enc d (by decide)) _ _ _

theorem vsubsZ32 (u : VU) (d : Option (Fin 32)) (a : Src) (b : Src) : Statement (.vsubsZ32 u d a b) := by
  refine statement_of rfl rfl (by rw [show encode _ = encR 18#6 (encOpt d) 6#3 (encSrc b) (encSrc a) from rfl, opOf_encR]; decide) ?_
  change decodeWord _ (encR 18#6 (encOpt d) 6#3 (encSrc b) (encSrc a)) = _
  refine (decodeWord_vector u _).trans ?_
  delta decodeVector; rw [opOf_encR, fnOf_encR, bOf_encR]
  exact decDAB_enc (dOpt_enc d (by decide)) _ _ _

theorem vand (u : VU) (d : Option (Fin 32)) (a : Src) (b : Src) : Statement (.vand u d a b) := by
  refine statement_of rfl rfl (by rw [show encode _ = encR 19#6 (encOpt d) 0#3 (encSrc b) (encSrc a) from rfl, opOf_encR]; decide) ?_
  change decodeWord _ (encR 19#6 (encOpt d) 0#3 (encSrc b) (encSrc a)) = _
  refine (decodeWord_vector u _).trans ?_
  delta decodeVector; rw [opOf_encR, fnOf_encR, bOf_encR]
  exact decDAB_enc (dOpt_enc d (by decide)) _ _ _

theorem vor (u : VU) (d : Option (Fin 32)) (a : Src) (b : Src) : Statement (.vor u d a b) := by
  refine statement_of rfl rfl (by rw [show encode _ = encR 19#6 (encOpt d) 1#3 (encSrc b) (encSrc a) from rfl, opOf_encR]; decide) ?_
  change decodeWord _ (encR 19#6 (encOpt d) 1#3 (encSrc b) (encSrc a)) = _
  refine (decodeWord_vector u _).trans ?_
  delta decodeVector; rw [opOf_encR, fnOf_encR, bOf_encR]
  exact decDAB_enc (dOpt_enc d (by decide)) _ _ _

theorem vxor (u : VU) (d : Option (Fin 32)) (a : Src) (b : Src) : Statement (.vxor u d a b) := by
  refine statement_of rfl rfl (by rw [show encode _ = encR 19#6 (encOpt d) 2#3 (encSrc b) (encSrc a) from rfl, opOf_encR]; decide) ?_
  change decodeWord _ (encR 19#6 (encOpt d) 2#3 (encSrc b) (encSrc a)) = _
  refine (decodeWord_vector u _).trans ?_
  delta decodeVector; rw [opOf_encR, fnOf_encR, bOf_encR]
  exact decDAB_enc (dOpt_enc d (by decide)) _ _ _

theorem vandn (u : VU) (d : Option (Fin 32)) (a : Src) (b : Src) : Statement (.vandn u d a b) := by
  refine statement_of rfl rfl (by rw [show encode _ = encR 19#6 (encOpt d) 3#3 (encSrc b) (encSrc a) from rfl, opOf_encR]; decide) ?_
  change decodeWord _ (encR 19#6 (encOpt d) 3#3 (encSrc b) (encSrc a)) = _
  refine (decodeWord_vector u _).trans ?_
  delta decodeVector; rw [opOf_encR, fnOf_encR, bOf_encR]
  exact decDAB_enc (dOpt_enc d (by decide)) _ _ _

theorem vnot (u : VU) (d : Option (Fin 32)) (a : Src) : Statement (.vnot u d a) := by
  refine statement_of rfl rfl (by rw [show encode _ = encR 19#6 (encOpt d) 4#3 0#8 (encSrc a) from rfl, opOf_encR]; decide) ?_
  change decodeWord _ (encR 19#6 (encOpt d) 4#3 0#8 (encSrc a)) = _
  refine (decodeWord_vector u _).trans ?_
  delta decodeVector; rw [opOf_encR, fnOf_encR, bOf_encR]
  exact decDA_enc (dOpt_enc d (by decide)) _ _

theorem vshlW16 (u : VU) (d : Option (Fin 32)) (a : Src) (b : Src) : Statement (.vshlW16 u d a b) := by
  refine statement_of rfl rfl (by rw [show encode _ = encR 20#6 (encOpt d) 0#3 (encSrc b) (encSrc a) from rfl, opOf_encR]; decide) ?_
  change decodeWord _ (encR 20#6 (encOpt d) 0#3 (encSrc b) (encSrc a)) = _
  refine (decodeWord_vector u _).trans ?_
  delta decodeVector; rw [opOf_encR, fnOf_encR, bOf_encR]
  exact decDAB_enc (dOpt_enc d (by decide)) _ _ _

theorem vshrW16 (u : VU) (d : Option (Fin 32)) (a : Src) (b : Src) : Statement (.vshrW16 u d a b) := by
  refine statement_of rfl rfl (by rw [show encode _ = encR 20#6 (encOpt d) 1#3 (encSrc b) (encSrc a) from rfl, opOf_encR]; decide) ?_
  change decodeWord _ (encR 20#6 (encOpt d) 1#3 (encSrc b) (encSrc a)) = _
  refine (decodeWord_vector u _).trans ?_
  delta decodeVector; rw [opOf_encR, fnOf_encR, bOf_encR]
  exact decDAB_enc (dOpt_enc d (by decide)) _ _ _

theorem vsarW16 (u : VU) (d : Option (Fin 32)) (a : Src) (b : Src) : Statement (.vsarW16 u d a b) := by
  refine statement_of rfl rfl (by rw [show encode _ = encR 20#6 (encOpt d) 2#3 (encSrc b) (encSrc a) from rfl, opOf_encR]; decide) ?_
  change decodeWord _ (encR 20#6 (encOpt d) 2#3 (encSrc b) (encSrc a)) = _
  refine (decodeWord_vector u _).trans ?_
  delta decodeVector; rw [opOf_encR, fnOf_encR, bOf_encR]
  exact decDAB_enc (dOpt_enc d (by decide)) _ _ _

theorem vshlW32 (u : VU) (d : Option (Fin 32)) (a : Src) (b : Src) : Statement (.vshlW32 u d a b) := by
  refine statement_of rfl rfl (by rw [show encode _ = encR 20#6 (encOpt d) 4#3 (encSrc b) (encSrc a) from rfl, opOf_encR]; decide) ?_
  change decodeWord _ (encR 20#6 (encOpt d) 4#3 (encSrc b) (encSrc a)) = _
  refine (decodeWord_vector u _).trans ?_
  delta decodeVector; rw [opOf_encR, fnOf_encR, bOf_encR]
  exact decDAB_enc (dOpt_enc d (by decide)) _ _ _

theorem vshrW32 (u : VU) (d : Option (Fin 32)) (a : Src) (b : Src) : Statement (.vshrW32 u d a b) := by
  refine statement_of rfl rfl (by rw [show encode _ = encR 20#6 (encOpt d) 5#3 (encSrc b) (encSrc a) from rfl, opOf_encR]; decide) ?_
  change decodeWord _ (encR 20#6 (encOpt d) 5#3 (encSrc b) (encSrc a)) = _
  refine (decodeWord_vector u _).trans ?_
  delta decodeVector; rw [opOf_encR, fnOf_encR, bOf_encR]
  exact decDAB_enc (dOpt_enc d (by decide)) _ _ _

theorem vsarW32 (u : VU) (d : Option (Fin 32)) (a : Src) (b : Src) : Statement (.vsarW32 u d a b) := by
  refine statement_of rfl rfl (by rw [show encode _ = encR 20#6 (encOpt d) 6#3 (encSrc b) (encSrc a) from rfl, opOf_encR]; decide) ?_
  change decodeWord _ (encR 20#6 (encOpt d) 6#3 (encSrc b) (encSrc a)) = _
  refine (decodeWord_vector u _).trans ?_
  delta decodeVector; rw [opOf_encR, fnOf_encR, bOf_encR]
  exact decDAB_enc (dOpt_enc d (by decide)) _ _ _

theorem vceqF32 (u : VU) (d : Option (Fin 24)) (a : Src) (b : Src) : Statement (.vceqF32 u d a b) := by
  refine statement_of rfl rfl (by rw [show encode _ = encR 21#6 (encOpt d) 0#3 (encSrc b) (encSrc a) from rfl, opOf_encR]; decide) ?_
  change decodeWord _ (encR 21#6 (encOpt d) 0#3 (encSrc b) (encSrc a)) = _
  refine (decodeWord_vector u _).trans ?_
  delta decodeVector; rw [opOf_encR, fnOf_encR, bOf_encR]
  exact decDAB_enc (dOpt_enc d (by decide)) _ _ _

theorem vcneF32 (u : VU) (d : Option (Fin 24)) (a : Src) (b : Src) : Statement (.vcneF32 u d a b) := by
  refine statement_of rfl rfl (by rw [show encode _ = encR 21#6 (encOpt d) 1#3 (encSrc b) (encSrc a) from rfl, opOf_encR]; decide) ?_
  change decodeWord _ (encR 21#6 (encOpt d) 1#3 (encSrc b) (encSrc a)) = _
  refine (decodeWord_vector u _).trans ?_
  delta decodeVector; rw [opOf_encR, fnOf_encR, bOf_encR]
  exact decDAB_enc (dOpt_enc d (by decide)) _ _ _

theorem vcltF32 (u : VU) (d : Option (Fin 24)) (a : Src) (b : Src) : Statement (.vcltF32 u d a b) := by
  refine statement_of rfl rfl (by rw [show encode _ = encR 21#6 (encOpt d) 2#3 (encSrc b) (encSrc a) from rfl, opOf_encR]; decide) ?_
  change decodeWord _ (encR 21#6 (encOpt d) 2#3 (encSrc b) (encSrc a)) = _
  refine (decodeWord_vector u _).trans ?_
  delta decodeVector; rw [opOf_encR, fnOf_encR, bOf_encR]
  exact decDAB_enc (dOpt_enc d (by decide)) _ _ _

theorem vcleF32 (u : VU) (d : Option (Fin 24)) (a : Src) (b : Src) : Statement (.vcleF32 u d a b) := by
  refine statement_of rfl rfl (by rw [show encode _ = encR 21#6 (encOpt d) 3#3 (encSrc b) (encSrc a) from rfl, opOf_encR]; decide) ?_
  change decodeWord _ (encR 21#6 (encOpt d) 3#3 (encSrc b) (encSrc a)) = _
  refine (decodeWord_vector u _).trans ?_
  delta decodeVector; rw [opOf_encR, fnOf_encR, bOf_encR]
  exact decDAB_enc (dOpt_enc d (by decide)) _ _ _

theorem vcunF32 (u : VU) (d : Option (Fin 24)) (a : Src) (b : Src) : Statement (.vcunF32 u d a b) := by
  refine statement_of rfl rfl (by rw [show encode _ = encR 21#6 (encOpt d) 4#3 (encSrc b) (encSrc a) from rfl, opOf_encR]; decide) ?_
  change decodeWord _ (encR 21#6 (encOpt d) 4#3 (encSrc b) (encSrc a)) = _
  refine (decodeWord_vector u _).trans ?_
  delta decodeVector; rw [opOf_encR, fnOf_encR, bOf_encR]
  exact decDAB_enc (dOpt_enc d (by decide)) _ _ _

theorem vceqBf16 (u : VU) (d : Option (Fin 24)) (a : Src) (b : Src) : Statement (.vceqBf16 u d a b) := by
  refine statement_of rfl rfl (by rw [show encode _ = encR 22#6 (encOpt d) 0#3 (encSrc b) (encSrc a) from rfl, opOf_encR]; decide) ?_
  change decodeWord _ (encR 22#6 (encOpt d) 0#3 (encSrc b) (encSrc a)) = _
  refine (decodeWord_vector u _).trans ?_
  delta decodeVector; rw [opOf_encR, fnOf_encR, bOf_encR]
  exact decDAB_enc (dOpt_enc d (by decide)) _ _ _

theorem vcneBf16 (u : VU) (d : Option (Fin 24)) (a : Src) (b : Src) : Statement (.vcneBf16 u d a b) := by
  refine statement_of rfl rfl (by rw [show encode _ = encR 22#6 (encOpt d) 1#3 (encSrc b) (encSrc a) from rfl, opOf_encR]; decide) ?_
  change decodeWord _ (encR 22#6 (encOpt d) 1#3 (encSrc b) (encSrc a)) = _
  refine (decodeWord_vector u _).trans ?_
  delta decodeVector; rw [opOf_encR, fnOf_encR, bOf_encR]
  exact decDAB_enc (dOpt_enc d (by decide)) _ _ _

theorem vcltBf16 (u : VU) (d : Option (Fin 24)) (a : Src) (b : Src) : Statement (.vcltBf16 u d a b) := by
  refine statement_of rfl rfl (by rw [show encode _ = encR 22#6 (encOpt d) 2#3 (encSrc b) (encSrc a) from rfl, opOf_encR]; decide) ?_
  change decodeWord _ (encR 22#6 (encOpt d) 2#3 (encSrc b) (encSrc a)) = _
  refine (decodeWord_vector u _).trans ?_
  delta decodeVector; rw [opOf_encR, fnOf_encR, bOf_encR]
  exact decDAB_enc (dOpt_enc d (by decide)) _ _ _

theorem vcleBf16 (u : VU) (d : Option (Fin 24)) (a : Src) (b : Src) : Statement (.vcleBf16 u d a b) := by
  refine statement_of rfl rfl (by rw [show encode _ = encR 22#6 (encOpt d) 3#3 (encSrc b) (encSrc a) from rfl, opOf_encR]; decide) ?_
  change decodeWord _ (encR 22#6 (encOpt d) 3#3 (encSrc b) (encSrc a)) = _
  refine (decodeWord_vector u _).trans ?_
  delta decodeVector; rw [opOf_encR, fnOf_encR, bOf_encR]
  exact decDAB_enc (dOpt_enc d (by decide)) _ _ _

theorem vcunBf16 (u : VU) (d : Option (Fin 24)) (a : Src) (b : Src) : Statement (.vcunBf16 u d a b) := by
  refine statement_of rfl rfl (by rw [show encode _ = encR 22#6 (encOpt d) 4#3 (encSrc b) (encSrc a) from rfl, opOf_encR]; decide) ?_
  change decodeWord _ (encR 22#6 (encOpt d) 4#3 (encSrc b) (encSrc a)) = _
  refine (decodeWord_vector u _).trans ?_
  delta decodeVector; rw [opOf_encR, fnOf_encR, bOf_encR]
  exact decDAB_enc (dOpt_enc d (by decide)) _ _ _

theorem vceqW16 (u : VU) (d : Option (Fin 24)) (a : Src) (b : Src) : Statement (.vceqW16 u d a b) := by
  refine statement_of rfl rfl (by rw [show encode _ = encR 23#6 (encOpt d) 0#3 (encSrc b) (encSrc a) from rfl, opOf_encR]; decide) ?_
  change decodeWord _ (encR 23#6 (encOpt d) 0#3 (encSrc b) (encSrc a)) = _
  refine (decodeWord_vector u _).trans ?_
  delta decodeVector; rw [opOf_encR, fnOf_encR, bOf_encR]
  exact decDAB_enc (dOpt_enc d (by decide)) _ _ _

theorem vcneW16 (u : VU) (d : Option (Fin 24)) (a : Src) (b : Src) : Statement (.vcneW16 u d a b) := by
  refine statement_of rfl rfl (by rw [show encode _ = encR 23#6 (encOpt d) 1#3 (encSrc b) (encSrc a) from rfl, opOf_encR]; decide) ?_
  change decodeWord _ (encR 23#6 (encOpt d) 1#3 (encSrc b) (encSrc a)) = _
  refine (decodeWord_vector u _).trans ?_
  delta decodeVector; rw [opOf_encR, fnOf_encR, bOf_encR]
  exact decDAB_enc (dOpt_enc d (by decide)) _ _ _

theorem vcltI16 (u : VU) (d : Option (Fin 24)) (a : Src) (b : Src) : Statement (.vcltI16 u d a b) := by
  refine statement_of rfl rfl (by rw [show encode _ = encR 23#6 (encOpt d) 2#3 (encSrc b) (encSrc a) from rfl, opOf_encR]; decide) ?_
  change decodeWord _ (encR 23#6 (encOpt d) 2#3 (encSrc b) (encSrc a)) = _
  refine (decodeWord_vector u _).trans ?_
  delta decodeVector; rw [opOf_encR, fnOf_encR, bOf_encR]
  exact decDAB_enc (dOpt_enc d (by decide)) _ _ _

theorem vcleI16 (u : VU) (d : Option (Fin 24)) (a : Src) (b : Src) : Statement (.vcleI16 u d a b) := by
  refine statement_of rfl rfl (by rw [show encode _ = encR 23#6 (encOpt d) 3#3 (encSrc b) (encSrc a) from rfl, opOf_encR]; decide) ?_
  change decodeWord _ (encR 23#6 (encOpt d) 3#3 (encSrc b) (encSrc a)) = _
  refine (decodeWord_vector u _).trans ?_
  delta decodeVector; rw [opOf_encR, fnOf_encR, bOf_encR]
  exact decDAB_enc (dOpt_enc d (by decide)) _ _ _

theorem vcltZ16 (u : VU) (d : Option (Fin 24)) (a : Src) (b : Src) : Statement (.vcltZ16 u d a b) := by
  refine statement_of rfl rfl (by rw [show encode _ = encR 23#6 (encOpt d) 4#3 (encSrc b) (encSrc a) from rfl, opOf_encR]; decide) ?_
  change decodeWord _ (encR 23#6 (encOpt d) 4#3 (encSrc b) (encSrc a)) = _
  refine (decodeWord_vector u _).trans ?_
  delta decodeVector; rw [opOf_encR, fnOf_encR, bOf_encR]
  exact decDAB_enc (dOpt_enc d (by decide)) _ _ _

theorem vcleZ16 (u : VU) (d : Option (Fin 24)) (a : Src) (b : Src) : Statement (.vcleZ16 u d a b) := by
  refine statement_of rfl rfl (by rw [show encode _ = encR 23#6 (encOpt d) 5#3 (encSrc b) (encSrc a) from rfl, opOf_encR]; decide) ?_
  change decodeWord _ (encR 23#6 (encOpt d) 5#3 (encSrc b) (encSrc a)) = _
  refine (decodeWord_vector u _).trans ?_
  delta decodeVector; rw [opOf_encR, fnOf_encR, bOf_encR]
  exact decDAB_enc (dOpt_enc d (by decide)) _ _ _

theorem vceqW32 (u : VU) (d : Option (Fin 24)) (a : Src) (b : Src) : Statement (.vceqW32 u d a b) := by
  refine statement_of rfl rfl (by rw [show encode _ = encR 24#6 (encOpt d) 0#3 (encSrc b) (encSrc a) from rfl, opOf_encR]; decide) ?_
  change decodeWord _ (encR 24#6 (encOpt d) 0#3 (encSrc b) (encSrc a)) = _
  refine (decodeWord_vector u _).trans ?_
  delta decodeVector; rw [opOf_encR, fnOf_encR, bOf_encR]
  exact decDAB_enc (dOpt_enc d (by decide)) _ _ _

theorem vcneW32 (u : VU) (d : Option (Fin 24)) (a : Src) (b : Src) : Statement (.vcneW32 u d a b) := by
  refine statement_of rfl rfl (by rw [show encode _ = encR 24#6 (encOpt d) 1#3 (encSrc b) (encSrc a) from rfl, opOf_encR]; decide) ?_
  change decodeWord _ (encR 24#6 (encOpt d) 1#3 (encSrc b) (encSrc a)) = _
  refine (decodeWord_vector u _).trans ?_
  delta decodeVector; rw [opOf_encR, fnOf_encR, bOf_encR]
  exact decDAB_enc (dOpt_enc d (by decide)) _ _ _

theorem vcltI32 (u : VU) (d : Option (Fin 24)) (a : Src) (b : Src) : Statement (.vcltI32 u d a b) := by
  refine statement_of rfl rfl (by rw [show encode _ = encR 24#6 (encOpt d) 2#3 (encSrc b) (encSrc a) from rfl, opOf_encR]; decide) ?_
  change decodeWord _ (encR 24#6 (encOpt d) 2#3 (encSrc b) (encSrc a)) = _
  refine (decodeWord_vector u _).trans ?_
  delta decodeVector; rw [opOf_encR, fnOf_encR, bOf_encR]
  exact decDAB_enc (dOpt_enc d (by decide)) _ _ _

theorem vcleI32 (u : VU) (d : Option (Fin 24)) (a : Src) (b : Src) : Statement (.vcleI32 u d a b) := by
  refine statement_of rfl rfl (by rw [show encode _ = encR 24#6 (encOpt d) 3#3 (encSrc b) (encSrc a) from rfl, opOf_encR]; decide) ?_
  change decodeWord _ (encR 24#6 (encOpt d) 3#3 (encSrc b) (encSrc a)) = _
  refine (decodeWord_vector u _).trans ?_
  delta decodeVector; rw [opOf_encR, fnOf_encR, bOf_encR]
  exact decDAB_enc (dOpt_enc d (by decide)) _ _ _

theorem vcltZ32 (u : VU) (d : Option (Fin 24)) (a : Src) (b : Src) : Statement (.vcltZ32 u d a b) := by
  refine statement_of rfl rfl (by rw [show encode _ = encR 24#6 (encOpt d) 4#3 (encSrc b) (encSrc a) from rfl, opOf_encR]; decide) ?_
  change decodeWord _ (encR 24#6 (encOpt d) 4#3 (encSrc b) (encSrc a)) = _
  refine (decodeWord_vector u _).trans ?_
  delta decodeVector; rw [opOf_encR, fnOf_encR, bOf_encR]
  exact decDAB_enc (dOpt_enc d (by decide)) _ _ _

theorem vcleZ32 (u : VU) (d : Option (Fin 24)) (a : Src) (b : Src) : Statement (.vcleZ32 u d a b) := by
  refine statement_of rfl rfl (by rw [show encode _ = encR 24#6 (encOpt d) 5#3 (encSrc b) (encSrc a) from rfl, opOf_encR]; decide) ?_
  change decodeWord _ (encR 24#6 (encOpt d) 5#3 (encSrc b) (encSrc a)) = _
  refine (decodeWord_vector u _).trans ?_
  delta decodeVector; rw [opOf_encR, fnOf_encR, bOf_encR]
  exact decDAB_enc (dOpt_enc d (by decide)) _ _ _

theorem sel (u : VU) (d : Option (Fin 32)) (g : Fin 8) (a : Src) (b : Src) : Statement (.sel u d g a b) := by
  refine statement_of rfl rfl (by rw [show encode _ = encR 25#6 (encOpt d) (encFin 3 g) (encSrc b) (encSrc a) from rfl, opOf_encR]; decide) ?_
  change decodeWord _ (encR 25#6 (encOpt d) (encFin 3 g) (encSrc b) (encSrc a)) = _
  refine (decodeWord_vector u _).trans ?_
  delta decodeVector; rw [opOf_encR, fnOf_encR, bOf_encR, finOf_encFin]
  exact decDAB_enc (dOpt_enc d (by decide)) _ _ _

theorem perm (u : VU) (d : Option (Fin 32)) (a : Src) (b : Src) : Statement (.perm u d a b) := by
  refine statement_of rfl rfl (by rw [show encode _ = encR 26#6 (encOpt d) 0#3 (encSrc b) (encSrc a) from rfl, opOf_encR]; decide) ?_
  change decodeWord _ (encR 26#6 (encOpt d) 0#3 (encSrc b) (encSrc a)) = _
  refine (decodeWord_vector u _).trans ?_
  delta decodeVector; rw [opOf_encR, fnOf_encR, bOf_encR]
  exact decDAB_enc (dOpt_enc d (by decide)) _ _ _

theorem rot (u : VU) (d : Option (Fin 32)) (a : Src) (b : Src) : Statement (.rot u d a b) := by
  refine statement_of rfl rfl (by rw [show encode _ = encR 26#6 (encOpt d) 1#3 (encSrc b) (encSrc a) from rfl, opOf_encR]; decide) ?_
  change decodeWord _ (encR 26#6 (encOpt d) 1#3 (encSrc b) (encSrc a)) = _
  refine (decodeWord_vector u _).trans ?_
  delta decodeVector; rw [opOf_encR, fnOf_encR, bOf_encR]
  exact decDAB_enc (dOpt_enc d (by decide)) _ _ _

theorem bcast (u : VU) (d : Option (Fin 32)) (a : Src) (b : Src) : Statement (.bcast u d a b) := by
  refine statement_of rfl rfl (by rw [show encode _ = encR 26#6 (encOpt d) 2#3 (encSrc b) (encSrc a) from rfl, opOf_encR]; decide) ?_
  change decodeWord _ (encR 26#6 (encOpt d) 2#3 (encSrc b) (encSrc a)) = _
  refine (decodeWord_vector u _).trans ?_
  delta decodeVector; rw [opOf_encR, fnOf_encR, bOf_encR]
  exact decDAB_enc (dOpt_enc d (by decide)) _ _ _

theorem zip (u : VU) (d : Option (Fin 32)) (a : Src) (b : Src) : Statement (.zip u d a b) := by
  refine statement_of rfl rfl (by rw [show encode _ = encR 26#6 (encOpt d) 3#3 (encSrc b) (encSrc a) from rfl, opOf_encR]; decide) ?_
  change decodeWord _ (encR 26#6 (encOpt d) 3#3 (encSrc b) (encSrc a)) = _
  refine (decodeWord_vector u _).trans ?_
  delta decodeVector; rw [opOf_encR, fnOf_encR, bOf_encR]
  exact decDAB_enc (dOpt_enc d (by decide)) _ _ _

theorem unzip (u : VU) (d : Option (Fin 32)) (a : Src) (b : Src) : Statement (.unzip u d a b) := by
  refine statement_of rfl rfl (by rw [show encode _ = encR 26#6 (encOpt d) 4#3 (encSrc b) (encSrc a) from rfl, opOf_encR]; decide) ?_
  change decodeWord _ (encR 26#6 (encOpt d) 4#3 (encSrc b) (encSrc a)) = _
  refine (decodeWord_vector u _).trans ?_
  delta decodeVector; rw [opOf_encR, fnOf_encR, bOf_encR]
  exact decDAB_enc (dOpt_enc d (by decide)) _ _ _

theorem bcastW32 (u : VU) (d : Option (Fin 32)) (a : Src) (b : Src) : Statement (.bcastW32 u d a b) := by
  refine statement_of rfl rfl (by rw [show encode _ = encR 26#6 (encOpt d) 5#3 (encSrc b) (encSrc a) from rfl, opOf_encR]; decide) ?_
  change decodeWord _ (encR 26#6 (encOpt d) 5#3 (encSrc b) (encSrc a)) = _
  refine (decodeWord_vector u _).trans ?_
  delta decodeVector; rw [opOf_encR, fnOf_encR, bOf_encR]
  exact decDAB_enc (dOpt_enc d (by decide)) _ _ _

theorem permW32 (u : VU) (d : Option (Fin 32)) (a : Src) (b : Src) : Statement (.permW32 u d a b) := by
  refine statement_of rfl rfl (by rw [show encode _ = encR 26#6 (encOpt d) 6#3 (encSrc b) (encSrc a) from rfl, opOf_encR]; decide) ?_
  change decodeWord _ (encR 26#6 (encOpt d) 6#3 (encSrc b) (encSrc a)) = _
  refine (decodeWord_vector u _).trans ?_
  delta decodeVector; rw [opOf_encR, fnOf_encR, bOf_encR]
  exact decDAB_enc (dOpt_enc d (by decide)) _ _ _

theorem raddF32 (u : VU) (d : Option (Fin 64)) (g : Fin 8) (a : Src) (b : BitVec 8) : Statement (.raddF32 u d g a b) := by
  refine statement_of rfl rfl (by rw [show encode _ = encR 27#6 (encOpt d) (encFin 3 g) b (encSrc a) from rfl, opOf_encR]; decide) ?_
  change decodeWord _ (encR 27#6 (encOpt d) (encFin 3 g) b (encSrc a)) = _
  refine (decodeWord_vector u _).trans ?_
  delta decodeVector; rw [opOf_encR, fnOf_encR, bOf_encR, finOf_encFin]
  exact decDAm_enc (dOpt_enc d (by decide)) _ _ _

theorem raddBf16 (u : VU) (d : Option (Fin 64)) (g : Fin 8) (a : Src) (b : BitVec 8) : Statement (.raddBf16 u d g a b) := by
  refine statement_of rfl rfl (by rw [show encode _ = encR 28#6 (encOpt d) (encFin 3 g) b (encSrc a) from rfl, opOf_encR]; decide) ?_
  change decodeWord _ (encR 28#6 (encOpt d) (encFin 3 g) b (encSrc a)) = _
  refine (decodeWord_vector u _).trans ?_
  delta decodeVector; rw [opOf_encR, fnOf_encR, bOf_encR, finOf_encFin]
  exact decDAm_enc (dOpt_enc d (by decide)) _ _ _

theorem raddInt (u : VU) (d : Option (Fin 64)) (g : Fin 8) (a : Src) (b : BitVec 8) : Statement (.raddInt u d g a b) := by
  refine statement_of rfl rfl (by rw [show encode _ = encR 29#6 (encOpt d) (encFin 3 g) b (encSrc a) from rfl, opOf_encR]; decide) ?_
  change decodeWord _ (encR 29#6 (encOpt d) (encFin 3 g) b (encSrc a)) = _
  refine (decodeWord_vector u _).trans ?_
  delta decodeVector; rw [opOf_encR, fnOf_encR, bOf_encR, finOf_encFin]
  exact decDAm_enc (dOpt_enc d (by decide)) _ _ _

theorem rdotF32 (u : VU) (d : Option (Fin 64)) (g : Fin 8) (a : Src) (b : Src) : Statement (.rdotF32 u d g a b) := by
  refine statement_of rfl rfl (by rw [show encode _ = encR 30#6 (encOpt d) (encFin 3 g) (encSrc b) (encSrc a) from rfl, opOf_encR]; decide) ?_
  change decodeWord _ (encR 30#6 (encOpt d) (encFin 3 g) (encSrc b) (encSrc a)) = _
  refine (decodeWord_vector u _).trans ?_
  delta decodeVector; rw [opOf_encR, fnOf_encR, bOf_encR, finOf_encFin]
  exact decDAB_enc (dOpt_enc d (by decide)) _ _ _

theorem rdotBf16 (u : VU) (d : Option (Fin 64)) (g : Fin 8) (a : Src) (b : Src) : Statement (.rdotBf16 u d g a b) := by
  refine statement_of rfl rfl (by rw [show encode _ = encR 31#6 (encOpt d) (encFin 3 g) (encSrc b) (encSrc a) from rfl, opOf_encR]; decide) ?_
  change decodeWord _ (encR 31#6 (encOpt d) (encFin 3 g) (encSrc b) (encSrc a)) = _
  refine (decodeWord_vector u _).trans ?_
  delta decodeVector; rw [opOf_encR, fnOf_encR, bOf_encR, finOf_encFin]
  exact decDAB_enc (dOpt_enc d (by decide)) _ _ _

theorem rmax (u : VU) (d : Option (Fin 64)) (g : Fin 8) (a : Src) (b : BitVec 8) : Statement (.rmax u d g a b) := by
  refine statement_of rfl rfl (by rw [show encode _ = encR 32#6 (encOpt d) (encFin 3 g) b (encSrc a) from rfl, opOf_encR]; decide) ?_
  change decodeWord _ (encR 32#6 (encOpt d) (encFin 3 g) b (encSrc a)) = _
  refine (decodeWord_vector u _).trans ?_
  delta decodeVector; rw [opOf_encR, fnOf_encR, bOf_encR, finOf_encFin]
  exact decDAm_enc (dOpt_enc d (by decide)) _ _ _

theorem rmin (u : VU) (d : Option (Fin 64)) (g : Fin 8) (a : Src) (b : BitVec 8) : Statement (.rmin u d g a b) := by
  refine statement_of rfl rfl (by rw [show encode _ = encR 33#6 (encOpt d) (encFin 3 g) b (encSrc a) from rfl, opOf_encR]; decide) ?_
  change decodeWord _ (encR 33#6 (encOpt d) (encFin 3 g) b (encSrc a)) = _
  refine (decodeWord_vector u _).trans ?_
  delta decodeVector; rw [opOf_encR, fnOf_encR, bOf_encR, finOf_encFin]
  exact decDAm_enc (dOpt_enc d (by decide)) _ _ _

theorem cvt (u : VU) (d : Fin 32) (st : BitVec 4) (rm : BitVec 3) (sat : Bool) (dt : BitVec 4) (a : Src) : Statement (.cvt u d st rm sat dt a) := by
  refine statement_of rfl rfl (by rw [show encode _ = encVC 35#6 (encFin 5 d) st rm (BitVec.ofBool sat) dt (encSrc a) from rfl, opOf_encVC]; decide) ?_
  change decodeWord _ (encVC 35#6 (encFin 5 d) st rm (BitVec.ofBool sat) dt (encSrc a)) = _
  refine (decodeWord_vector u _).trans ?_
  delta decodeVector; rw [opOf_encVC, vdOf_encVC, stOf_encVC, rmOf_encVC, satOf_encVC, dtOf_encVC, vresOf_encVC, aOf_encVC, finOf_encFin]
  rw [decSrc_encSrc]; cases sat <;> rfl

theorem rcupd (u : VU) (d : Option (Fin 64)) (a : Src) (b : Src) : Statement (.rcupd u d a b) := by
  refine statement_of rfl rfl (by rw [show encode _ = encR 36#6 (encOpt d) 0#3 (encSrc b) (encSrc a) from rfl, opOf_encR]; decide) ?_
  change decodeWord _ (encR 36#6 (encOpt d) 0#3 (encSrc b) (encSrc a)) = _
  refine (decodeWord_vector u _).trans ?_
  delta decodeVector; rw [opOf_encR, fnOf_encR, bOf_encR]
  exact decDAB_enc (dOpt_enc d (by decide)) _ _ _

theorem rcrd (u : VU) (d : Option (Fin 32)) (b : Src) : Statement (.rcrd u d b) := by
  refine statement_of rfl rfl (by rw [show encode _ = encR 36#6 (encOpt d) 1#3 (encSrc b) 0#8 from rfl, opOf_encR]; decide) ?_
  change decodeWord _ (encR 36#6 (encOpt d) 1#3 (encSrc b) 0#8) = _
  refine (decodeWord_vector u _).trans ?_
  delta decodeVector; rw [opOf_encR, fnOf_encR, bOf_encR]
  exact decDB_enc (dOpt_enc d (by decide)) _ _

theorem rcwr (u : VU) (d : Option (Fin 32)) (a : Src) (b : Src) : Statement (.rcwr u d a b) := by
  refine statement_of rfl rfl (by rw [show encode _ = encR 36#6 (encOpt d) 2#3 (encSrc b) (encSrc a) from rfl, opOf_encR]; decide) ?_
  change decodeWord _ (encR 36#6 (encOpt d) 2#3 (encSrc b) (encSrc a)) = _
  refine (decodeWord_vector u _).trans ?_
  delta decodeVector; rw [opOf_encR, fnOf_encR, bOf_encR]
  exact decDAB_enc (dOpt_enc d (by decide)) _ _ _

theorem exit (u : VU) (d : Option (Fin 64)) (a : Src) (b : Src) : Statement (.exit u d a b) := by
  refine statement_of rfl rfl (by rw [show encode _ = encR 36#6 (encOpt d) 3#3 (encSrc b) (encSrc a) from rfl, opOf_encR]; decide) ?_
  change decodeWord _ (encR 36#6 (encOpt d) 3#3 (encSrc b) (encSrc a)) = _
  refine (decodeWord_vector u _).trans ?_
  delta decodeVector; rw [opOf_encR, fnOf_encR, bOf_encR]
  exact decDAB_enc (dOpt_enc d (by decide)) _ _ _

theorem recurse (u : VU) (d : Option (Fin 64)) (b : Src) : Statement (.recurse u d b) := by
  refine statement_of rfl rfl (by rw [show encode _ = encR 36#6 (encOpt d) 4#3 (encSrc b) 0#8 from rfl, opOf_encR]; decide) ?_
  change decodeWord _ (encR 36#6 (encOpt d) 4#3 (encSrc b) 0#8) = _
  refine (decodeWord_vector u _).trans ?_
  delta decodeVector; rw [opOf_encR, fnOf_encR, bOf_encR]
  exact decDB_enc (dOpt_enc d (by decide)) _ _

theorem exitC (u : VU) (d : Option (Fin 64)) (b : Src) : Statement (.exitC u d b) := by
  refine statement_of rfl rfl (by rw [show encode _ = encR 36#6 (encOpt d) 5#3 (encSrc b) 0#8 from rfl, opOf_encR]; decide) ?_
  change decodeWord _ (encR 36#6 (encOpt d) 5#3 (encSrc b) 0#8) = _
  refine (decodeWord_vector u _).trans ?_
  delta decodeVector; rw [opOf_encR, fnOf_encR, bOf_encR]
  exact decDB_enc (dOpt_enc d (by decide)) _ _

theorem pack (u : VU) (d : Option (Fin 64)) (a : Src) (b : Src) : Statement (.pack u d a b) := by
  refine statement_of rfl rfl (by rw [show encode _ = encR 37#6 (encOpt d) 0#3 (encSrc b) (encSrc a) from rfl, opOf_encR]; decide) ?_
  change decodeWord _ (encR 37#6 (encOpt d) 0#3 (encSrc b) (encSrc a)) = _
  refine (decodeWord_vector u _).trans ?_
  delta decodeVector; rw [opOf_encR, fnOf_encR, bOf_encR]
  exact decDAB_enc (dOpt_enc d (by decide)) _ _ _

theorem packRc (u : VU) (d : Option (Fin 64)) (a : Src) (b : Src) : Statement (.packRc u d a b) := by
  refine statement_of rfl rfl (by rw [show encode _ = encR 37#6 (encOpt d) 1#3 (encSrc b) (encSrc a) from rfl, opOf_encR]; decide) ?_
  change decodeWord _ (encR 37#6 (encOpt d) 1#3 (encSrc b) (encSrc a)) = _
  refine (decodeWord_vector u _).trans ?_
  delta decodeVector; rw [opOf_encR, fnOf_encR, bOf_encR]
  exact decDAB_enc (dOpt_enc d (by decide)) _ _ _

theorem packM (u : VU) (d : Option (Fin 64)) (a : Src) (b : Src) : Statement (.packM u d a b) := by
  refine statement_of rfl rfl (by rw [show encode _ = encR 37#6 (encOpt d) 2#3 (encSrc b) (encSrc a) from rfl, opOf_encR]; decide) ?_
  change decodeWord _ (encR 37#6 (encOpt d) 2#3 (encSrc b) (encSrc a)) = _
  refine (decodeWord_vector u _).trans ?_
  delta decodeVector; rw [opOf_encR, fnOf_encR, bOf_encR]
  exact decDAB_enc (dOpt_enc d (by decide)) _ _ _

theorem unpack (u : VU) (d : Option (Fin 64)) (a : Src) (b : Src) : Statement (.unpack u d a b) := by
  refine statement_of rfl rfl (by rw [show encode _ = encR 37#6 (encOpt d) 3#3 (encSrc b) (encSrc a) from rfl, opOf_encR]; decide) ?_
  change decodeWord _ (encR 37#6 (encOpt d) 3#3 (encSrc b) (encSrc a)) = _
  refine (decodeWord_vector u _).trans ?_
  delta decodeVector; rw [opOf_encR, fnOf_encR, bOf_encR]
  exact decDAB_enc (dOpt_enc d (by decide)) _ _ _

theorem unpackC (u : VU) (d : Option (Fin 64)) (a : Src) (b : Src) : Statement (.unpackC u d a b) := by
  refine statement_of rfl rfl (by rw [show encode _ = encR 37#6 (encOpt d) 4#3 (encSrc b) (encSrc a) from rfl, opOf_encR]; decide) ?_
  change decodeWord _ (encR 37#6 (encOpt d) 4#3 (encSrc b) (encSrc a)) = _
  refine (decodeWord_vector u _).trans ?_
  delta decodeVector; rw [opOf_encR, fnOf_encR, bOf_encR]
  exact decDAB_enc (dOpt_enc d (by decide)) _ _ _

theorem vld (u : VU) (d : Option (Fin 32)) (a : Src) (b : Src) : Statement (.vld u d a b) := by
  refine statement_of rfl rfl (by rw [show encode _ = encR 38#6 (encOpt d) 0#3 (encSrc b) (encSrc a) from rfl, opOf_encR]; decide) ?_
  change decodeWord _ (encR 38#6 (encOpt d) 0#3 (encSrc b) (encSrc a)) = _
  refine (decodeWord_vector u _).trans ?_
  delta decodeVector; rw [opOf_encR, fnOf_encR, bOf_encR]
  exact decDAB_enc (dOpt_enc d (by decide)) _ _ _

theorem vldNr (u : VU) (d : Option (Fin 32)) (p : Fin 8) (a : Src) (b : Src) : Statement (.vldNr u d p a b) := by
  refine statement_of rfl rfl (by rw [show encode _ = encR 39#6 (encOpt d) (encFin 3 p) (encSrc b) (encSrc a) from rfl, opOf_encR]; decide) ?_
  change decodeWord _ (encR 39#6 (encOpt d) (encFin 3 p) (encSrc b) (encSrc a)) = _
  refine (decodeWord_vector u _).trans ?_
  delta decodeVector; rw [opOf_encR, fnOf_encR, bOf_encR, finOf_encFin]
  exact decDAB_enc (dOpt_enc d (by decide)) _ _ _

theorem vst (u : VU) (d : Fin 32) (a : Src) (b : Src) : Statement (.vst u d a b) := by
  refine statement_of rfl rfl (by rw [show encode _ = encR 40#6 (encFin 7 d) 0#3 (encSrc b) (encSrc a) from rfl, opOf_encR]; decide) ?_
  change decodeWord _ (encR 40#6 (encFin 7 d) 0#3 (encSrc b) (encSrc a)) = _
  refine (decodeWord_vector u _).trans ?_
  delta decodeVector; rw [opOf_encR, fnOf_encR, bOf_encR]
  exact decDAB_enc (dData_enc d (by decide)) _ _ _

theorem vlds (u : VU) (d : Option (Fin 32)) (a : Src) (b : BitVec 8) : Statement (.vlds u d a b) := by
  refine statement_of rfl rfl (by rw [show encode _ = encR 41#6 (encOpt d) 0#3 b (encSrc a) from rfl, opOf_encR]; decide) ?_
  change decodeWord _ (encR 41#6 (encOpt d) 0#3 b (encSrc a)) = _
  refine (decodeWord_vector u _).trans ?_
  delta decodeVector; rw [opOf_encR, fnOf_encR, bOf_encR]
  exact decDAm_enc (dOpt_enc d (by decide)) _ _ _

theorem vldsC (u : VU) (d : Option (Fin 32)) (a : Src) (b : BitVec 8) : Statement (.vldsC u d a b) := by
  refine statement_of rfl rfl (by rw [show encode _ = encR 41#6 (encOpt d) 1#3 b (encSrc a) from rfl, opOf_encR]; decide) ?_
  change decodeWord _ (encR 41#6 (encOpt d) 1#3 b (encSrc a)) = _
  refine (decodeWord_vector u _).trans ?_
  delta decodeVector; rw [opOf_encR, fnOf_encR, bOf_encR]
  exact decDAm_enc (dOpt_enc d (by decide)) _ _ _

theorem vsts (u : VU) (d : Fin 32) (a : Src) (b : BitVec 8) : Statement (.vsts u d a b) := by
  refine statement_of rfl rfl (by rw [show encode _ = encR 42#6 (encFin 7 d) 0#3 b (encSrc a) from rfl, opOf_encR]; decide) ?_
  change decodeWord _ (encR 42#6 (encFin 7 d) 0#3 b (encSrc a)) = _
  refine (decodeWord_vector u _).trans ?_
  delta decodeVector; rw [opOf_encR, fnOf_encR, bOf_encR]
  exact decDAm_enc (dData_enc d (by decide)) _ _ _

theorem vstsF (u : VU) (d : Fin 32) (a : Src) (b : BitVec 8) : Statement (.vstsF u d a b) := by
  refine statement_of rfl rfl (by rw [show encode _ = encR 42#6 (encFin 7 d) 1#3 b (encSrc a) from rfl, opOf_encR]; decide) ?_
  change decodeWord _ (encR 42#6 (encFin 7 d) 1#3 b (encSrc a)) = _
  refine (decodeWord_vector u _).trans ?_
  delta decodeVector; rw [opOf_encR, fnOf_encR, bOf_encR]
  exact decDAm_enc (dData_enc d (by decide)) _ _ _

theorem qpushV (u : VU) (d : Fin 32) (q : Fin 8) : Statement (.qpushV u d q) := by
  refine statement_of rfl rfl (by rw [show encode _ = encR 43#6 (encFin 7 d) (encFin 3 q) 0#8 0#8 from rfl, opOf_encR]; decide) ?_
  change decodeWord _ (encR 43#6 (encFin 7 d) (encFin 3 q) 0#8 0#8) = _
  refine (decodeWord_vector u _).trans ?_
  delta decodeVector; rw [opOf_encR, fnOf_encR, bOf_encR, finOf_encFin]
  exact decD_enc (dData_enc d (by decide)) _

theorem mmaBf16 (acc : Fin 16) (sh : Fin 16) (a : Src) (b : Src) : Statement (.mmaBf16 acc sh a b) := by
  refine statement_of rfl rfl (by rw [show encode _ = encM 1#6 (encFin 4 acc) (encFin 4 sh) 0#2 (encSrc b) (encSrc a) from rfl, opOf_encM]; decide) ?_
  change decodeWord _ (encM 1#6 (encFin 4 acc) (encFin 4 sh) 0#2 (encSrc b) (encSrc a)) = _
  change decodeMatrix _ = _
  delta decodeMatrix; rw [opOf_encM, mfnOf_encM, accOf_encM, shOf_encM, bOf_encM, finOf_encFin, finOf_encFin]
  exact decMAB_enc (by rfl) _ _ _

theorem mmaBf16Mc (acc : Fin 16) (sh : Fin 16) (a : Src) (b : Src) : Statement (.mmaBf16Mc acc sh a b) := by
  refine statement_of rfl rfl (by rw [show encode _ = encM 1#6 (encFin 4 acc) (encFin 4 sh) 1#2 (encSrc b) (encSrc a) from rfl, opOf_encM]; decide) ?_
  change decodeWord _ (encM 1#6 (encFin 4 acc) (encFin 4 sh) 1#2 (encSrc b) (encSrc a)) = _
  change decodeMatrix _ = _
  delta decodeMatrix; rw [opOf_encM, mfnOf_encM, accOf_encM, shOf_encM, bOf_encM, finOf_encFin, finOf_encFin]
  exact decMAB_enc (by rfl) _ _ _

theorem mmaBf16Rop (acc : Fin 16) (sh : Fin 16) (a : Src) (b : Src) : Statement (.mmaBf16Rop acc sh a b) := by
  refine statement_of rfl rfl (by rw [show encode _ = encM 1#6 (encFin 4 acc) (encFin 4 sh) 2#2 (encSrc b) (encSrc a) from rfl, opOf_encM]; decide) ?_
  change decodeWord _ (encM 1#6 (encFin 4 acc) (encFin 4 sh) 2#2 (encSrc b) (encSrc a)) = _
  change decodeMatrix _ = _
  delta decodeMatrix; rw [opOf_encM, mfnOf_encM, accOf_encM, shOf_encM, bOf_encM, finOf_encFin, finOf_encFin]
  exact decMAB_enc (by rfl) _ _ _

theorem mmaF16 (acc : Fin 16) (sh : Fin 16) (a : Src) (b : Src) : Statement (.mmaF16 acc sh a b) := by
  refine statement_of rfl rfl (by rw [show encode _ = encM 2#6 (encFin 4 acc) (encFin 4 sh) 0#2 (encSrc b) (encSrc a) from rfl, opOf_encM]; decide) ?_
  change decodeWord _ (encM 2#6 (encFin 4 acc) (encFin 4 sh) 0#2 (encSrc b) (encSrc a)) = _
  change decodeMatrix _ = _
  delta decodeMatrix; rw [opOf_encM, mfnOf_encM, accOf_encM, shOf_encM, bOf_encM, finOf_encFin, finOf_encFin]
  exact decMAB_enc (by rfl) _ _ _

theorem mmaF16Mc (acc : Fin 16) (sh : Fin 16) (a : Src) (b : Src) : Statement (.mmaF16Mc acc sh a b) := by
  refine statement_of rfl rfl (by rw [show encode _ = encM 2#6 (encFin 4 acc) (encFin 4 sh) 1#2 (encSrc b) (encSrc a) from rfl, opOf_encM]; decide) ?_
  change decodeWord _ (encM 2#6 (encFin 4 acc) (encFin 4 sh) 1#2 (encSrc b) (encSrc a)) = _
  change decodeMatrix _ = _
  delta decodeMatrix; rw [opOf_encM, mfnOf_encM, accOf_encM, shOf_encM, bOf_encM, finOf_encFin, finOf_encFin]
  exact decMAB_enc (by rfl) _ _ _

theorem mmaF16Rop (acc : Fin 16) (sh : Fin 16) (a : Src) (b : Src) : Statement (.mmaF16Rop acc sh a b) := by
  refine statement_of rfl rfl (by rw [show encode _ = encM 2#6 (encFin 4 acc) (encFin 4 sh) 2#2 (encSrc b) (encSrc a) from rfl, opOf_encM]; decide) ?_
  change decodeWord _ (encM 2#6 (encFin 4 acc) (encFin 4 sh) 2#2 (encSrc b) (encSrc a)) = _
  change decodeMatrix _ = _
  delta decodeMatrix; rw [opOf_encM, mfnOf_encM, accOf_encM, shOf_encM, bOf_encM, finOf_encFin, finOf_encFin]
  exact decMAB_enc (by rfl) _ _ _

theorem mmaE4m3 (acc : Fin 16) (sh : Fin 16) (a : Src) (b : Src) : Statement (.mmaE4m3 acc sh a b) := by
  refine statement_of rfl rfl (by rw [show encode _ = encM 3#6 (encFin 4 acc) (encFin 4 sh) 0#2 (encSrc b) (encSrc a) from rfl, opOf_encM]; decide) ?_
  change decodeWord _ (encM 3#6 (encFin 4 acc) (encFin 4 sh) 0#2 (encSrc b) (encSrc a)) = _
  change decodeMatrix _ = _
  delta decodeMatrix; rw [opOf_encM, mfnOf_encM, accOf_encM, shOf_encM, bOf_encM, finOf_encFin, finOf_encFin]
  exact decMAB_enc (by rfl) _ _ _

theorem mmaE4m3Mc (acc : Fin 16) (sh : Fin 16) (a : Src) (b : Src) : Statement (.mmaE4m3Mc acc sh a b) := by
  refine statement_of rfl rfl (by rw [show encode _ = encM 3#6 (encFin 4 acc) (encFin 4 sh) 1#2 (encSrc b) (encSrc a) from rfl, opOf_encM]; decide) ?_
  change decodeWord _ (encM 3#6 (encFin 4 acc) (encFin 4 sh) 1#2 (encSrc b) (encSrc a)) = _
  change decodeMatrix _ = _
  delta decodeMatrix; rw [opOf_encM, mfnOf_encM, accOf_encM, shOf_encM, bOf_encM, finOf_encFin, finOf_encFin]
  exact decMAB_enc (by rfl) _ _ _

theorem mmaE4m3Rop (acc : Fin 16) (sh : Fin 16) (a : Src) (b : Src) : Statement (.mmaE4m3Rop acc sh a b) := by
  refine statement_of rfl rfl (by rw [show encode _ = encM 3#6 (encFin 4 acc) (encFin 4 sh) 2#2 (encSrc b) (encSrc a) from rfl, opOf_encM]; decide) ?_
  change decodeWord _ (encM 3#6 (encFin 4 acc) (encFin 4 sh) 2#2 (encSrc b) (encSrc a)) = _
  change decodeMatrix _ = _
  delta decodeMatrix; rw [opOf_encM, mfnOf_encM, accOf_encM, shOf_encM, bOf_encM, finOf_encFin, finOf_encFin]
  exact decMAB_enc (by rfl) _ _ _

theorem mmaE5m2 (acc : Fin 16) (sh : Fin 16) (a : Src) (b : Src) : Statement (.mmaE5m2 acc sh a b) := by
  refine statement_of rfl rfl (by rw [show encode _ = encM 4#6 (encFin 4 acc) (encFin 4 sh) 0#2 (encSrc b) (encSrc a) from rfl, opOf_encM]; decide) ?_
  change decodeWord _ (encM 4#6 (encFin 4 acc) (encFin 4 sh) 0#2 (encSrc b) (encSrc a)) = _
  change decodeMatrix _ = _
  delta decodeMatrix; rw [opOf_encM, mfnOf_encM, accOf_encM, shOf_encM, bOf_encM, finOf_encFin, finOf_encFin]
  exact decMAB_enc (by rfl) _ _ _

theorem mmaE5m2Mc (acc : Fin 16) (sh : Fin 16) (a : Src) (b : Src) : Statement (.mmaE5m2Mc acc sh a b) := by
  refine statement_of rfl rfl (by rw [show encode _ = encM 4#6 (encFin 4 acc) (encFin 4 sh) 1#2 (encSrc b) (encSrc a) from rfl, opOf_encM]; decide) ?_
  change decodeWord _ (encM 4#6 (encFin 4 acc) (encFin 4 sh) 1#2 (encSrc b) (encSrc a)) = _
  change decodeMatrix _ = _
  delta decodeMatrix; rw [opOf_encM, mfnOf_encM, accOf_encM, shOf_encM, bOf_encM, finOf_encFin, finOf_encFin]
  exact decMAB_enc (by rfl) _ _ _

theorem mmaE5m2Rop (acc : Fin 16) (sh : Fin 16) (a : Src) (b : Src) : Statement (.mmaE5m2Rop acc sh a b) := by
  refine statement_of rfl rfl (by rw [show encode _ = encM 4#6 (encFin 4 acc) (encFin 4 sh) 2#2 (encSrc b) (encSrc a) from rfl, opOf_encM]; decide) ?_
  change decodeWord _ (encM 4#6 (encFin 4 acc) (encFin 4 sh) 2#2 (encSrc b) (encSrc a)) = _
  change decodeMatrix _ = _
  delta decodeMatrix; rw [opOf_encM, mfnOf_encM, accOf_encM, shOf_encM, bOf_encM, finOf_encFin, finOf_encFin]
  exact decMAB_enc (by rfl) _ _ _

theorem mmaF4x (acc : Fin 16) (sh : Fin 16) (a : Src) (b : Src) : Statement (.mmaF4x acc sh a b) := by
  refine statement_of rfl rfl (by rw [show encode _ = encM 5#6 (encFin 4 acc) (encFin 4 sh) 0#2 (encSrc b) (encSrc a) from rfl, opOf_encM]; decide) ?_
  change decodeWord _ (encM 5#6 (encFin 4 acc) (encFin 4 sh) 0#2 (encSrc b) (encSrc a)) = _
  change decodeMatrix _ = _
  delta decodeMatrix; rw [opOf_encM, mfnOf_encM, accOf_encM, shOf_encM, bOf_encM, finOf_encFin, finOf_encFin]
  exact decMAB_enc (by rfl) _ _ _

theorem mmaF4xMc (acc : Fin 16) (sh : Fin 16) (a : Src) (b : Src) : Statement (.mmaF4xMc acc sh a b) := by
  refine statement_of rfl rfl (by rw [show encode _ = encM 5#6 (encFin 4 acc) (encFin 4 sh) 1#2 (encSrc b) (encSrc a) from rfl, opOf_encM]; decide) ?_
  change decodeWord _ (encM 5#6 (encFin 4 acc) (encFin 4 sh) 1#2 (encSrc b) (encSrc a)) = _
  change decodeMatrix _ = _
  delta decodeMatrix; rw [opOf_encM, mfnOf_encM, accOf_encM, shOf_encM, bOf_encM, finOf_encFin, finOf_encFin]
  exact decMAB_enc (by rfl) _ _ _

theorem mmaF4xRop (acc : Fin 16) (sh : Fin 16) (a : Src) (b : Src) : Statement (.mmaF4xRop acc sh a b) := by
  refine statement_of rfl rfl (by rw [show encode _ = encM 5#6 (encFin 4 acc) (encFin 4 sh) 2#2 (encSrc b) (encSrc a) from rfl, opOf_encM]; decide) ?_
  change decodeWord _ (encM 5#6 (encFin 4 acc) (encFin 4 sh) 2#2 (encSrc b) (encSrc a)) = _
  change decodeMatrix _ = _
  delta decodeMatrix; rw [opOf_encM, mfnOf_encM, accOf_encM, shOf_encM, bOf_encM, finOf_encFin, finOf_encFin]
  exact decMAB_enc (by rfl) _ _ _

theorem azero (acc : Fin 16) (a : Src) : Statement (.azero acc a) := by
  refine statement_of rfl rfl (by rw [show encode _ = encM 8#6 (encFin 4 acc) 0#4 0#2 0#8 (encSrc a) from rfl, opOf_encM]; decide) ?_
  change decodeWord _ (encM 8#6 (encFin 4 acc) 0#4 0#2 0#8 (encSrc a)) = _
  change decodeMatrix _ = _
  delta decodeMatrix; rw [opOf_encM, mfnOf_encM, accOf_encM, shOf_encM, bOf_encM, finOf_encFin]
  exact decMA_enc (by rfl) _ _ _

theorem azeroV (acc : Fin 16) (a : Src) : Statement (.azeroV acc a) := by
  refine statement_of rfl rfl (by rw [show encode _ = encM 8#6 (encFin 4 acc) 0#4 1#2 0#8 (encSrc a) from rfl, opOf_encM]; decide) ?_
  change decodeWord _ (encM 8#6 (encFin 4 acc) 0#4 1#2 0#8 (encSrc a)) = _
  change decodeMatrix _ = _
  delta decodeMatrix; rw [opOf_encM, mfnOf_encM, accOf_encM, shOf_encM, bOf_encM, finOf_encFin]
  exact decMA_enc (by rfl) _ _ _

theorem azeroB (acc : Fin 16) (a : Src) : Statement (.azeroB acc a) := by
  refine statement_of rfl rfl (by rw [show encode _ = encM 8#6 (encFin 4 acc) 0#4 2#2 0#8 (encSrc a) from rfl, opOf_encM]; decide) ?_
  change decodeWord _ (encM 8#6 (encFin 4 acc) 0#4 2#2 0#8 (encSrc a)) = _
  change decodeMatrix _ = _
  delta decodeMatrix; rw [opOf_encM, mfnOf_encM, accOf_encM, shOf_encM, bOf_encM, finOf_encFin]
  exact decMA_enc (by rfl) _ _ _

theorem asetx (acc : Fin 16) (a : Src) (b : Src) : Statement (.asetx acc a b) := by
  refine statement_of rfl rfl (by rw [show encode _ = encM 9#6 (encFin 4 acc) 0#4 0#2 (encSrc b) (encSrc a) from rfl, opOf_encM]; decide) ?_
  change decodeWord _ (encM 9#6 (encFin 4 acc) 0#4 0#2 (encSrc b) (encSrc a)) = _
  change decodeMatrix _ = _
  delta decodeMatrix; rw [opOf_encM, mfnOf_encM, accOf_encM, shOf_encM, bOf_encM, finOf_encFin]
  exact decMAB_enc (by rfl) _ _ _

theorem asetxV (acc : Fin 16) (a : Src) (b : Src) : Statement (.asetxV acc a b) := by
  refine statement_of rfl rfl (by rw [show encode _ = encM 9#6 (encFin 4 acc) 0#4 1#2 (encSrc b) (encSrc a) from rfl, opOf_encM]; decide) ?_
  change decodeWord _ (encM 9#6 (encFin 4 acc) 0#4 1#2 (encSrc b) (encSrc a)) = _
  change decodeMatrix _ = _
  delta decodeMatrix; rw [opOf_encM, mfnOf_encM, accOf_encM, shOf_encM, bOf_encM, finOf_encFin]
  exact decMAB_enc (by rfl) _ _ _

theorem asetxZ (acc : Fin 16) (a : Src) (b : Src) : Statement (.asetxZ acc a b) := by
  refine statement_of rfl rfl (by rw [show encode _ = encM 9#6 (encFin 4 acc) 0#4 2#2 (encSrc b) (encSrc a) from rfl, opOf_encM]; decide) ?_
  change decodeWord _ (encM 9#6 (encFin 4 acc) 0#4 2#2 (encSrc b) (encSrc a)) = _
  change decodeMatrix _ = _
  delta decodeMatrix; rw [opOf_encM, mfnOf_encM, accOf_encM, shOf_encM, bOf_encM, finOf_encFin]
  exact decMAB_enc (by rfl) _ _ _

theorem asetxZV (acc : Fin 16) (a : Src) (b : Src) : Statement (.asetxZV acc a b) := by
  refine statement_of rfl rfl (by rw [show encode _ = encM 9#6 (encFin 4 acc) 0#4 3#2 (encSrc b) (encSrc a) from rfl, opOf_encM]; decide) ?_
  change decodeWord _ (encM 9#6 (encFin 4 acc) 0#4 3#2 (encSrc b) (encSrc a)) = _
  change decodeMatrix _ = _
  delta decodeMatrix; rw [opOf_encM, mfnOf_encM, accOf_encM, shOf_encM, bOf_encM, finOf_encFin]
  exact decMAB_enc (by rfl) _ _ _

theorem anorm (acc : Fin 16) (a : Src) (b : Src) : Statement (.anorm acc a b) := by
  refine statement_of rfl rfl (by rw [show encode _ = encM 10#6 (encFin 4 acc) 0#4 0#2 (encSrc b) (encSrc a) from rfl, opOf_encM]; decide) ?_
  change decodeWord _ (encM 10#6 (encFin 4 acc) 0#4 0#2 (encSrc b) (encSrc a)) = _
  change decodeMatrix _ = _
  delta decodeMatrix; rw [opOf_encM, mfnOf_encM, accOf_encM, shOf_encM, bOf_encM, finOf_encFin]
  exact decMAB_enc (by rfl) _ _ _

theorem anormV (acc : Fin 16) (a : Src) (b : Src) : Statement (.anormV acc a b) := by
  refine statement_of rfl rfl (by rw [show encode _ = encM 10#6 (encFin 4 acc) 0#4 1#2 (encSrc b) (encSrc a) from rfl, opOf_encM]; decide) ?_
  change decodeWord _ (encM 10#6 (encFin 4 acc) 0#4 1#2 (encSrc b) (encSrc a)) = _
  change decodeMatrix _ = _
  delta decodeMatrix; rw [opOf_encM, mfnOf_encM, accOf_encM, shOf_encM, bOf_encM, finOf_encFin]
  exact decMAB_enc (by rfl) _ _ _

theorem aswap (acc : Fin 16) : Statement (.aswap acc) := by
  refine statement_of rfl rfl (by rw [show encode _ = encM 11#6 (encFin 4 acc) 0#4 0#2 0#8 0#8 from rfl, opOf_encM]; decide) ?_
  change decodeWord _ (encM 11#6 (encFin 4 acc) 0#4 0#2 0#8 0#8) = _
  change decodeMatrix _ = _
  delta decodeMatrix; rw [opOf_encM, mfnOf_encM, accOf_encM, shOf_encM, bOf_encM, finOf_encFin]
  rw [aOf_encM]; rfl

theorem ardout (acc : Fin 16) (a : Src) (b : BitVec 8) : Statement (.ardout acc a b) := by
  refine statement_of rfl rfl (by rw [show encode _ = encM 12#6 (encFin 4 acc) 0#4 0#2 b (encSrc a) from rfl, opOf_encM]; decide) ?_
  change decodeWord _ (encM 12#6 (encFin 4 acc) 0#4 0#2 b (encSrc a)) = _
  change decodeMatrix _ = _
  delta decodeMatrix; rw [opOf_encM, mfnOf_encM, accOf_encM, shOf_encM, bOf_encM, finOf_encFin]
  exact decMA_enc (by rfl) _ _ _

theorem ardoutS (acc : Fin 16) (sh : Fin 16) (a : Src) (b : BitVec 8) : Statement (.ardoutS acc sh a b) := by
  refine statement_of rfl rfl (by rw [show encode _ = encM 12#6 (encFin 4 acc) (encFin 4 sh) 1#2 b (encSrc a) from rfl, opOf_encM]; decide) ?_
  change decodeWord _ (encM 12#6 (encFin 4 acc) (encFin 4 sh) 1#2 b (encSrc a)) = _
  change decodeMatrix _ = _
  delta decodeMatrix; rw [opOf_encM, mfnOf_encM, accOf_encM, shOf_encM, bOf_encM, finOf_encFin, finOf_encFin]
  exact decMA_enc (by rfl) _ _ _

theorem ardoutSf (acc : Fin 16) (sh : Fin 16) (a : Src) (b : BitVec 8) : Statement (.ardoutSf acc sh a b) := by
  refine statement_of rfl rfl (by rw [show encode _ = encM 12#6 (encFin 4 acc) (encFin 4 sh) 2#2 b (encSrc a) from rfl, opOf_encM]; decide) ?_
  change decodeWord _ (encM 12#6 (encFin 4 acc) (encFin 4 sh) 2#2 b (encSrc a)) = _
  change decodeMatrix _ = _
  delta decodeMatrix; rw [opOf_encM, mfnOf_encM, accOf_encM, shOf_encM, bOf_encM, finOf_encFin, finOf_encFin]
  exact decMA_enc (by rfl) _ _ _

theorem ascore (acc : Fin 16) (sh : Fin 16) (a : Src) (b : Src) : Statement (.ascore acc sh a b) := by
  refine statement_of rfl rfl (by rw [show encode _ = encM 16#6 (encFin 4 acc) (encFin 4 sh) 0#2 (encSrc b) (encSrc a) from rfl, opOf_encM]; decide) ?_
  change decodeWord _ (encM 16#6 (encFin 4 acc) (encFin 4 sh) 0#2 (encSrc b) (encSrc a)) = _
  change decodeMatrix _ = _
  delta decodeMatrix; rw [opOf_encM, mfnOf_encM, accOf_encM, shOf_encM, bOf_encM, finOf_encFin, finOf_encFin]
  exact decMAB_enc (by rfl) _ _ _

theorem ascoreGm (acc : Fin 16) (sh : Fin 16) (a : Src) (b : Src) : Statement (.ascoreGm acc sh a b) := by
  refine statement_of rfl rfl (by rw [show encode _ = encM 16#6 (encFin 4 acc) (encFin 4 sh) 1#2 (encSrc b) (encSrc a) from rfl, opOf_encM]; decide) ?_
  change decodeWord _ (encM 16#6 (encFin 4 acc) (encFin 4 sh) 1#2 (encSrc b) (encSrc a)) = _
  change decodeMatrix _ = _
  delta decodeMatrix; rw [opOf_encM, mfnOf_encM, accOf_encM, shOf_encM, bOf_encM, finOf_encFin, finOf_encFin]
  exact decMAB_enc (by rfl) _ _ _

theorem avalue (acc : Fin 16) (a : Src) (b : Src) : Statement (.avalue acc a b) := by
  refine statement_of rfl rfl (by rw [show encode _ = encM 17#6 (encFin 4 acc) 0#4 0#2 (encSrc b) (encSrc a) from rfl, opOf_encM]; decide) ?_
  change decodeWord _ (encM 17#6 (encFin 4 acc) 0#4 0#2 (encSrc b) (encSrc a)) = _
  change decodeMatrix _ = _
  delta decodeMatrix; rw [opOf_encM, mfnOf_encM, accOf_encM, shOf_encM, bOf_encM, finOf_encFin]
  exact decMAB_enc (by rfl) _ _ _

theorem avalueHi (acc : Fin 16) (a : Src) (b : Src) : Statement (.avalueHi acc a b) := by
  refine statement_of rfl rfl (by rw [show encode _ = encM 17#6 (encFin 4 acc) 0#4 1#2 (encSrc b) (encSrc a) from rfl, opOf_encM]; decide) ?_
  change decodeWord _ (encM 17#6 (encFin 4 acc) 0#4 1#2 (encSrc b) (encSrc a)) = _
  change decodeMatrix _ = _
  delta decodeMatrix; rw [opOf_encM, mfnOf_encM, accOf_encM, shOf_encM, bOf_encM, finOf_encFin]
  exact decMAB_enc (by rfl) _ _ _

theorem smerge (acc : Fin 16) (a : Src) (b : Src) : Statement (.smerge acc a b) := by
  refine statement_of rfl rfl (by rw [show encode _ = encM 18#6 (encFin 4 acc) 0#4 0#2 (encSrc b) (encSrc a) from rfl, opOf_encM]; decide) ?_
  change decodeWord _ (encM 18#6 (encFin 4 acc) 0#4 0#2 (encSrc b) (encSrc a)) = _
  change decodeMatrix _ = _
  delta decodeMatrix; rw [opOf_encM, mfnOf_encM, accOf_encM, shOf_encM, bOf_encM, finOf_encFin]
  exact decMAB_enc (by rfl) _ _ _

theorem smergeX (acc : Fin 16) (a : Src) (b : Src) : Statement (.smergeX acc a b) := by
  refine statement_of rfl rfl (by rw [show encode _ = encM 18#6 (encFin 4 acc) 0#4 1#2 (encSrc b) (encSrc a) from rfl, opOf_encM]; decide) ?_
  change decodeWord _ (encM 18#6 (encFin 4 acc) 0#4 1#2 (encSrc b) (encSrc a)) = _
  change decodeMatrix _ = _
  delta decodeMatrix; rw [opOf_encM, mfnOf_encM, accOf_encM, shOf_encM, bOf_encM, finOf_encFin]
  exact decMAB_enc (by rfl) _ _ _

theorem smergeI (acc : Fin 16) (a : Src) (b : Src) : Statement (.smergeI acc a b) := by
  refine statement_of rfl rfl (by rw [show encode _ = encM 18#6 (encFin 4 acc) 0#4 2#2 (encSrc b) (encSrc a) from rfl, opOf_encM]; decide) ?_
  change decodeWord _ (encM 18#6 (encFin 4 acc) 0#4 2#2 (encSrc b) (encSrc a)) = _
  change decodeMatrix _ = _
  delta decodeMatrix; rw [opOf_encM, mfnOf_encM, accOf_encM, shOf_encM, bOf_encM, finOf_encFin]
  exact decMAB_enc (by rfl) _ _ _

theorem mskld (a : Src) (b : Src) : Statement (.mskld a b) := by
  refine statement_of rfl rfl (by rw [show encode _ = encM 19#6 0#4 0#4 0#2 (encSrc b) (encSrc a) from rfl, opOf_encM]; decide) ?_
  change decodeWord _ (encM 19#6 0#4 0#4 0#2 (encSrc b) (encSrc a)) = _
  change decodeMatrix _ = _
  delta decodeMatrix; rw [opOf_encM, mfnOf_encM, accOf_encM, shOf_encM, bOf_encM]
  exact decMAB_enc (by rfl) _ _ _

theorem kvapp (sh : Fin 16) (a : Src) (b : Src) : Statement (.kvapp sh a b) := by
  refine statement_of rfl rfl (by rw [show encode _ = encM 20#6 0#4 (encFin 4 sh) 0#2 (encSrc b) (encSrc a) from rfl, opOf_encM]; decide) ?_
  change decodeWord _ (encM 20#6 0#4 (encFin 4 sh) 0#2 (encSrc b) (encSrc a)) = _
  change decodeMatrix _ = _
  delta decodeMatrix; rw [opOf_encM, mfnOf_encM, accOf_encM, shOf_encM, bOf_encM, finOf_encFin]
  exact decMAB_enc (by rfl) _ _ _

theorem copy (d : Option (Fin 64)) (a : Src) (b : Src) : Statement (.copy d a b) := by
  refine statement_of rfl rfl (by rw [show encode _ = encR 1#6 (encOpt d) 0#3 (encSrc b) (encSrc a) from rfl, opOf_encR]; decide) ?_
  change decodeWord _ (encR 1#6 (encOpt d) 0#3 (encSrc b) (encSrc a)) = _
  change decodeEngine _ = _
  delta decodeEngine; rw [opOf_encR, fnOf_encR]
  exact decDAB_enc (dOpt_enc d (by decide)) _ _ _

theorem gather (d : Option (Fin 64)) (q : Fin 8) (a : Src) (b : Src) : Statement (.gather d q a b) := by
  refine statement_of rfl rfl (by rw [show encode _ = encR 2#6 (encOpt d) (encFin 3 q) (encSrc b) (encSrc a) from rfl, opOf_encR]; decide) ?_
  change decodeWord _ (encR 2#6 (encOpt d) (encFin 3 q) (encSrc b) (encSrc a)) = _
  change decodeEngine _ = _
  delta decodeEngine; rw [opOf_encR, fnOf_encR, finOf_encFin]
  exact decDAB_enc (dOpt_enc d (by decide)) _ _ _

theorem scatter (d : Option (Fin 64)) (q : Fin 8) (a : Src) (b : Src) : Statement (.scatter d q a b) := by
  refine statement_of rfl rfl (by rw [show encode _ = encR 3#6 (encOpt d) (encFin 3 q) (encSrc b) (encSrc a) from rfl, opOf_encR]; decide) ?_
  change decodeWord _ (encR 3#6 (encOpt d) (encFin 3 q) (encSrc b) (encSrc a)) = _
  change decodeEngine _ = _
  delta decodeEngine; rw [opOf_encR, fnOf_encR, finOf_encFin]
  exact decDAB_enc (dOpt_enc d (by decide)) _ _ _

theorem smpl (d : Option (Fin 64)) (a : Src) (b : Src) : Statement (.smpl d a b) := by
  refine statement_of rfl rfl (by rw [show encode _ = encR 4#6 (encOpt d) 0#3 (encSrc b) (encSrc a) from rfl, opOf_encR]; decide) ?_
  change decodeWord _ (encR 4#6 (encOpt d) 0#3 (encSrc b) (encSrc a)) = _
  change decodeEngine _ = _
  delta decodeEngine; rw [opOf_encR, fnOf_encR]
  exact decDAB_enc (dOpt_enc d (by decide)) _ _ _

theorem fst (d : Option (Fin 64)) (a : Src) (b : Src) : Statement (.fst d a b) := by
  refine statement_of rfl rfl (by rw [show encode _ = encR 5#6 (encOpt d) 0#3 (encSrc b) (encSrc a) from rfl, opOf_encR]; decide) ?_
  change decodeWord _ (encR 5#6 (encOpt d) 0#3 (encSrc b) (encSrc a)) = _
  change decodeEngine _ = _
  delta decodeEngine; rw [opOf_encR, fnOf_encR]
  exact decDAB_enc (dOpt_enc d (by decide)) _ _ _

theorem fstOf (d : Option (Fin 64)) (a : Src) (b : Src) : Statement (.fstOf d a b) := by
  refine statement_of rfl rfl (by rw [show encode _ = encR 5#6 (encOpt d) 1#3 (encSrc b) (encSrc a) from rfl, opOf_encR]; decide) ?_
  change decodeWord _ (encR 5#6 (encOpt d) 1#3 (encSrc b) (encSrc a)) = _
  change decodeEngine _ = _
  delta decodeEngine; rw [opOf_encR, fnOf_encR]
  exact decDAB_enc (dOpt_enc d (by decide)) _ _ _

theorem fstSp (d : Option (Fin 64)) (a : Src) (b : Src) : Statement (.fstSp d a b) := by
  refine statement_of rfl rfl (by rw [show encode _ = encR 5#6 (encOpt d) 2#3 (encSrc b) (encSrc a) from rfl, opOf_encR]; decide) ?_
  change decodeWord _ (encR 5#6 (encOpt d) 2#3 (encSrc b) (encSrc a)) = _
  change decodeEngine _ = _
  delta decodeEngine; rw [opOf_encR, fnOf_encR]
  exact decDAB_enc (dOpt_enc d (by decide)) _ _ _

theorem fstOfSp (d : Option (Fin 64)) (a : Src) (b : Src) : Statement (.fstOfSp d a b) := by
  refine statement_of rfl rfl (by rw [show encode _ = encR 5#6 (encOpt d) 3#3 (encSrc b) (encSrc a) from rfl, opOf_encR]; decide) ?_
  change decodeWord _ (encR 5#6 (encOpt d) 3#3 (encSrc b) (encSrc a)) = _
  change decodeEngine _ = _
  delta decodeEngine; rw [opOf_encR, fnOf_encR]
  exact decDAB_enc (dOpt_enc d (by decide)) _ _ _

theorem ratomAdd (d : Fin 64) (a : Src) (b : Src) : Statement (.ratomAdd d a b) := by
  refine statement_of rfl rfl (by rw [show encode _ = encR 6#6 (encFin 7 d) 0#3 (encSrc b) (encSrc a) from rfl, opOf_encR]; decide) ?_
  change decodeWord _ (encR 6#6 (encFin 7 d) 0#3 (encSrc b) (encSrc a)) = _
  change decodeEngine _ = _
  delta decodeEngine; rw [opOf_encR, fnOf_encR]
  exact decDAB_enc (dData_enc d (by decide)) _ _ _

theorem ratomAnd (d : Fin 64) (a : Src) (b : Src) : Statement (.ratomAnd d a b) := by
  refine statement_of rfl rfl (by rw [show encode _ = encR 6#6 (encFin 7 d) 1#3 (encSrc b) (encSrc a) from rfl, opOf_encR]; decide) ?_
  change decodeWord _ (encR 6#6 (encFin 7 d) 1#3 (encSrc b) (encSrc a)) = _
  change decodeEngine _ = _
  delta decodeEngine; rw [opOf_encR, fnOf_encR]
  exact decDAB_enc (dData_enc d (by decide)) _ _ _

theorem ratomOr (d : Fin 64) (a : Src) (b : Src) : Statement (.ratomOr d a b) := by
  refine statement_of rfl rfl (by rw [show encode _ = encR 6#6 (encFin 7 d) 2#3 (encSrc b) (encSrc a) from rfl, opOf_encR]; decide) ?_
  change decodeWord _ (encR 6#6 (encFin 7 d) 2#3 (encSrc b) (encSrc a)) = _
  change decodeEngine _ = _
  delta decodeEngine; rw [opOf_encR, fnOf_encR]
  exact decDAB_enc (dData_enc d (by decide)) _ _ _

theorem ratomXor (d : Fin 64) (a : Src) (b : Src) : Statement (.ratomXor d a b) := by
  refine statement_of rfl rfl (by rw [show encode _ = encR 6#6 (encFin 7 d) 3#3 (encSrc b) (encSrc a) from rfl, opOf_encR]; decide) ?_
  change decodeWord _ (encR 6#6 (encFin 7 d) 3#3 (encSrc b) (encSrc a)) = _
  change decodeEngine _ = _
  delta decodeEngine; rw [opOf_encR, fnOf_encR]
  exact decDAB_enc (dData_enc d (by decide)) _ _ _

theorem ratomMinI64 (d : Fin 64) (a : Src) (b : Src) : Statement (.ratomMinI64 d a b) := by
  refine statement_of rfl rfl (by rw [show encode _ = encR 6#6 (encFin 7 d) 4#3 (encSrc b) (encSrc a) from rfl, opOf_encR]; decide) ?_
  change decodeWord _ (encR 6#6 (encFin 7 d) 4#3 (encSrc b) (encSrc a)) = _
  change decodeEngine _ = _
  delta decodeEngine; rw [opOf_encR, fnOf_encR]
  exact decDAB_enc (dData_enc d (by decide)) _ _ _

theorem ratomMaxI64 (d : Fin 64) (a : Src) (b : Src) : Statement (.ratomMaxI64 d a b) := by
  refine statement_of rfl rfl (by rw [show encode _ = encR 6#6 (encFin 7 d) 5#3 (encSrc b) (encSrc a) from rfl, opOf_encR]; decide) ?_
  change decodeWord _ (encR 6#6 (encFin 7 d) 5#3 (encSrc b) (encSrc a)) = _
  change decodeEngine _ = _
  delta decodeEngine; rw [opOf_encR, fnOf_encR]
  exact decDAB_enc (dData_enc d (by decide)) _ _ _

theorem ratomMinZ64 (d : Fin 64) (a : Src) (b : Src) : Statement (.ratomMinZ64 d a b) := by
  refine statement_of rfl rfl (by rw [show encode _ = encR 6#6 (encFin 7 d) 6#3 (encSrc b) (encSrc a) from rfl, opOf_encR]; decide) ?_
  change decodeWord _ (encR 6#6 (encFin 7 d) 6#3 (encSrc b) (encSrc a)) = _
  change decodeEngine _ = _
  delta decodeEngine; rw [opOf_encR, fnOf_encR]
  exact decDAB_enc (dData_enc d (by decide)) _ _ _

theorem ratomMaxZ64 (d : Fin 64) (a : Src) (b : Src) : Statement (.ratomMaxZ64 d a b) := by
  refine statement_of rfl rfl (by rw [show encode _ = encR 6#6 (encFin 7 d) 7#3 (encSrc b) (encSrc a) from rfl, opOf_encR]; decide) ?_
  change decodeWord _ (encR 6#6 (encFin 7 d) 7#3 (encSrc b) (encSrc a)) = _
  change decodeEngine _ = _
  delta decodeEngine; rw [opOf_encR, fnOf_encR]
  exact decDAB_enc (dData_enc d (by decide)) _ _ _

theorem ackf : Statement (.ackf) := by
  refine statement_of rfl rfl (by rw [show encode _ = encR 7#6 0#7 0#3 0#8 0#8 from rfl, opOf_encR]; decide) ?_
  rfl

theorem jopen (d : Option (Fin 64)) (a : Src) : Statement (.jopen d a) := by
  refine statement_of rfl rfl (by rw [show encode _ = encR 8#6 (encOpt d) 0#3 0#8 (encSrc a) from rfl, opOf_encR]; decide) ?_
  change decodeWord _ (encR 8#6 (encOpt d) 0#3 0#8 (encSrc a)) = _
  change decodeEngine _ = _
  delta decodeEngine; rw [opOf_encR, fnOf_encR]
  exact decDA_enc (dOpt_enc d (by decide)) _ _

theorem jarrive (d : Option (Fin 64)) (a : Src) (b : Src) : Statement (.jarrive d a b) := by
  refine statement_of rfl rfl (by rw [show encode _ = encR 8#6 (encOpt d) 1#3 (encSrc b) (encSrc a) from rfl, opOf_encR]; decide) ?_
  change decodeWord _ (encR 8#6 (encOpt d) 1#3 (encSrc b) (encSrc a)) = _
  change decodeEngine _ = _
  delta decodeEngine; rw [opOf_encR, fnOf_encR]
  exact decDAB_enc (dOpt_enc d (by decide)) _ _ _

theorem jwait (d : Option (Fin 64)) (a : Src) (b : Src) : Statement (.jwait d a b) := by
  refine statement_of rfl rfl (by rw [show encode _ = encR 8#6 (encOpt d) 2#3 (encSrc b) (encSrc a) from rfl, opOf_encR]; decide) ?_
  change decodeWord _ (encR 8#6 (encOpt d) 2#3 (encSrc b) (encSrc a)) = _
  change decodeEngine _ = _
  delta decodeEngine; rw [opOf_encR, fnOf_encR]
  exact decDAB_enc (dOpt_enc d (by decide)) _ _ _

theorem jrule (d : Option (Fin 64)) (a : Src) (b : Src) : Statement (.jrule d a b) := by
  refine statement_of rfl rfl (by rw [show encode _ = encR 8#6 (encOpt d) 3#3 (encSrc b) (encSrc a) from rfl, opOf_encR]; decide) ?_
  change decodeWord _ (encR 8#6 (encOpt d) 3#3 (encSrc b) (encSrc a)) = _
  change decodeEngine _ = _
  delta decodeEngine; rw [opOf_encR, fnOf_encR]
  exact decDAB_enc (dOpt_enc d (by decide)) _ _ _

theorem fillreg (d : Option (Fin 64)) (a : Src) (b : Src) : Statement (.fillreg d a b) := by
  refine statement_of rfl rfl (by rw [show encode _ = encR 9#6 (encOpt d) 0#3 (encSrc b) (encSrc a) from rfl, opOf_encR]; decide) ?_
  change decodeWord _ (encR 9#6 (encOpt d) 0#3 (encSrc b) (encSrc a)) = _
  change decodeEngine _ = _
  delta decodeEngine; rw [opOf_encR, fnOf_encR]
  exact decDAB_enc (dOpt_enc d (by decide)) _ _ _

theorem fillregT (d : Option (Fin 64)) (b : Src) : Statement (.fillregT d b) := by
  refine statement_of rfl rfl (by rw [show encode _ = encR 9#6 (encOpt d) 1#3 (encSrc b) 0#8 from rfl, opOf_encR]; decide) ?_
  change decodeWord _ (encR 9#6 (encOpt d) 1#3 (encSrc b) 0#8) = _
  change decodeEngine _ = _
  delta decodeEngine; rw [opOf_encR, fnOf_encR]
  exact decDB_enc (dOpt_enc d (by decide)) _ _

theorem fillregTf (d : Option (Fin 64)) (b : Src) : Statement (.fillregTf d b) := by
  refine statement_of rfl rfl (by rw [show encode _ = encR 9#6 (encOpt d) 2#3 (encSrc b) 0#8 from rfl, opOf_encR]; decide) ?_
  change decodeWord _ (encR 9#6 (encOpt d) 2#3 (encSrc b) 0#8) = _
  change decodeEngine _ = _
  delta decodeEngine; rw [opOf_encR, fnOf_encR]
  exact decDB_enc (dOpt_enc d (by decide)) _ _

theorem fillregTm (d : Option (Fin 64)) (a : Src) (b : Src) : Statement (.fillregTm d a b) := by
  refine statement_of rfl rfl (by rw [show encode _ = encR 9#6 (encOpt d) 3#3 (encSrc b) (encSrc a) from rfl, opOf_encR]; decide) ?_
  change decodeWord _ (encR 9#6 (encOpt d) 3#3 (encSrc b) (encSrc a)) = _
  change decodeEngine _ = _
  delta decodeEngine; rw [opOf_encR, fnOf_encR]
  exact decDAB_enc (dOpt_enc d (by decide)) _ _ _

theorem fillregW (d : Option (Fin 64)) (a : Src) (b : Src) : Statement (.fillregW d a b) := by
  refine statement_of rfl rfl (by rw [show encode _ = encR 9#6 (encOpt d) 4#3 (encSrc b) (encSrc a) from rfl, opOf_encR]; decide) ?_
  change decodeWord _ (encR 9#6 (encOpt d) 4#3 (encSrc b) (encSrc a)) = _
  change decodeEngine _ = _
  delta decodeEngine; rw [opOf_encR, fnOf_encR]
  exact decDAB_enc (dOpt_enc d (by decide)) _ _ _

theorem accept (d : Option (Fin 64)) (a : Src) : Statement (.accept d a) := by
  refine statement_of rfl rfl (by rw [show encode _ = encR 10#6 (encOpt d) 0#3 0#8 (encSrc a) from rfl, opOf_encR]; decide) ?_
  change decodeWord _ (encR 10#6 (encOpt d) 0#3 0#8 (encSrc a)) = _
  change decodeEngine _ = _
  delta decodeEngine; rw [opOf_encR, fnOf_encR]
  exact decDA_enc (dOpt_enc d (by decide)) _ _

theorem ahpush (d : Option (Fin 64)) (a : Src) (b : Src) : Statement (.ahpush d a b) := by
  refine statement_of rfl rfl (by rw [show encode _ = encR 11#6 (encOpt d) 0#3 (encSrc b) (encSrc a) from rfl, opOf_encR]; decide) ?_
  change decodeWord _ (encR 11#6 (encOpt d) 0#3 (encSrc b) (encSrc a)) = _
  change decodeEngine _ = _
  delta decodeEngine; rw [opOf_encR, fnOf_encR]
  exact decDAB_enc (dOpt_enc d (by decide)) _ _ _

theorem ahsel (d : Option (Fin 64)) (a : Src) (b : Src) : Statement (.ahsel d a b) := by
  refine statement_of rfl rfl (by rw [show encode _ = encR 12#6 (encOpt d) 0#3 (encSrc b) (encSrc a) from rfl, opOf_encR]; decide) ?_
  change decodeWord _ (encR 12#6 (encOpt d) 0#3 (encSrc b) (encSrc a)) = _
  change decodeEngine _ = _
  delta decodeEngine; rw [opOf_encR, fnOf_encR]
  exact decDAB_enc (dOpt_enc d (by decide)) _ _ _

theorem mapreq (d : Option (Fin 64)) (a : Src) (b : Src) : Statement (.mapreq d a b) := by
  refine statement_of rfl rfl (by rw [show encode _ = encR 13#6 (encOpt d) 0#3 (encSrc b) (encSrc a) from rfl, opOf_encR]; decide) ?_
  change decodeWord _ (encR 13#6 (encOpt d) 0#3 (encSrc b) (encSrc a)) = _
  change decodeEngine _ = _
  delta decodeEngine; rw [opOf_encR, fnOf_encR]
  exact decDAB_enc (dOpt_enc d (by decide)) _ _ _

theorem wqpop (d : Option (Fin 32)) (a : Src) : Statement (.wqpop d a) := by
  refine statement_of rfl rfl (by rw [show encode _ = encR 14#6 (encOpt d) 0#3 0#8 (encSrc a) from rfl, opOf_encR]; decide) ?_
  change decodeWord _ (encR 14#6 (encOpt d) 0#3 0#8 (encSrc a)) = _
  change decodeEngine _ = _
  delta decodeEngine; rw [opOf_encR, fnOf_encR]
  exact decDA_enc (dOpt_enc d (by decide)) _ _

theorem wqtry (d : Option (Fin 32)) (a : Src) : Statement (.wqtry d a) := by
  refine statement_of rfl rfl (by rw [show encode _ = encR 14#6 (encOpt d) 1#3 0#8 (encSrc a) from rfl, opOf_encR]; decide) ?_
  change decodeWord _ (encR 14#6 (encOpt d) 1#3 0#8 (encSrc a)) = _
  change decodeEngine _ = _
  delta decodeEngine; rw [opOf_encR, fnOf_encR]
  exact decDA_enc (dOpt_enc d (by decide)) _ _

theorem wqpush (d : Fin 32) (a : Src) : Statement (.wqpush d a) := by
  refine statement_of rfl rfl (by rw [show encode _ = encR 14#6 (encFin 7 d) 2#3 0#8 (encSrc a) from rfl, opOf_encR]; decide) ?_
  change decodeWord _ (encR 14#6 (encFin 7 d) 2#3 0#8 (encSrc a)) = _
  change decodeEngine _ = _
  delta decodeEngine; rw [opOf_encR, fnOf_encR]
  exact decDA_enc (dData_enc d (by decide)) _ _

theorem wqclose (d : Option (Fin 64)) (a : Src) : Statement (.wqclose d a) := by
  refine statement_of rfl rfl (by rw [show encode _ = encR 14#6 (encOpt d) 3#3 0#8 (encSrc a) from rfl, opOf_encR]; decide) ?_
  change decodeWord _ (encR 14#6 (encOpt d) 3#3 0#8 (encSrc a)) = _
  change decodeEngine _ = _
  delta decodeEngine; rw [opOf_encR, fnOf_encR]
  exact decDA_enc (dOpt_enc d (by decide)) _ _

theorem kvalloc (d : Option (Fin 64)) (a : Src) (b : Src) : Statement (.kvalloc d a b) := by
  refine statement_of rfl rfl (by rw [show encode _ = encR 15#6 (encOpt d) 0#3 (encSrc b) (encSrc a) from rfl, opOf_encR]; decide) ?_
  change decodeWord _ (encR 15#6 (encOpt d) 0#3 (encSrc b) (encSrc a)) = _
  change decodeEngine _ = _
  delta decodeEngine; rw [opOf_encR, fnOf_encR]
  exact decDAB_enc (dOpt_enc d (by decide)) _ _ _

theorem kvgrow (d : Option (Fin 64)) (a : Src) (b : Src) : Statement (.kvgrow d a b) := by
  refine statement_of rfl rfl (by rw [show encode _ = encR 15#6 (encOpt d) 1#3 (encSrc b) (encSrc a) from rfl, opOf_encR]; decide) ?_
  change decodeWord _ (encR 15#6 (encOpt d) 1#3 (encSrc b) (encSrc a)) = _
  change decodeEngine _ = _
  delta decodeEngine; rw [opOf_encR, fnOf_encR]
  exact decDAB_enc (dOpt_enc d (by decide)) _ _ _

theorem kvfork (d : Option (Fin 64)) (a : Src) (b : Src) : Statement (.kvfork d a b) := by
  refine statement_of rfl rfl (by rw [show encode _ = encR 15#6 (encOpt d) 2#3 (encSrc b) (encSrc a) from rfl, opOf_encR]; decide) ?_
  change decodeWord _ (encR 15#6 (encOpt d) 2#3 (encSrc b) (encSrc a)) = _
  change decodeEngine _ = _
  delta decodeEngine; rw [opOf_encR, fnOf_encR]
  exact decDAB_enc (dOpt_enc d (by decide)) _ _ _

theorem kvfree (d : Option (Fin 64)) (a : Src) : Statement (.kvfree d a) := by
  refine statement_of rfl rfl (by rw [show encode _ = encR 15#6 (encOpt d) 3#3 0#8 (encSrc a) from rfl, opOf_encR]; decide) ?_
  change decodeWord _ (encR 15#6 (encOpt d) 3#3 0#8 (encSrc a)) = _
  change decodeEngine _ = _
  delta decodeEngine; rw [opOf_encR, fnOf_encR]
  exact decDA_enc (dOpt_enc d (by decide)) _ _

theorem kvinval (d : Option (Fin 64)) (a : Src) (b : Src) : Statement (.kvinval d a b) := by
  refine statement_of rfl rfl (by rw [show encode _ = encR 15#6 (encOpt d) 4#3 (encSrc b) (encSrc a) from rfl, opOf_encR]; decide) ?_
  change decodeWord _ (encR 15#6 (encOpt d) 4#3 (encSrc b) (encSrc a)) = _
  change decodeEngine _ = _
  delta decodeEngine; rw [opOf_encR, fnOf_encR]
  exact decDAB_enc (dOpt_enc d (by decide)) _ _ _

theorem qpushX (d : Fin 32) (q : Fin 8) : Statement (.qpushX d q) := by
  refine statement_of rfl rfl (by rw [show encode _ = encR 16#6 (encFin 7 d) (encFin 3 q) 0#8 0#8 from rfl, opOf_encR]; decide) ?_
  change decodeWord _ (encR 16#6 (encFin 7 d) (encFin 3 q) 0#8 0#8) = _
  change decodeEngine _ = _
  delta decodeEngine; rw [opOf_encR, fnOf_encR, finOf_encFin]
  exact decD_enc (dData_enc d (by decide)) _

theorem brC (c : Src) (off : BitVec 18) : Statement (.brC c off) := by
  refine statement_of rfl rfl (by rw [show encode _ = encB 1#6 (encSrc c) off from rfl, opOf_encB]; decide) ?_
  change decodeWord _ (encB 1#6 (encSrc c) off) = _
  change decodeControl _ = _
  delta decodeControl; rw [opOf_encB]
  exact decBr_enc _ _ _

theorem brzC (c : Src) (off : BitVec 18) : Statement (.brzC c off) := by
  refine statement_of rfl rfl (by rw [show encode _ = encB 2#6 (encSrc c) off from rfl, opOf_encB]; decide) ?_
  change decodeWord _ (encB 2#6 (encSrc c) off) = _
  change decodeControl _ = _
  delta decodeControl; rw [opOf_encB]
  exact decBr_enc _ _ _

theorem callC (c : Src) (off : BitVec 18) : Statement (.callC c off) := by
  refine statement_of rfl rfl (by rw [show encode _ = encB 3#6 (encSrc c) off from rfl, opOf_encB]; decide) ?_
  change decodeWord _ (encB 3#6 (encSrc c) off) = _
  change decodeControl _ = _
  delta decodeControl; rw [opOf_encB]
  exact decBr_enc _ _ _

theorem ret (a : Src) : Statement (.ret a) := by
  refine statement_of rfl rfl (by rw [show encode _ = encR 4#6 0#7 0#3 0#8 (encSrc a) from rfl, opOf_encR]; decide) ?_
  change decodeWord _ (encR 4#6 0#7 0#3 0#8 (encSrc a)) = _
  change decodeControl _ = _
  delta decodeControl; rw [opOf_encR, fnOf_encR]
  exact decA_enc _ _

theorem fjmp (a : Src) (b : Src) : Statement (.fjmp a b) := by
  refine statement_of rfl rfl (by rw [show encode _ = encR 5#6 0#7 0#3 (encSrc b) (encSrc a) from rfl, opOf_encR]; decide) ?_
  change decodeWord _ (encR 5#6 0#7 0#3 (encSrc b) (encSrc a)) = _
  change decodeControl _ = _
  delta decodeControl; rw [opOf_encR, fnOf_encR]
  exact decAB_enc _ _ _

theorem lap (len : BitVec 6) (a : Src) : Statement (.lap len a) := by
  refine statement_of rfl rfl (by rw [show encode _ = encL 6#6 len 0#1 (encSrc a) from rfl, opOf_encL]; decide) ?_
  change decodeWord _ (encL 6#6 len 0#1 (encSrc a)) = _
  change decodeControl _ = _
  delta decodeControl; rw [opOf_encL, lrOf_encL, lenOf_encL, lresOf_encL, aOf_encL]
  rw [decSrc_encSrc]; rfl

theorem lapLr (len : BitVec 6) : Statement (.lapLr len) := by
  refine statement_of rfl rfl (by rw [show encode _ = encL 6#6 len 1#1 0#8 from rfl, opOf_encL]; decide) ?_
  change decodeWord _ (encL 6#6 len 1#1 0#8) = _
  change decodeControl _ = _
  delta decodeControl; rw [opOf_encL, lrOf_encL, lenOf_encL, lresOf_encL, aOf_encL]
  rfl

theorem phase (sc : Scope) : Statement (.phase sc) := by
  refine statement_of rfl rfl (by rw [show encode _ = encR 7#6 0#7 (encScope sc) 0#8 0#8 from rfl, opOf_encR]; decide) ?_
  change decodeWord _ (encR 7#6 0#7 (encScope sc) 0#8 0#8) = _
  change decodeControl _ = _
  delta decodeControl; rw [opOf_encR]
  exact (decScoped_enc _ _).trans (decZ_enc _)

theorem bar (sc : Scope) (a : Src) (b : Src) : Statement (.bar sc a b) := by
  refine statement_of rfl rfl (by rw [show encode _ = encR 8#6 0#7 (encScope sc) (encSrc b) (encSrc a) from rfl, opOf_encR]; decide) ?_
  change decodeWord _ (encR 8#6 0#7 (encScope sc) (encSrc b) (encSrc a)) = _
  change decodeControl _ = _
  delta decodeControl; rw [opOf_encR]
  exact (decScoped_enc _ _).trans (decAB_enc _ _ _)

theorem wait (a : Src) : Statement (.wait a) := by
  refine statement_of rfl rfl (by rw [show encode _ = encR 9#6 0#7 0#3 0#8 (encSrc a) from rfl, opOf_encR]; decide) ?_
  change decodeWord _ (encR 9#6 0#7 0#3 0#8 (encSrc a)) = _
  change decodeControl _ = _
  delta decodeControl; rw [opOf_encR, fnOf_encR]
  exact decA_enc _ _

theorem waitP : Statement (.waitP) := by
  refine statement_of rfl rfl (by rw [show encode _ = encR 9#6 0#7 1#3 0#8 0#8 from rfl, opOf_encR]; decide) ?_
  rfl

theorem tend : Statement (.tend) := by
  refine statement_of rfl rfl (by rw [show encode _ = encR 10#6 0#7 0#3 0#8 0#8 from rfl, opOf_encR]; decide) ?_
  rfl

theorem kpoint : Statement (.kpoint) := by
  refine statement_of rfl rfl (by rw [show encode _ = encR 10#6 0#7 1#3 0#8 0#8 from rfl, opOf_encR]; decide) ?_
  rfl

theorem spawn (a : Src) (b : Src) : Statement (.spawn a b) := by
  refine statement_of rfl rfl (by rw [show encode _ = encR 11#6 0#7 0#3 (encSrc b) (encSrc a) from rfl, opOf_encR]; decide) ?_
  change decodeWord _ (encR 11#6 0#7 0#3 (encSrc b) (encSrc a)) = _
  change decodeControl _ = _
  delta decodeControl; rw [opOf_encR, fnOf_encR]
  exact decAB_enc _ _ _

theorem trap (a : Src) : Statement (.trap a) := by
  refine statement_of rfl rfl (by rw [show encode _ = encR 12#6 0#7 0#3 0#8 (encSrc a) from rfl, opOf_encR]; decide) ?_
  change decodeWord _ (encR 12#6 0#7 0#3 0#8 (encSrc a)) = _
  change decodeControl _ = _
  delta decodeControl; rw [opOf_encR, fnOf_encR]
  exact decA_enc _ _

theorem rti : Statement (.rti) := by
  refine statement_of rfl rfl (by rw [show encode _ = encR 12#6 0#7 1#3 0#8 0#8 from rfl, opOf_encR]; decide) ?_
  rfl

theorem srd (d : Option (Fin 64)) (a : Src) : Statement (.srd d a) := by
  refine statement_of rfl rfl (by rw [show encode _ = encR 56#6 (encOpt d) 0#3 0#8 (encSrc a) from rfl, opOf_encR]; decide) ?_
  change decodeWord _ (encR 56#6 (encOpt d) 0#3 0#8 (encSrc a)) = _
  change decodeControl _ = _
  delta decodeControl; rw [opOf_encR, fnOf_encR]
  exact decDA_enc (dOpt_enc d (by decide)) _ _

theorem swr (d : Option (Fin 64)) (a : Src) (b : Src) : Statement (.swr d a b) := by
  refine statement_of rfl rfl (by rw [show encode _ = encR 56#6 (encOpt d) 1#3 (encSrc b) (encSrc a) from rfl, opOf_encR]; decide) ?_
  change decodeWord _ (encR 56#6 (encOpt d) 1#3 (encSrc b) (encSrc a)) = _
  change decodeControl _ = _
  delta decodeControl; rw [opOf_encR, fnOf_encR]
  exact decDAB_enc (dOpt_enc d (by decide)) _ _ _

theorem ubrd (d : Option (Fin 64)) (a : Src) (b : Src) : Statement (.ubrd d a b) := by
  refine statement_of rfl rfl (by rw [show encode _ = encR 57#6 (encOpt d) 0#3 (encSrc b) (encSrc a) from rfl, opOf_encR]; decide) ?_
  change decodeWord _ (encR 57#6 (encOpt d) 0#3 (encSrc b) (encSrc a)) = _
  change decodeControl _ = _
  delta decodeControl; rw [opOf_encR, fnOf_encR]
  exact decDAB_enc (dOpt_enc d (by decide)) _ _ _

theorem ubwr (d : Fin 64) (a : Src) (b : Src) : Statement (.ubwr d a b) := by
  refine statement_of rfl rfl (by rw [show encode _ = encR 57#6 (encFin 7 d) 1#3 (encSrc b) (encSrc a) from rfl, opOf_encR]; decide) ?_
  change decodeWord _ (encR 57#6 (encFin 7 d) 1#3 (encSrc b) (encSrc a)) = _
  change decodeControl _ = _
  delta decodeControl; rw [opOf_encR, fnOf_encR]
  exact decDAB_enc (dData_enc d (by decide)) _ _ _

theorem lctlPark (d : Option (Fin 64)) (a : Src) : Statement (.lctlPark d a) := by
  refine statement_of rfl rfl (by rw [show encode _ = encR 58#6 (encOpt d) 0#3 0#8 (encSrc a) from rfl, opOf_encR]; decide) ?_
  change decodeWord _ (encR 58#6 (encOpt d) 0#3 0#8 (encSrc a)) = _
  change decodeControl _ = _
  delta decodeControl; rw [opOf_encR, fnOf_encR]
  exact decDA_enc (dOpt_enc d (by decide)) _ _

theorem lctlRes (d : Option (Fin 64)) (a : Src) : Statement (.lctlRes d a) := by
  refine statement_of rfl rfl (by rw [show encode _ = encR 58#6 (encOpt d) 1#3 0#8 (encSrc a) from rfl, opOf_encR]; decide) ?_
  change decodeWord _ (encR 58#6 (encOpt d) 1#3 0#8 (encSrc a)) = _
  change decodeControl _ = _
  delta decodeControl; rw [opOf_encR, fnOf_encR]
  exact decDA_enc (dOpt_enc d (by decide)) _ _

theorem lctlAbort (d : Option (Fin 64)) (a : Src) : Statement (.lctlAbort d a) := by
  refine statement_of rfl rfl (by rw [show encode _ = encR 58#6 (encOpt d) 2#3 0#8 (encSrc a) from rfl, opOf_encR]; decide) ?_
  change decodeWord _ (encR 58#6 (encOpt d) 2#3 0#8 (encSrc a)) = _
  change decodeControl _ = _
  delta decodeControl; rw [opOf_encR, fnOf_encR]
  exact decDA_enc (dOpt_enc d (by decide)) _ _

theorem otinv (a : Src) : Statement (.otinv a) := by
  refine statement_of rfl rfl (by rw [show encode _ = encR 59#6 0#7 0#3 0#8 (encSrc a) from rfl, opOf_encR]; decide) ?_
  change decodeWord _ (encR 59#6 0#7 0#3 0#8 (encSrc a)) = _
  change decodeControl _ = _
  delta decodeControl; rw [opOf_encR, fnOf_encR]
  exact decA_enc _ _

theorem otinvAll : Statement (.otinvAll) := by
  refine statement_of rfl rfl (by rw [show encode _ = encR 59#6 0#7 1#3 0#8 0#8 from rfl, opOf_encR]; decide) ?_
  rfl

theorem mcall (d : Option (Fin 64)) (a : Src) (b : Src) : Statement (.mcall d a b) := by
  refine statement_of rfl rfl (by rw [show encode _ = encR 60#6 (encOpt d) 0#3 (encSrc b) (encSrc a) from rfl, opOf_encR]; decide) ?_
  change decodeWord _ (encR 60#6 (encOpt d) 0#3 (encSrc b) (encSrc a)) = _
  change decodeControl _ = _
  delta decodeControl; rw [opOf_encR, fnOf_encR]
  exact decDAB_enc (dOpt_enc d (by decide)) _ _ _

theorem mans (a : Src) (b : Src) : Statement (.mans a b) := by
  refine statement_of rfl rfl (by rw [show encode _ = encR 60#6 0#7 1#3 (encSrc b) (encSrc a) from rfl, opOf_encR]; decide) ?_
  change decodeWord _ (encR 60#6 0#7 1#3 (encSrc b) (encSrc a)) = _
  change decodeControl _ = _
  delta decodeControl; rw [opOf_encR, fnOf_encR]
  exact decAB_enc _ _ _

theorem erpost (d : Option (Fin 64)) (a : Src) (b : Src) : Statement (.erpost d a b) := by
  refine statement_of rfl rfl (by rw [show encode _ = encR 61#6 (encOpt d) 0#3 (encSrc b) (encSrc a) from rfl, opOf_encR]; decide) ?_
  change decodeWord _ (encR 61#6 (encOpt d) 0#3 (encSrc b) (encSrc a)) = _
  change decodeControl _ = _
  delta decodeControl; rw [opOf_encR, fnOf_encR]
  exact decDAB_enc (dOpt_enc d (by decide)) _ _ _

theorem launchQueuePop (die : Nat) : Statement (.launchQueuePop die) := by
  intro sl att hs; cases hs

theorem placement (die part : Nat) : Statement (.placement die part) := by
  intro sl att hs; cases hs

theorem placementWaitLimit (die part : Nat) : Statement (.placementWaitLimit die part) := by
  intro sl att hs; cases hs

theorem candidateAging (die idx : Nat) : Statement (.candidateAging die idx) := by
  intro sl att hs; cases hs

theorem urgencyWindowEntry (die idx : Nat) : Statement (.urgencyWindowEntry die idx) := by
  intro sl att hs; cases hs

theorem preemptionDecision (die part : Nat) : Statement (.preemptionDecision die part) := by
  intro sl att hs; cases hs

theorem parkComplete (launch : W32) : Statement (.parkComplete launch) := by
  intro sl att hs; cases hs

theorem parkAbandon (launch : W32) : Statement (.parkAbandon launch) := by
  intro sl att hs; cases hs

theorem saveComplete (launch : W32) : Statement (.saveComplete launch) := by
  intro sl att hs; cases hs

theorem resumption (launch : W32) : Statement (.resumption launch) := by
  intro sl att hs; cases hs

theorem restoreComplete (launch : W32) : Statement (.restoreComplete launch) := by
  intro sl att hs; cases hs

theorem pacerOverrun (die : Nat) (launch : W32) : Statement (.pacerOverrun die launch) := by
  intro sl att hs; cases hs

theorem agingHold (core : Nat) : Statement (.agingHold core) := by
  intro sl att hs; cases hs

theorem faultDelivery (core ctx : Nat) : Statement (.faultDelivery core ctx) := by
  intro sl att hs; cases hs

theorem resultLanding (core ctx : Nat) : Statement (.resultLanding core ctx) := by
  intro sl att hs; cases hs

theorem sectorArrival (core ctx : Nat) : Statement (.sectorArrival core ctx) := by
  intro sl att hs; cases hs

theorem objectEntryArrival (obj : BitVec 24) : Statement (.objectEntryArrival obj) := by
  intro sl att hs; cases hs

theorem remoteScratchpadArrival (core : Nat) : Statement (.remoteScratchpadArrival core) := by
  intro sl att hs; cases hs

theorem engineHazardRelease (core ctx cmd : Nat) : Statement (.engineHazardRelease core ctx cmd) := by
  intro sl att hs; cases hs

theorem engineOpComplete (core ctx cmd : Nat) : Statement (.engineOpComplete core ctx cmd) := by
  intro sl att hs; cases hs

theorem engineFault (core ctx cmd : Nat) : Statement (.engineFault core ctx cmd) := by
  intro sl att hs; cases hs

theorem matrixStep (core : Nat) : Statement (.matrixStep core) := by
  intro sl att hs; cases hs

theorem attentionOperationStep (core : Nat) : Statement (.attentionOperationStep core) := by
  intro sl att hs; cases hs

theorem contextEnded (core ctx : Nat) : Statement (.contextEnded core ctx) := by
  intro sl att hs; cases hs

theorem killTakesEffect (core ctx : Nat) : Statement (.killTakesEffect core ctx) := by
  intro sl att hs; cases hs

theorem taggedWriteStage (die : Nat) (handle member : W64) (addr : W64) (obj : BitVec 24) (data : List Byte) : Statement (.taggedWriteStage die handle member addr obj data) := by
  intro sl att hs; cases hs

theorem handlerRecordPush (core ctx : Nat) : Statement (.handlerRecordPush core ctx) := by
  intro sl att hs; cases hs

theorem taskReplayPush (core ctx : Nat) : Statement (.taskReplayPush core ctx) := by
  intro sl att hs; cases hs

theorem flagIncrement (idx : Nat) : Statement (.flagIncrement idx) := by
  intro sl att hs; cases hs

theorem store (pk : Packet) : Statement (.store pk) := by
  intro sl att hs; cases hs

theorem storeWithFlag (pk : Packet) : Statement (.storeWithFlag pk) := by
  intro sl att hs; cases hs

theorem atomic (pk : Packet) : Statement (.atomic pk) := by
  intro sl att hs; cases hs

theorem loadRequest (pk : Packet) : Statement (.loadRequest pk) := by
  intro sl att hs; cases hs

theorem loadData (pk : Packet) (core ctx : Nat) : Statement (.loadData pk core ctx) := by
  intro sl att hs; cases hs

theorem acknowledgement (pk : Packet) (core ctx : Nat) : Statement (.acknowledgement pk core ctx) := by
  intro sl att hs; cases hs

theorem taggedStore (pk : Packet) (handle member : W64) (target : BitVec 24) : Statement (.taggedStore pk handle member target) := by
  intro sl att hs; cases hs

theorem joinControl (pk : Packet) (msg : JoinMsg) : Statement (.joinControl pk msg) := by
  intro sl att hs; cases hs

theorem management (pk : Packet) : Statement (.management pk) := by
  intro sl att hs; cases hs

theorem gapTimeout (src : BitVec 13) (vc : BitVec 2) : Statement (.gapTimeout src vc) := by
  intro sl att hs; cases hs

theorem quarantineResync (peer : BitVec 13) (nums : List Nat) (ok : Bool) : Statement (.quarantineResync peer nums ok) := by
  intro sl att hs; cases hs

theorem heartbeat (src : BitVec 13) : Statement (.heartbeat src) := by
  intro sl att hs; cases hs

theorem heartbeatMissFence (peer : BitVec 13) : Statement (.heartbeatMissFence peer) := by
  intro sl att hs; cases hs

theorem prepare (keys : EpochKeys) : Statement (.prepare keys) := by
  intro sl att hs; cases hs

theorem drainComplete : Statement (.drainComplete) := by
  intro sl att hs; cases hs

theorem rekeyArrival (src : BitVec 13) (older : Nat) : Statement (.rekeyArrival src older) := by
  intro sl att hs; cases hs

theorem commit : Statement (.commit) := by
  intro sl att hs; cases hs

theorem abort : Statement (.abort) := by
  intro sl att hs; cases hs

theorem prepareTimeout (peer : BitVec 13) : Statement (.prepareTimeout peer) := by
  intro sl att hs; cases hs

theorem fence (peer : BitVec 13) : Statement (.fence peer) := by
  intro sl att hs; cases hs

theorem leadAnnouncement (src : BitVec 13) : Statement (.leadAnnouncement src) := by
  intro sl att hs; cases hs

theorem rekeyRequest (src : BitVec 13) : Statement (.rekeyRequest src) := by
  intro sl att hs; cases hs

theorem measurementChangeReport (src : BitVec 13) : Statement (.measurementChangeReport src) := by
  intro sl att hs; cases hs

theorem scrubLine (line : Nat) : Statement (.scrubLine line) := by
  intro sl att hs; cases hs

theorem patrolScrub (die : Nat) (sector : Nat) : Statement (.patrolScrub die sector) := by
  intro sl att hs; cases hs

theorem readErrorLogWord (port : Nat) (w1 w2 : W64) : Statement (.readErrorLogWord port w1 w2) := by
  intro sl att hs; cases hs

theorem createDomain (port : Nat) (obj : BitVec 24) (off : W64) : Statement (.createDomain port obj off) := by
  intro sl att hs; cases hs

theorem admitModule (port : Nat) (peer : BitVec 13) (out : AdmitOutcome) (keys : EpochKeys) : Statement (.admitModule port peer out keys) := by
  intro sl att hs; cases hs

theorem removeModule (port : Nat) (peer : BitVec 13) : Statement (.removeModule port peer) := by
  intro sl att hs; cases hs

theorem rekeyNow (port : Nat) (keys : EpochKeys) : Statement (.rekeyNow port keys) := by
  intro sl att hs; cases hs

theorem leaveDomain (port : Nat) : Statement (.leaveDomain port) := by
  intro sl att hs; cases hs

theorem readDomainStatus (port : Nat) : Statement (.readDomainStatus port) := by
  intro sl att hs; cases hs

theorem moduleResetRequest (port : Nat) : Statement (.moduleResetRequest port) := by
  intro sl att hs; cases hs

theorem spdmRequest (port : Nat) (request : List Byte) : Statement (.spdmRequest port request) := by
  intro sl att hs; cases hs

theorem registerWrite (who : Claimant) (reg : BitVec 16) (value : W64) : Statement (.registerWrite who reg value) := by
  intro sl att hs; cases hs

theorem take (claimants : List Claimant) : Statement (.take claimants) := by
  intro sl att hs; cases hs

theorem semaWrite (who : Claimant) (value : W64) : Statement (.semaWrite who value) := by
  intro sl att hs; cases hs

theorem leaseExpiry : Statement (.leaseExpiry) := by
  intro sl att hs; cases hs

theorem ahiPush (port : Nat) (value : W64) : Statement (.ahiPush port value) := by
  intro sl att hs; cases hs

theorem queueWindowPush (port : Nat) (off : Nat) (data : List Byte) : Statement (.queueWindowPush port off data) := by
  intro sl att hs; cases hs

theorem wqcfgReopen (who : Claimant) (die q : Nat) : Statement (.wqcfgReopen who die q) := by
  intro sl att hs; cases hs

theorem strictWrite (who : Claimant) (die : Nat) (value : W64) : Statement (.strictWrite who die value) := by
  intro sl att hs; cases hs

theorem pendingRecordWrite (ring : Nat) : Statement (.pendingRecordWrite ring) := by
  intro sl att hs; cases hs

theorem interruptCoalescingTimer (ring : Nat) : Statement (.interruptCoalescingTimer ring) := by
  intro sl att hs; cases hs

theorem transmitDescriptor (port pair : Nat) : Statement (.transmitDescriptor port pair) := by
  intro sl att hs; cases hs

theorem frameReceive (port sub pair : Nat) (frame : List Byte) : Statement (.frameReceive port sub pair frame) := by
  intro sl att hs; cases hs

theorem hostMemRead (port : Nat) (addr n : Nat) : Statement (.hostMemRead port addr n) := by
  intro sl att hs; cases hs

theorem hostMemWrite (port : Nat) (addr : Nat) (data : List Byte) (poison : Bool) : Statement (.hostMemWrite port addr data poison) := by
  intro sl att hs; cases hs

theorem hostAtomic (port : Nat) (addr n : Nat) (op : HomeOp) (v v2 : W64) : Statement (.hostAtomic port addr n op v v2) := by
  intro sl att hs; cases hs

theorem hostLockedOperation (port : Nat) (addr n : Nat) (op : HomeOp) (v v2 : W64) : Statement (.hostLockedOperation port addr n op v v2) := by
  intro sl att hs; cases hs

theorem hostSnoop (port : Nat) (line : Nat) (data : List Byte) : Statement (.hostSnoop port line data) := by
  intro sl att hs; cases hs

theorem translationResponse (port : Nat) (pasid : Option (BitVec 20)) (va : Nat) (page : Nat) (pa : Nat) (rd wr : Bool) : Statement (.translationResponse port pasid va page pa rd wr) := by
  intro sl att hs; cases hs

theorem pageRequestResponse (port : Nat) (obj : BitVec 24) (page : Nat) (ans : PriAnswer) : Statement (.pageRequestResponse port obj page ans) := by
  intro sl att hs; cases hs

theorem atsInvalidateRequest (port : Nat) (pasid : Option (BitVec 20)) (va len : Nat) : Statement (.atsInvalidateRequest port pasid va len) := by
  intro sl att hs; cases hs

theorem powerOn : Statement (.powerOn) := by
  intro sl att hs; cases hs

theorem moduleReset : Statement (.moduleReset) := by
  intro sl att hs; cases hs

theorem portReset (port : Nat) : Statement (.portReset port) := by
  intro sl att hs; cases hs

theorem functionLevelReset (port : Nat) : Statement (.functionLevelReset port) := by
  intro sl att hs; cases hs

theorem linkStateChange (global : Bool) (link : Nat) (up : Bool) : Statement (.linkStateChange global link up) := by
  intro sl att hs; cases hs

theorem functionReady (f : ReadyFn) : Statement (.functionReady f) := by
  intro sl att hs; cases hs

theorem functionFailure (f : ReadyFn) : Statement (.functionFailure f) := by
  intro sl att hs; cases hs

theorem moduleWideError : Statement (.moduleWideError) := by
  intro sl att hs; cases hs

theorem controlStateError (launch : W32) : Statement (.controlStateError launch) := by
  intro sl att hs; cases hs

theorem softError (unit : ErrUnit) (fate : ErrFate) (core ctx : Nat) (loc : Nat) : Statement (.softError unit fate core ctx loc) := by
  intro sl att hs; cases hs

theorem errorSummaryRecord (die : Nat) (unit : ErrUnit) : Statement (.errorSummaryRecord die unit) := by
  intro sl att hs; cases hs

theorem powerControlWindow (power : Nat) (temps : List Nat) : Statement (.powerControlWindow power temps) := by
  intro sl att hs; cases hs

theorem kvPageMove (die part idx : Nat) : Statement (.kvPageMove die part idx) := by
  intro sl att hs; cases hs

theorem slabReclaim (die part base : Nat) : Statement (.slabReclaim die part base) := by
  intro sl att hs; cases hs

theorem fillEntryAdvance (launch : W32) (lcluster map : Nat) : Statement (.fillEntryAdvance launch lcluster map) := by
  intro sl att hs; cases hs

theorem waitUntilTickReached (core ctx : Nat) : Statement (.waitUntilTickReached core ctx) := by
  intro sl att hs; cases hs

theorem publishComplete (core ctx : Nat) : Statement (.publishComplete core ctx) := by
  intro sl att hs; cases hs

theorem homeUnitExecution (reqs : List HomeReq) : Statement (.homeUnitExecution reqs) := by
  intro sl att hs; cases hs

theorem mapCopyFull (core map : Nat) : Statement (.mapCopyFull core map) := by
  intro sl att hs; cases hs

theorem configurationAccess (port : Nat) (cfg : PortConfig) : Statement (.configurationAccess port cfg) := by
  intro sl att hs; cases hs

theorem ethernetLinkChange (port sub : Nat) (up : Bool) : Statement (.ethernetLinkChange port sub up) := by
  intro sl att hs; cases hs

end Sys2Proof.Laws.RoundTrip
end

