-- ==== Sys2Proof/Laws/Scalar.lean ====
section
/-! SUPPORT. What the shared shapes of slot operations answer when their sources can be read: scalar operations of one and two
sources, and predicate operations. -/

namespace Sys2Proof.Laws
open Sys2Proof Sys2Proof.Machine

variable {s : State} {u : SU} {d : Option (Fin 64)} {a b : Src} {x y : W64} {l : Nat}

/-- A well-formed slot operation that acts answers the state it gives. -/
theorem issue_ok {slot : Nat} {wf : Bool} {act : Act} {t : State} (hw : wf = true) (ha : act = .ok t) :
    s.issue slot wf act = .next t := by
  subst hw ha; rfl

theorem alu2_gives (f : W64 → W64 → W64) (ha : a.scalarOk = true) (hb : b.scalarOk = true)
    (hx : s.scalar (slotS u) 0 a = .ok x) (hy : s.scalar (slotS u) 1 b = .ok y) :
    GivesS s (alu2 u d a b l f s) (slotS u) l d (f x y) := by
  refine gives_of_eq _ (issue_ok (t := s.retS (slotS u) l d (f x y)) (by rw [ha, hb]; rfl) ?_) (retS_gives s _ l d _ (slotS_lt u))
  rw [hx, hy]; rfl

theorem alu1_gives (f : W64 → W64) (ha : a.scalarOk = true) (hx : s.scalar (slotS u) 0 a = .ok x) :
    GivesS s (alu1 u d a l f s) (slotS u) l d (f x) := by
  refine gives_of_eq _ (issue_ok (t := s.retS (slotS u) l d (f x)) ha ?_) (retS_gives s _ l d _ (slotS_lt u))
  rw [hx]; rfl

theorem aluImm_gives {r : Fin 64} (f : W64 → W64) (hx : s.scalar (slotS u) 0 (.s r) = .ok x) :
    GivesS s (aluImm u r f s) (slotS u) 1 (some r) (f x) := by
  refine gives_of_eq _ (issue_ok (t := s.retS (slotS u) 1 (some r) (f x)) rfl ?_) (retS_gives s _ 1 _ _ (slotS_lt u))
  rw [hx]; rfl

theorem predOp2_gives {e : Option (Fin 24)} {p q : Pred} (f : Pred → Pred → Pred) (ha : a.predOk = true) (hb : b.predOk = true)
    (hx : s.pred (slotS u) 0 a = .ok p) (hy : s.pred (slotS u) 1 b = .ok q) :
    GivesP s (predOp2 u e a b f s) (slotS u) 1 e (f p q) := by
  refine gives_of_eq _ (issue_ok (t := s.retP (slotS u) 1 e (f p q)) (by rw [ha, hb]; rfl) ?_) (retP_gives s _ 1 e _ (slotS_lt u))
  rw [hx, hy]; rfl

end Sys2Proof.Laws
end

