-- ==== Sys2Proof/Laws/State.lean ====
section
/-! SUPPORT. What each update of the state leaves in each field: one lemma per field and update. -/

namespace Sys2Proof.Machine

/-! ### The issue stage -/

@[simp] theorem State.onCtx_now_mod (s : State) (f : Ctx → Ctx) : (s.onCtx f).now.mod = s.now.mod := rfl
@[simp] theorem State.onCtx_now_core (s : State) (f : Ctx → Ctx) : (s.onCtx f).now.core = s.now.core := rfl
@[simp] theorem State.onCtx_now_ctx (s : State) (f : Ctx → Ctx) : (s.onCtx f).now.ctx = f s.now.ctx := rfl
@[simp] theorem State.onCtx_now_cid (s : State) (f : Ctx → Ctx) : (s.onCtx f).now.cid = s.now.cid := rfl
@[simp] theorem State.onCtx_now_xid (s : State) (f : Ctx → Ctx) : (s.onCtx f).now.xid = s.now.xid := rfl
@[simp] theorem State.onCtx_start (s : State) (f : Ctx → Ctx) : (s.onCtx f).start = s.start := rfl
@[simp] theorem State.onCtx_iss (s : State) (f : Ctx → Ctx) : (s.onCtx f).iss = s.iss := rfl
@[simp] theorem State.onCtx_agenda (s : State) (f : Ctx → Ctx) : (s.onCtx f).agenda = s.agenda := rfl
@[simp] theorem State.onCtx_turn (s : State) (f : Ctx → Ctx) : (s.onCtx f).turn = s.turn := rfl
@[simp] theorem State.onCtx_free (s : State) (f : Ctx → Ctx) : (s.onCtx f).free = s.free := rfl

@[simp] theorem State.onCore_now_mod (s : State) (f : Core → Core) : (s.onCore f).now.mod = s.now.mod := rfl
@[simp] theorem State.onCore_now_core (s : State) (f : Core → Core) : (s.onCore f).now.core = f s.now.core := rfl
@[simp] theorem State.onCore_now_ctx (s : State) (f : Core → Core) : (s.onCore f).now.ctx = s.now.ctx := rfl
@[simp] theorem State.onCore_now_cid (s : State) (f : Core → Core) : (s.onCore f).now.cid = s.now.cid := rfl
@[simp] theorem State.onCore_now_xid (s : State) (f : Core → Core) : (s.onCore f).now.xid = s.now.xid := rfl
@[simp] theorem State.onCore_start (s : State) (f : Core → Core) : (s.onCore f).start = s.start := rfl
@[simp] theorem State.onCore_iss (s : State) (f : Core → Core) : (s.onCore f).iss = s.iss := rfl
@[simp] theorem State.onCore_agenda (s : State) (f : Core → Core) : (s.onCore f).agenda = s.agenda := rfl
@[simp] theorem State.onCore_turn (s : State) (f : Core → Core) : (s.onCore f).turn = s.turn := rfl
@[simp] theorem State.onCore_free (s : State) (f : Core → Core) : (s.onCore f).free = s.free := rfl

@[simp] theorem State.onMod_now_mod (s : State) (f : Mod → Mod) : (s.onMod f).now.mod = f s.now.mod := rfl
@[simp] theorem State.onMod_now_core (s : State) (f : Mod → Mod) : (s.onMod f).now.core = s.now.core := rfl
@[simp] theorem State.onMod_now_ctx (s : State) (f : Mod → Mod) : (s.onMod f).now.ctx = s.now.ctx := rfl
@[simp] theorem State.onMod_now_cid (s : State) (f : Mod → Mod) : (s.onMod f).now.cid = s.now.cid := rfl
@[simp] theorem State.onMod_now_xid (s : State) (f : Mod → Mod) : (s.onMod f).now.xid = s.now.xid := rfl
@[simp] theorem State.onMod_start (s : State) (f : Mod → Mod) : (s.onMod f).start = s.start := rfl
@[simp] theorem State.onMod_iss (s : State) (f : Mod → Mod) : (s.onMod f).iss = s.iss := rfl
@[simp] theorem State.onMod_agenda (s : State) (f : Mod → Mod) : (s.onMod f).agenda = s.agenda := rfl
@[simp] theorem State.onMod_turn (s : State) (f : Mod → Mod) : (s.onMod f).turn = s.turn := rfl
@[simp] theorem State.onMod_free (s : State) (f : Mod → Mod) : (s.onMod f).free = s.free := rfl

@[simp] theorem State.onIss_now_mod (s : State) (f : Iss → Iss) : (s.onIss f).now.mod = s.now.mod := rfl
@[simp] theorem State.onIss_now_core (s : State) (f : Iss → Iss) : (s.onIss f).now.core = s.now.core := rfl
@[simp] theorem State.onIss_now_ctx (s : State) (f : Iss → Iss) : (s.onIss f).now.ctx = s.now.ctx := rfl
@[simp] theorem State.onIss_now_cid (s : State) (f : Iss → Iss) : (s.onIss f).now.cid = s.now.cid := rfl
@[simp] theorem State.onIss_now_xid (s : State) (f : Iss → Iss) : (s.onIss f).now.xid = s.now.xid := rfl
@[simp] theorem State.onIss_start (s : State) (f : Iss → Iss) : (s.onIss f).start = s.start := rfl
@[simp] theorem State.onIss_iss (s : State) (f : Iss → Iss) : (s.onIss f).iss = f s.iss := rfl
@[simp] theorem State.onIss_agenda (s : State) (f : Iss → Iss) : (s.onIss f).agenda = s.agenda := rfl
@[simp] theorem State.onIss_turn (s : State) (f : Iss → Iss) : (s.onIss f).turn = s.turn := rfl
@[simp] theorem State.onIss_free (s : State) (f : Iss → Iss) : (s.onIss f).free = s.free := rfl

@[simp] theorem State.onBank_now_mod (s : State) (f : Bank → Bank) : (s.onBank f).now.mod = s.now.mod := rfl
@[simp] theorem State.onBank_now_core (s : State) (f : Bank → Bank) : (s.onBank f).now.core = s.now.core := rfl
@[simp] theorem State.onBank_now_cid (s : State) (f : Bank → Bank) : (s.onBank f).now.cid = s.now.cid := rfl
@[simp] theorem State.onBank_now_xid (s : State) (f : Bank → Bank) : (s.onBank f).now.xid = s.now.xid := rfl
@[simp] theorem State.onBank_start (s : State) (f : Bank → Bank) : (s.onBank f).start = s.start := rfl
@[simp] theorem State.onBank_iss (s : State) (f : Bank → Bank) : (s.onBank f).iss = s.iss := rfl
@[simp] theorem State.onBank_agenda (s : State) (f : Bank → Bank) : (s.onBank f).agenda = s.agenda := rfl
@[simp] theorem State.onBank_turn (s : State) (f : Bank → Bank) : (s.onBank f).turn = s.turn := rfl
@[simp] theorem State.onBank_free (s : State) (f : Bank → Bank) : (s.onBank f).free = s.free := rfl
@[simp] theorem State.onBank_ctx_st (s : State) (f : Bank → Bank) : (s.onBank f).now.ctx.st = s.now.ctx.st := rfl
@[simp] theorem State.onBank_ctx_age (s : State) (f : Bank → Bank) : (s.onBank f).now.ctx.age = s.now.ctx.age := rfl
@[simp] theorem State.onBank_ctx_bank (s : State) (f : Bank → Bank) : (s.onBank f).now.ctx.bank = f s.now.ctx.bank := rfl
@[simp] theorem State.onBank_ctx_saved (s : State) (f : Bank → Bank) : (s.onBank f).now.ctx.saved = s.now.ctx.saved := rfl
@[simp] theorem State.onBank_ctx_windows (s : State) (f : Bank → Bank) : (s.onBank f).now.ctx.windows = s.now.ctx.windows := rfl
@[simp] theorem State.onBank_ctx_savedWin (s : State) (f : Bank → Bank) : (s.onBank f).now.ctx.savedWin = s.now.ctx.savedWin := rfl
@[simp] theorem State.onBank_ctx_svKind (s : State) (f : Bank → Bank) : (s.onBank f).now.ctx.svKind = s.now.ctx.svKind := rfl
@[simp] theorem State.onBank_ctx_svRecord (s : State) (f : Bank → Bank) : (s.onBank f).now.ctx.svRecord = s.now.ctx.svRecord := rfl
@[simp] theorem State.onBank_ctx_svOp (s : State) (f : Bank → Bank) : (s.onBank f).now.ctx.svOp = s.now.ctx.svOp := rfl
@[simp] theorem State.onBank_ctx_poison (s : State) (f : Bank → Bank) : (s.onBank f).now.ctx.poison = s.now.ctx.poison := rfl
@[simp] theorem State.onBank_ctx_savedPoison (s : State) (f : Bank → Bank) : (s.onBank f).now.ctx.savedPoison = s.now.ctx.savedPoison := rfl
@[simp] theorem State.onBank_ctx_unpub (s : State) (f : Bank → Bank) : (s.onBank f).now.ctx.unpub = s.now.ctx.unpub := rfl
@[simp] theorem State.onBank_ctx_unpubPoison (s : State) (f : Bank → Bank) : (s.onBank f).now.ctx.unpubPoison = s.now.ctx.unpubPoison := rfl
@[simp] theorem State.onBank_ctx_out (s : State) (f : Bank → Bank) : (s.onBank f).now.ctx.out = s.now.ctx.out := rfl
@[simp] theorem State.onBank_ctx_snap (s : State) (f : Bank → Bank) : (s.onBank f).now.ctx.snap = s.now.ctx.snap := rfl
@[simp] theorem State.onBank_ctx_seen (s : State) (f : Bank → Bank) : (s.onBank f).now.ctx.seen = s.now.ctx.seen := rfl
@[simp] theorem State.onBank_ctx_l1 (s : State) (f : Bank → Bank) : (s.onBank f).now.ctx.l1 = s.now.ctx.l1 := rfl
@[simp] theorem State.onBank_ctx_rcache (s : State) (f : Bank → Bank) : (s.onBank f).now.ctx.rcache = s.now.ctx.rcache := rfl
@[simp] theorem State.onBank_ctx_engine (s : State) (f : Bank → Bank) : (s.onBank f).now.ctx.engine = s.now.ctx.engine := rfl
@[simp] theorem State.onBank_ctx_cmd (s : State) (f : Bank → Bank) : (s.onBank f).now.ctx.cmd = s.now.ctx.cmd := rfl
@[simp] theorem State.onBank_ctx_acks (s : State) (f : Bank → Bank) : (s.onBank f).now.ctx.acks = s.now.ctx.acks := rfl
@[simp] theorem State.onBank_ctx_ackNext (s : State) (f : Bank → Bank) : (s.onBank f).now.ctx.ackNext = s.now.ctx.ackNext := rfl
@[simp] theorem State.onBank_ctx_faults (s : State) (f : Bank → Bank) : (s.onBank f).now.ctx.faults = s.now.ctx.faults := rfl
@[simp] theorem State.onBank_ctx_kills (s : State) (f : Bank → Bank) : (s.onBank f).now.ctx.kills = s.now.ctx.kills := rfl
@[simp] theorem State.onBank_ctx_pending (s : State) (f : Bank → Bank) : (s.onBank f).now.ctx.pending = s.now.ctx.pending := rfl
@[simp] theorem State.onBank_ctx_savedPend (s : State) (f : Bank → Bank) : (s.onBank f).now.ctx.savedPend = s.now.ctx.savedPend := rfl
@[simp] theorem State.onBank_ctx_stuck (s : State) (f : Bank → Bank) : (s.onBank f).now.ctx.stuck = s.now.ctx.stuck := rfl
@[simp] theorem State.onBank_ctx_joinWait (s : State) (f : Bank → Bank) : (s.onBank f).now.ctx.joinWait = s.now.ctx.joinWait := rfl
@[simp] theorem State.onBank_ctx_waitTick (s : State) (f : Bank → Bank) : (s.onBank f).now.ctx.waitTick = s.now.ctx.waitTick := rfl
@[simp] theorem State.onBank_ctx_duty (s : State) (f : Bank → Bank) : (s.onBank f).now.ctx.duty = s.now.ctx.duty := rfl
@[simp] theorem State.onBank_ctx_overSince (s : State) (f : Bank → Bank) : (s.onBank f).now.ctx.overSince = s.now.ctx.overSince := rfl
@[simp] theorem State.onBank_ctx_reqNext (s : State) (f : Bank → Bank) : (s.onBank f).now.ctx.reqNext = s.now.ctx.reqNext := rfl
@[simp] theorem State.onBank_ctx_pageFail (s : State) (f : Bank → Bank) : (s.onBank f).now.ctx.pageFail = s.now.ctx.pageFail := rfl
@[simp] theorem State.onBank_ctx_remoteFail (s : State) (f : Bank → Bank) : (s.onBank f).now.ctx.remoteFail = s.now.ctx.remoteFail := rfl
@[simp] theorem State.onBank_ctx_checked (s : State) (f : Bank → Bank) : (s.onBank f).now.ctx.checked = s.now.ctx.checked := rfl
@[simp] theorem State.onBank_ctx_lineGot (s : State) (f : Bank → Bank) : (s.onBank f).now.ctx.lineGot = s.now.ctx.lineGot := rfl
@[simp] theorem State.onBank_ctx_joinTold (s : State) (f : Bank → Bank) : (s.onBank f).now.ctx.joinTold = s.now.ctx.joinTold := rfl
@[simp] theorem State.onBank_ctx_waitBank (s : State) (f : Bank → Bank) : (s.onBank f).now.ctx.waitBank = s.now.ctx.waitBank := rfl
@[simp] theorem State.onBank_ctx_wasBlocked (s : State) (f : Bank → Bank) : (s.onBank f).now.ctx.wasBlocked = s.now.ctx.wasBlocked := rfl

/-! ### The module -/

@[simp] theorem Mod.setDie_tick (m : Mod) (d : Nat) (f : Die → Die) : (m.setDie d f).tick = m.tick := rfl
@[simp] theorem Mod.setDie_cores (m : Mod) (d : Nat) (f : Die → Die) : (m.setDie d f).cores = m.cores := rfl
@[simp] theorem Mod.setDie_launches (m : Mod) (d : Nat) (f : Die → Die) : (m.setDie d f).launches = m.launches := rfl
@[simp] theorem Mod.setDie_dies (m : Mod) (d : Nat) (f : Die → Die) : (m.setDie d f).dies = vmod m.dies d f := rfl
@[simp] theorem Mod.setDie_mem (m : Mod) (d : Nat) (f : Die → Die) : (m.setDie d f).mem = m.mem := rfl
@[simp] theorem Mod.setDie_poison (m : Mod) (d : Nat) (f : Die → Die) : (m.setDie d f).poison = m.poison := rfl
@[simp] theorem Mod.setDie_pubs (m : Mod) (d : Nat) (f : Die → Die) : (m.setDie d f).pubs = m.pubs := rfl
@[simp] theorem Mod.setDie_pubSeq (m : Mod) (d : Nat) (f : Die → Die) : (m.setDie d f).pubSeq = m.pubSeq := rfl
@[simp] theorem Mod.setDie_svBanks (m : Mod) (d : Nat) (f : Die → Die) : (m.setDie d f).svBanks = m.svBanks := rfl
@[simp] theorem Mod.setDie_tables (m : Mod) (d : Nat) (f : Die → Die) : (m.setDie d f).tables = m.tables := rfl
@[simp] theorem Mod.setDie_entries (m : Mod) (d : Nat) (f : Die → Die) : (m.setDie d f).entries = m.entries := rfl
@[simp] theorem Mod.setDie_xlates (m : Mod) (d : Nat) (f : Die → Die) : (m.setDie d f).xlates = m.xlates := rfl
@[simp] theorem Mod.setDie_pastXlates (m : Mod) (d : Nat) (f : Die → Die) : (m.setDie d f).pastXlates = m.pastXlates := rfl
@[simp] theorem Mod.setDie_pageReqs (m : Mod) (d : Nat) (f : Die → Die) : (m.setDie d f).pageReqs = m.pageReqs := rfl
@[simp] theorem Mod.setDie_prGroup (m : Mod) (d : Nat) (f : Die → Die) : (m.setDie d f).prGroup = m.prGroup := rfl
@[simp] theorem Mod.setDie_atsReqs (m : Mod) (d : Nat) (f : Die → Die) : (m.setDie d f).atsReqs = m.atsReqs := rfl
@[simp] theorem Mod.setDie_joins (m : Mod) (d : Nat) (f : Die → Die) : (m.setDie d f).joins = m.joins := rfl
@[simp] theorem Mod.setDie_todo (m : Mod) (d : Nat) (f : Die → Die) : (m.setDie d f).todo = m.todo := rfl
@[simp] theorem Mod.setDie_kv8 (m : Mod) (d : Nat) (f : Die → Die) : (m.setDie d f).kv8 = m.kv8 := rfl
@[simp] theorem Mod.setDie_kv9 (m : Mod) (d : Nat) (f : Die → Die) : (m.setDie d f).kv9 = m.kv9 := rfl
@[simp] theorem Mod.setDie_rings (m : Mod) (d : Nat) (f : Die → Die) : (m.setDie d f).rings = m.rings := rfl
@[simp] theorem Mod.setDie_pendRecs (m : Mod) (d : Nat) (f : Die → Die) : (m.setDie d f).pendRecs = m.pendRecs := rfl
@[simp] theorem Mod.setDie_heap (m : Mod) (d : Nat) (f : Die → Die) : (m.setDie d f).heap = m.heap := rfl
@[simp] theorem Mod.setDie_heapSerial (m : Mod) (d : Nat) (f : Die → Die) : (m.setDie d f).heapSerial = m.heapSerial := rfl
@[simp] theorem Mod.setDie_barriers (m : Mod) (d : Nat) (f : Die → Die) : (m.setDie d f).barriers = m.barriers := rfl
@[simp] theorem Mod.setDie_mail (m : Mod) (d : Nat) (f : Die → Die) : (m.setDie d f).mail = m.mail := rfl
@[simp] theorem Mod.setDie_mailNext (m : Mod) (d : Nat) (f : Die → Die) : (m.setDie d f).mailNext = m.mailNext := rfl
@[simp] theorem Mod.setDie_mgmt (m : Mod) (d : Nat) (f : Die → Die) : (m.setDie d f).mgmt = m.mgmt := rfl
@[simp] theorem Mod.setDie_ports (m : Mod) (d : Nat) (f : Die → Die) : (m.setDie d f).ports = m.ports := rfl
@[simp] theorem Mod.setDie_takes (m : Mod) (d : Nat) (f : Die → Die) : (m.setDie d f).takes = m.takes := rfl
@[simp] theorem Mod.setDie_semaOwner (m : Mod) (d : Nat) (f : Die → Die) : (m.setDie d f).semaOwner = m.semaOwner := rfl
@[simp] theorem Mod.setDie_semaLast (m : Mod) (d : Nat) (f : Die → Die) : (m.setDie d f).semaLast = m.semaLast := rfl
@[simp] theorem Mod.setDie_werr (m : Mod) (d : Nat) (f : Die → Die) : (m.setDie d f).werr = m.werr := rfl
@[simp] theorem Mod.setDie_expired (m : Mod) (d : Nat) (f : Die → Die) : (m.setDie d f).expired = m.expired := rfl
@[simp] theorem Mod.setDie_since (m : Mod) (d : Nat) (f : Die → Die) : (m.setDie d f).since = m.since := rfl
@[simp] theorem Mod.setDie_lease (m : Mod) (d : Nat) (f : Die → Die) : (m.setDie d f).lease = m.lease := rfl
@[simp] theorem Mod.setDie_addr (m : Mod) (d : Nat) (f : Die → Die) : (m.setDie d f).addr = m.addr := rfl
@[simp] theorem Mod.setDie_rdy (m : Mod) (d : Nat) (f : Die → Die) : (m.setDie d f).rdy = m.rdy := rfl
@[simp] theorem Mod.setDie_plim (m : Mod) (d : Nat) (f : Die → Die) : (m.setDie d f).plim = m.plim := rfl
@[simp] theorem Mod.setDie_pwr (m : Mod) (d : Nat) (f : Die → Die) : (m.setDie d f).pwr = m.pwr := rfl
@[simp] theorem Mod.setDie_gapt (m : Mod) (d : Nat) (f : Die → Die) : (m.setDie d f).gapt = m.gapt := rfl
@[simp] theorem Mod.setDie_idereq (m : Mod) (d : Nat) (f : Die → Die) : (m.setDie d f).idereq = m.idereq := rfl
@[simp] theorem Mod.setDie_lstat (m : Mod) (d : Nat) (f : Die → Die) : (m.setDie d f).lstat = m.lstat := rfl
@[simp] theorem Mod.setDie_gstat (m : Mod) (d : Nat) (f : Die → Die) : (m.setDie d f).gstat = m.gstat := rfl
@[simp] theorem Mod.setDie_glen (m : Mod) (d : Nat) (f : Die → Die) : (m.setDie d f).glen = m.glen := rfl
@[simp] theorem Mod.setDie_dom (m : Mod) (d : Nat) (f : Die → Die) : (m.setDie d f).dom = m.dom := rfl
@[simp] theorem Mod.setDie_flags (m : Mod) (d : Nat) (f : Die → Die) : (m.setDie d f).flags = m.flags := rfl
@[simp] theorem Mod.setDie_flagBase (m : Mod) (d : Nat) (f : Die → Die) : (m.setDie d f).flagBase = m.flagBase := rfl
@[simp] theorem Mod.setDie_fstNext (m : Mod) (d : Nat) (f : Die → Die) : (m.setDie d f).fstNext = m.fstNext := rfl
@[simp] theorem Mod.setDie_eth (m : Mod) (d : Nat) (f : Die → Die) : (m.setDie d f).eth = m.eth := rfl
@[simp] theorem Mod.setDie_log (m : Mod) (d : Nat) (f : Die → Die) : (m.setDie d f).log = m.log := rfl
@[simp] theorem Mod.setDie_logSeq (m : Mod) (d : Nat) (f : Die → Die) : (m.setDie d f).logSeq = m.logSeq := rfl
@[simp] theorem Mod.setDie_corrected (m : Mod) (d : Nat) (f : Die → Die) : (m.setDie d f).corrected = m.corrected := rfl
@[simp] theorem Mod.setDie_measurement (m : Mod) (d : Nat) (f : Die → Die) : (m.setDie d f).measurement = m.measurement := rfl
@[simp] theorem Mod.setDie_resets (m : Mod) (d : Nat) (f : Die → Die) : (m.setDie d f).resets = m.resets := rfl

@[simp] theorem Mod.setPort_tick (m : Mod) (p : Nat) (f : HostPort → HostPort) : (m.setPort p f).tick = m.tick := rfl
@[simp] theorem Mod.setPort_cores (m : Mod) (p : Nat) (f : HostPort → HostPort) : (m.setPort p f).cores = m.cores := rfl
@[simp] theorem Mod.setPort_launches (m : Mod) (p : Nat) (f : HostPort → HostPort) : (m.setPort p f).launches = m.launches := rfl
@[simp] theorem Mod.setPort_dies (m : Mod) (p : Nat) (f : HostPort → HostPort) : (m.setPort p f).dies = m.dies := rfl
@[simp] theorem Mod.setPort_mem (m : Mod) (p : Nat) (f : HostPort → HostPort) : (m.setPort p f).mem = m.mem := rfl
@[simp] theorem Mod.setPort_poison (m : Mod) (p : Nat) (f : HostPort → HostPort) : (m.setPort p f).poison = m.poison := rfl
@[simp] theorem Mod.setPort_pubs (m : Mod) (p : Nat) (f : HostPort → HostPort) : (m.setPort p f).pubs = m.pubs := rfl
@[simp] theorem Mod.setPort_pubSeq (m : Mod) (p : Nat) (f : HostPort → HostPort) : (m.setPort p f).pubSeq = m.pubSeq := rfl
@[simp] theorem Mod.setPort_svBanks (m : Mod) (p : Nat) (f : HostPort → HostPort) : (m.setPort p f).svBanks = m.svBanks := rfl
@[simp] theorem Mod.setPort_tables (m : Mod) (p : Nat) (f : HostPort → HostPort) : (m.setPort p f).tables = m.tables := rfl
@[simp] theorem Mod.setPort_entries (m : Mod) (p : Nat) (f : HostPort → HostPort) : (m.setPort p f).entries = m.entries := rfl
@[simp] theorem Mod.setPort_xlates (m : Mod) (p : Nat) (f : HostPort → HostPort) : (m.setPort p f).xlates = m.xlates := rfl
@[simp] theorem Mod.setPort_pastXlates (m : Mod) (p : Nat) (f : HostPort → HostPort) : (m.setPort p f).pastXlates = m.pastXlates := rfl
@[simp] theorem Mod.setPort_pageReqs (m : Mod) (p : Nat) (f : HostPort → HostPort) : (m.setPort p f).pageReqs = m.pageReqs := rfl
@[simp] theorem Mod.setPort_prGroup (m : Mod) (p : Nat) (f : HostPort → HostPort) : (m.setPort p f).prGroup = m.prGroup := rfl
@[simp] theorem Mod.setPort_atsReqs (m : Mod) (p : Nat) (f : HostPort → HostPort) : (m.setPort p f).atsReqs = m.atsReqs := rfl
@[simp] theorem Mod.setPort_joins (m : Mod) (p : Nat) (f : HostPort → HostPort) : (m.setPort p f).joins = m.joins := rfl
@[simp] theorem Mod.setPort_todo (m : Mod) (p : Nat) (f : HostPort → HostPort) : (m.setPort p f).todo = m.todo := rfl
@[simp] theorem Mod.setPort_kv8 (m : Mod) (p : Nat) (f : HostPort → HostPort) : (m.setPort p f).kv8 = m.kv8 := rfl
@[simp] theorem Mod.setPort_kv9 (m : Mod) (p : Nat) (f : HostPort → HostPort) : (m.setPort p f).kv9 = m.kv9 := rfl
@[simp] theorem Mod.setPort_rings (m : Mod) (p : Nat) (f : HostPort → HostPort) : (m.setPort p f).rings = m.rings := rfl
@[simp] theorem Mod.setPort_pendRecs (m : Mod) (p : Nat) (f : HostPort → HostPort) : (m.setPort p f).pendRecs = m.pendRecs := rfl
@[simp] theorem Mod.setPort_heap (m : Mod) (p : Nat) (f : HostPort → HostPort) : (m.setPort p f).heap = m.heap := rfl
@[simp] theorem Mod.setPort_heapSerial (m : Mod) (p : Nat) (f : HostPort → HostPort) : (m.setPort p f).heapSerial = m.heapSerial := rfl
@[simp] theorem Mod.setPort_barriers (m : Mod) (p : Nat) (f : HostPort → HostPort) : (m.setPort p f).barriers = m.barriers := rfl
@[simp] theorem Mod.setPort_mail (m : Mod) (p : Nat) (f : HostPort → HostPort) : (m.setPort p f).mail = m.mail := rfl
@[simp] theorem Mod.setPort_mailNext (m : Mod) (p : Nat) (f : HostPort → HostPort) : (m.setPort p f).mailNext = m.mailNext := rfl
@[simp] theorem Mod.setPort_mgmt (m : Mod) (p : Nat) (f : HostPort → HostPort) : (m.setPort p f).mgmt = m.mgmt := rfl
@[simp] theorem Mod.setPort_ports (m : Mod) (p : Nat) (f : HostPort → HostPort) : (m.setPort p f).ports = vmod m.ports p f := rfl
@[simp] theorem Mod.setPort_takes (m : Mod) (p : Nat) (f : HostPort → HostPort) : (m.setPort p f).takes = m.takes := rfl
@[simp] theorem Mod.setPort_semaOwner (m : Mod) (p : Nat) (f : HostPort → HostPort) : (m.setPort p f).semaOwner = m.semaOwner := rfl
@[simp] theorem Mod.setPort_semaLast (m : Mod) (p : Nat) (f : HostPort → HostPort) : (m.setPort p f).semaLast = m.semaLast := rfl
@[simp] theorem Mod.setPort_werr (m : Mod) (p : Nat) (f : HostPort → HostPort) : (m.setPort p f).werr = m.werr := rfl
@[simp] theorem Mod.setPort_expired (m : Mod) (p : Nat) (f : HostPort → HostPort) : (m.setPort p f).expired = m.expired := rfl
@[simp] theorem Mod.setPort_since (m : Mod) (p : Nat) (f : HostPort → HostPort) : (m.setPort p f).since = m.since := rfl
@[simp] theorem Mod.setPort_lease (m : Mod) (p : Nat) (f : HostPort → HostPort) : (m.setPort p f).lease = m.lease := rfl
@[simp] theorem Mod.setPort_addr (m : Mod) (p : Nat) (f : HostPort → HostPort) : (m.setPort p f).addr = m.addr := rfl
@[simp] theorem Mod.setPort_rdy (m : Mod) (p : Nat) (f : HostPort → HostPort) : (m.setPort p f).rdy = m.rdy := rfl
@[simp] theorem Mod.setPort_plim (m : Mod) (p : Nat) (f : HostPort → HostPort) : (m.setPort p f).plim = m.plim := rfl
@[simp] theorem Mod.setPort_pwr (m : Mod) (p : Nat) (f : HostPort → HostPort) : (m.setPort p f).pwr = m.pwr := rfl
@[simp] theorem Mod.setPort_gapt (m : Mod) (p : Nat) (f : HostPort → HostPort) : (m.setPort p f).gapt = m.gapt := rfl
@[simp] theorem Mod.setPort_idereq (m : Mod) (p : Nat) (f : HostPort → HostPort) : (m.setPort p f).idereq = m.idereq := rfl
@[simp] theorem Mod.setPort_lstat (m : Mod) (p : Nat) (f : HostPort → HostPort) : (m.setPort p f).lstat = m.lstat := rfl
@[simp] theorem Mod.setPort_gstat (m : Mod) (p : Nat) (f : HostPort → HostPort) : (m.setPort p f).gstat = m.gstat := rfl
@[simp] theorem Mod.setPort_glen (m : Mod) (p : Nat) (f : HostPort → HostPort) : (m.setPort p f).glen = m.glen := rfl
@[simp] theorem Mod.setPort_dom (m : Mod) (p : Nat) (f : HostPort → HostPort) : (m.setPort p f).dom = m.dom := rfl
@[simp] theorem Mod.setPort_flags (m : Mod) (p : Nat) (f : HostPort → HostPort) : (m.setPort p f).flags = m.flags := rfl
@[simp] theorem Mod.setPort_flagBase (m : Mod) (p : Nat) (f : HostPort → HostPort) : (m.setPort p f).flagBase = m.flagBase := rfl
@[simp] theorem Mod.setPort_fstNext (m : Mod) (p : Nat) (f : HostPort → HostPort) : (m.setPort p f).fstNext = m.fstNext := rfl
@[simp] theorem Mod.setPort_eth (m : Mod) (p : Nat) (f : HostPort → HostPort) : (m.setPort p f).eth = m.eth := rfl
@[simp] theorem Mod.setPort_log (m : Mod) (p : Nat) (f : HostPort → HostPort) : (m.setPort p f).log = m.log := rfl
@[simp] theorem Mod.setPort_logSeq (m : Mod) (p : Nat) (f : HostPort → HostPort) : (m.setPort p f).logSeq = m.logSeq := rfl
@[simp] theorem Mod.setPort_corrected (m : Mod) (p : Nat) (f : HostPort → HostPort) : (m.setPort p f).corrected = m.corrected := rfl
@[simp] theorem Mod.setPort_measurement (m : Mod) (p : Nat) (f : HostPort → HostPort) : (m.setPort p f).measurement = m.measurement := rfl
@[simp] theorem Mod.setPort_resets (m : Mod) (p : Nat) (f : HostPort → HostPort) : (m.setPort p f).resets = m.resets := rfl

@[simp] theorem Mod.setLaunch_tick (m : Mod) (i : W32) (f : Launch → Launch) : (m.setLaunch i f).tick = m.tick := rfl
@[simp] theorem Mod.setLaunch_cores (m : Mod) (i : W32) (f : Launch → Launch) : (m.setLaunch i f).cores = m.cores := rfl
@[simp] theorem Mod.setLaunch_launches (m : Mod) (i : W32) (f : Launch → Launch) : (m.setLaunch i f).launches = tadj i.toNat f m.launches := rfl
@[simp] theorem Mod.setLaunch_dies (m : Mod) (i : W32) (f : Launch → Launch) : (m.setLaunch i f).dies = m.dies := rfl
@[simp] theorem Mod.setLaunch_mem (m : Mod) (i : W32) (f : Launch → Launch) : (m.setLaunch i f).mem = m.mem := rfl
@[simp] theorem Mod.setLaunch_poison (m : Mod) (i : W32) (f : Launch → Launch) : (m.setLaunch i f).poison = m.poison := rfl
@[simp] theorem Mod.setLaunch_pubs (m : Mod) (i : W32) (f : Launch → Launch) : (m.setLaunch i f).pubs = m.pubs := rfl
@[simp] theorem Mod.setLaunch_pubSeq (m : Mod) (i : W32) (f : Launch → Launch) : (m.setLaunch i f).pubSeq = m.pubSeq := rfl
@[simp] theorem Mod.setLaunch_svBanks (m : Mod) (i : W32) (f : Launch → Launch) : (m.setLaunch i f).svBanks = m.svBanks := rfl
@[simp] theorem Mod.setLaunch_tables (m : Mod) (i : W32) (f : Launch → Launch) : (m.setLaunch i f).tables = m.tables := rfl
@[simp] theorem Mod.setLaunch_entries (m : Mod) (i : W32) (f : Launch → Launch) : (m.setLaunch i f).entries = m.entries := rfl
@[simp] theorem Mod.setLaunch_xlates (m : Mod) (i : W32) (f : Launch → Launch) : (m.setLaunch i f).xlates = m.xlates := rfl
@[simp] theorem Mod.setLaunch_pastXlates (m : Mod) (i : W32) (f : Launch → Launch) : (m.setLaunch i f).pastXlates = m.pastXlates := rfl
@[simp] theorem Mod.setLaunch_pageReqs (m : Mod) (i : W32) (f : Launch → Launch) : (m.setLaunch i f).pageReqs = m.pageReqs := rfl
@[simp] theorem Mod.setLaunch_prGroup (m : Mod) (i : W32) (f : Launch → Launch) : (m.setLaunch i f).prGroup = m.prGroup := rfl
@[simp] theorem Mod.setLaunch_atsReqs (m : Mod) (i : W32) (f : Launch → Launch) : (m.setLaunch i f).atsReqs = m.atsReqs := rfl
@[simp] theorem Mod.setLaunch_joins (m : Mod) (i : W32) (f : Launch → Launch) : (m.setLaunch i f).joins = m.joins := rfl
@[simp] theorem Mod.setLaunch_todo (m : Mod) (i : W32) (f : Launch → Launch) : (m.setLaunch i f).todo = m.todo := rfl
@[simp] theorem Mod.setLaunch_kv8 (m : Mod) (i : W32) (f : Launch → Launch) : (m.setLaunch i f).kv8 = m.kv8 := rfl
@[simp] theorem Mod.setLaunch_kv9 (m : Mod) (i : W32) (f : Launch → Launch) : (m.setLaunch i f).kv9 = m.kv9 := rfl
@[simp] theorem Mod.setLaunch_rings (m : Mod) (i : W32) (f : Launch → Launch) : (m.setLaunch i f).rings = m.rings := rfl
@[simp] theorem Mod.setLaunch_pendRecs (m : Mod) (i : W32) (f : Launch → Launch) : (m.setLaunch i f).pendRecs = m.pendRecs := rfl
@[simp] theorem Mod.setLaunch_heap (m : Mod) (i : W32) (f : Launch → Launch) : (m.setLaunch i f).heap = m.heap := rfl
@[simp] theorem Mod.setLaunch_heapSerial (m : Mod) (i : W32) (f : Launch → Launch) : (m.setLaunch i f).heapSerial = m.heapSerial := rfl
@[simp] theorem Mod.setLaunch_barriers (m : Mod) (i : W32) (f : Launch → Launch) : (m.setLaunch i f).barriers = m.barriers := rfl
@[simp] theorem Mod.setLaunch_mail (m : Mod) (i : W32) (f : Launch → Launch) : (m.setLaunch i f).mail = m.mail := rfl
@[simp] theorem Mod.setLaunch_mailNext (m : Mod) (i : W32) (f : Launch → Launch) : (m.setLaunch i f).mailNext = m.mailNext := rfl
@[simp] theorem Mod.setLaunch_mgmt (m : Mod) (i : W32) (f : Launch → Launch) : (m.setLaunch i f).mgmt = m.mgmt := rfl
@[simp] theorem Mod.setLaunch_ports (m : Mod) (i : W32) (f : Launch → Launch) : (m.setLaunch i f).ports = m.ports := rfl
@[simp] theorem Mod.setLaunch_takes (m : Mod) (i : W32) (f : Launch → Launch) : (m.setLaunch i f).takes = m.takes := rfl
@[simp] theorem Mod.setLaunch_semaOwner (m : Mod) (i : W32) (f : Launch → Launch) : (m.setLaunch i f).semaOwner = m.semaOwner := rfl
@[simp] theorem Mod.setLaunch_semaLast (m : Mod) (i : W32) (f : Launch → Launch) : (m.setLaunch i f).semaLast = m.semaLast := rfl
@[simp] theorem Mod.setLaunch_werr (m : Mod) (i : W32) (f : Launch → Launch) : (m.setLaunch i f).werr = m.werr := rfl
@[simp] theorem Mod.setLaunch_expired (m : Mod) (i : W32) (f : Launch → Launch) : (m.setLaunch i f).expired = m.expired := rfl
@[simp] theorem Mod.setLaunch_since (m : Mod) (i : W32) (f : Launch → Launch) : (m.setLaunch i f).since = m.since := rfl
@[simp] theorem Mod.setLaunch_lease (m : Mod) (i : W32) (f : Launch → Launch) : (m.setLaunch i f).lease = m.lease := rfl
@[simp] theorem Mod.setLaunch_addr (m : Mod) (i : W32) (f : Launch → Launch) : (m.setLaunch i f).addr = m.addr := rfl
@[simp] theorem Mod.setLaunch_rdy (m : Mod) (i : W32) (f : Launch → Launch) : (m.setLaunch i f).rdy = m.rdy := rfl
@[simp] theorem Mod.setLaunch_plim (m : Mod) (i : W32) (f : Launch → Launch) : (m.setLaunch i f).plim = m.plim := rfl
@[simp] theorem Mod.setLaunch_pwr (m : Mod) (i : W32) (f : Launch → Launch) : (m.setLaunch i f).pwr = m.pwr := rfl
@[simp] theorem Mod.setLaunch_gapt (m : Mod) (i : W32) (f : Launch → Launch) : (m.setLaunch i f).gapt = m.gapt := rfl
@[simp] theorem Mod.setLaunch_idereq (m : Mod) (i : W32) (f : Launch → Launch) : (m.setLaunch i f).idereq = m.idereq := rfl
@[simp] theorem Mod.setLaunch_lstat (m : Mod) (i : W32) (f : Launch → Launch) : (m.setLaunch i f).lstat = m.lstat := rfl
@[simp] theorem Mod.setLaunch_gstat (m : Mod) (i : W32) (f : Launch → Launch) : (m.setLaunch i f).gstat = m.gstat := rfl
@[simp] theorem Mod.setLaunch_glen (m : Mod) (i : W32) (f : Launch → Launch) : (m.setLaunch i f).glen = m.glen := rfl
@[simp] theorem Mod.setLaunch_dom (m : Mod) (i : W32) (f : Launch → Launch) : (m.setLaunch i f).dom = m.dom := rfl
@[simp] theorem Mod.setLaunch_flags (m : Mod) (i : W32) (f : Launch → Launch) : (m.setLaunch i f).flags = m.flags := rfl
@[simp] theorem Mod.setLaunch_flagBase (m : Mod) (i : W32) (f : Launch → Launch) : (m.setLaunch i f).flagBase = m.flagBase := rfl
@[simp] theorem Mod.setLaunch_fstNext (m : Mod) (i : W32) (f : Launch → Launch) : (m.setLaunch i f).fstNext = m.fstNext := rfl
@[simp] theorem Mod.setLaunch_eth (m : Mod) (i : W32) (f : Launch → Launch) : (m.setLaunch i f).eth = m.eth := rfl
@[simp] theorem Mod.setLaunch_log (m : Mod) (i : W32) (f : Launch → Launch) : (m.setLaunch i f).log = m.log := rfl
@[simp] theorem Mod.setLaunch_logSeq (m : Mod) (i : W32) (f : Launch → Launch) : (m.setLaunch i f).logSeq = m.logSeq := rfl
@[simp] theorem Mod.setLaunch_corrected (m : Mod) (i : W32) (f : Launch → Launch) : (m.setLaunch i f).corrected = m.corrected := rfl
@[simp] theorem Mod.setLaunch_measurement (m : Mod) (i : W32) (f : Launch → Launch) : (m.setLaunch i f).measurement = m.measurement := rfl
@[simp] theorem Mod.setLaunch_resets (m : Mod) (i : W32) (f : Launch → Launch) : (m.setLaunch i f).resets = m.resets := rfl

@[simp] theorem Mod.setJoin_tick (m : Mod) (k : Nat) (f : JoinSlot → JoinSlot) : (m.setJoin k f).tick = m.tick := rfl
@[simp] theorem Mod.setJoin_cores (m : Mod) (k : Nat) (f : JoinSlot → JoinSlot) : (m.setJoin k f).cores = m.cores := rfl
@[simp] theorem Mod.setJoin_launches (m : Mod) (k : Nat) (f : JoinSlot → JoinSlot) : (m.setJoin k f).launches = m.launches := rfl
@[simp] theorem Mod.setJoin_dies (m : Mod) (k : Nat) (f : JoinSlot → JoinSlot) : (m.setJoin k f).dies = m.dies := rfl
@[simp] theorem Mod.setJoin_mem (m : Mod) (k : Nat) (f : JoinSlot → JoinSlot) : (m.setJoin k f).mem = m.mem := rfl
@[simp] theorem Mod.setJoin_poison (m : Mod) (k : Nat) (f : JoinSlot → JoinSlot) : (m.setJoin k f).poison = m.poison := rfl
@[simp] theorem Mod.setJoin_pubs (m : Mod) (k : Nat) (f : JoinSlot → JoinSlot) : (m.setJoin k f).pubs = m.pubs := rfl
@[simp] theorem Mod.setJoin_pubSeq (m : Mod) (k : Nat) (f : JoinSlot → JoinSlot) : (m.setJoin k f).pubSeq = m.pubSeq := rfl
@[simp] theorem Mod.setJoin_svBanks (m : Mod) (k : Nat) (f : JoinSlot → JoinSlot) : (m.setJoin k f).svBanks = m.svBanks := rfl
@[simp] theorem Mod.setJoin_tables (m : Mod) (k : Nat) (f : JoinSlot → JoinSlot) : (m.setJoin k f).tables = m.tables := rfl
@[simp] theorem Mod.setJoin_entries (m : Mod) (k : Nat) (f : JoinSlot → JoinSlot) : (m.setJoin k f).entries = m.entries := rfl
@[simp] theorem Mod.setJoin_xlates (m : Mod) (k : Nat) (f : JoinSlot → JoinSlot) : (m.setJoin k f).xlates = m.xlates := rfl
@[simp] theorem Mod.setJoin_pastXlates (m : Mod) (k : Nat) (f : JoinSlot → JoinSlot) : (m.setJoin k f).pastXlates = m.pastXlates := rfl
@[simp] theorem Mod.setJoin_pageReqs (m : Mod) (k : Nat) (f : JoinSlot → JoinSlot) : (m.setJoin k f).pageReqs = m.pageReqs := rfl
@[simp] theorem Mod.setJoin_prGroup (m : Mod) (k : Nat) (f : JoinSlot → JoinSlot) : (m.setJoin k f).prGroup = m.prGroup := rfl
@[simp] theorem Mod.setJoin_atsReqs (m : Mod) (k : Nat) (f : JoinSlot → JoinSlot) : (m.setJoin k f).atsReqs = m.atsReqs := rfl
@[simp] theorem Mod.setJoin_joins (m : Mod) (k : Nat) (f : JoinSlot → JoinSlot) : (m.setJoin k f).joins = tmod JoinSlot.free k f m.joins := rfl
@[simp] theorem Mod.setJoin_todo (m : Mod) (k : Nat) (f : JoinSlot → JoinSlot) : (m.setJoin k f).todo = m.todo := rfl
@[simp] theorem Mod.setJoin_kv8 (m : Mod) (k : Nat) (f : JoinSlot → JoinSlot) : (m.setJoin k f).kv8 = m.kv8 := rfl
@[simp] theorem Mod.setJoin_kv9 (m : Mod) (k : Nat) (f : JoinSlot → JoinSlot) : (m.setJoin k f).kv9 = m.kv9 := rfl
@[simp] theorem Mod.setJoin_rings (m : Mod) (k : Nat) (f : JoinSlot → JoinSlot) : (m.setJoin k f).rings = m.rings := rfl
@[simp] theorem Mod.setJoin_pendRecs (m : Mod) (k : Nat) (f : JoinSlot → JoinSlot) : (m.setJoin k f).pendRecs = m.pendRecs := rfl
@[simp] theorem Mod.setJoin_heap (m : Mod) (k : Nat) (f : JoinSlot → JoinSlot) : (m.setJoin k f).heap = m.heap := rfl
@[simp] theorem Mod.setJoin_heapSerial (m : Mod) (k : Nat) (f : JoinSlot → JoinSlot) : (m.setJoin k f).heapSerial = m.heapSerial := rfl
@[simp] theorem Mod.setJoin_barriers (m : Mod) (k : Nat) (f : JoinSlot → JoinSlot) : (m.setJoin k f).barriers = m.barriers := rfl
@[simp] theorem Mod.setJoin_mail (m : Mod) (k : Nat) (f : JoinSlot → JoinSlot) : (m.setJoin k f).mail = m.mail := rfl
@[simp] theorem Mod.setJoin_mailNext (m : Mod) (k : Nat) (f : JoinSlot → JoinSlot) : (m.setJoin k f).mailNext = m.mailNext := rfl
@[simp] theorem Mod.setJoin_mgmt (m : Mod) (k : Nat) (f : JoinSlot → JoinSlot) : (m.setJoin k f).mgmt = m.mgmt := rfl
@[simp] theorem Mod.setJoin_ports (m : Mod) (k : Nat) (f : JoinSlot → JoinSlot) : (m.setJoin k f).ports = m.ports := rfl
@[simp] theorem Mod.setJoin_takes (m : Mod) (k : Nat) (f : JoinSlot → JoinSlot) : (m.setJoin k f).takes = m.takes := rfl
@[simp] theorem Mod.setJoin_semaOwner (m : Mod) (k : Nat) (f : JoinSlot → JoinSlot) : (m.setJoin k f).semaOwner = m.semaOwner := rfl
@[simp] theorem Mod.setJoin_semaLast (m : Mod) (k : Nat) (f : JoinSlot → JoinSlot) : (m.setJoin k f).semaLast = m.semaLast := rfl
@[simp] theorem Mod.setJoin_werr (m : Mod) (k : Nat) (f : JoinSlot → JoinSlot) : (m.setJoin k f).werr = m.werr := rfl
@[simp] theorem Mod.setJoin_expired (m : Mod) (k : Nat) (f : JoinSlot → JoinSlot) : (m.setJoin k f).expired = m.expired := rfl
@[simp] theorem Mod.setJoin_since (m : Mod) (k : Nat) (f : JoinSlot → JoinSlot) : (m.setJoin k f).since = m.since := rfl
@[simp] theorem Mod.setJoin_lease (m : Mod) (k : Nat) (f : JoinSlot → JoinSlot) : (m.setJoin k f).lease = m.lease := rfl
@[simp] theorem Mod.setJoin_addr (m : Mod) (k : Nat) (f : JoinSlot → JoinSlot) : (m.setJoin k f).addr = m.addr := rfl
@[simp] theorem Mod.setJoin_rdy (m : Mod) (k : Nat) (f : JoinSlot → JoinSlot) : (m.setJoin k f).rdy = m.rdy := rfl
@[simp] theorem Mod.setJoin_plim (m : Mod) (k : Nat) (f : JoinSlot → JoinSlot) : (m.setJoin k f).plim = m.plim := rfl
@[simp] theorem Mod.setJoin_pwr (m : Mod) (k : Nat) (f : JoinSlot → JoinSlot) : (m.setJoin k f).pwr = m.pwr := rfl
@[simp] theorem Mod.setJoin_gapt (m : Mod) (k : Nat) (f : JoinSlot → JoinSlot) : (m.setJoin k f).gapt = m.gapt := rfl
@[simp] theorem Mod.setJoin_idereq (m : Mod) (k : Nat) (f : JoinSlot → JoinSlot) : (m.setJoin k f).idereq = m.idereq := rfl
@[simp] theorem Mod.setJoin_lstat (m : Mod) (k : Nat) (f : JoinSlot → JoinSlot) : (m.setJoin k f).lstat = m.lstat := rfl
@[simp] theorem Mod.setJoin_gstat (m : Mod) (k : Nat) (f : JoinSlot → JoinSlot) : (m.setJoin k f).gstat = m.gstat := rfl
@[simp] theorem Mod.setJoin_glen (m : Mod) (k : Nat) (f : JoinSlot → JoinSlot) : (m.setJoin k f).glen = m.glen := rfl
@[simp] theorem Mod.setJoin_dom (m : Mod) (k : Nat) (f : JoinSlot → JoinSlot) : (m.setJoin k f).dom = m.dom := rfl
@[simp] theorem Mod.setJoin_flags (m : Mod) (k : Nat) (f : JoinSlot → JoinSlot) : (m.setJoin k f).flags = m.flags := rfl
@[simp] theorem Mod.setJoin_flagBase (m : Mod) (k : Nat) (f : JoinSlot → JoinSlot) : (m.setJoin k f).flagBase = m.flagBase := rfl
@[simp] theorem Mod.setJoin_fstNext (m : Mod) (k : Nat) (f : JoinSlot → JoinSlot) : (m.setJoin k f).fstNext = m.fstNext := rfl
@[simp] theorem Mod.setJoin_eth (m : Mod) (k : Nat) (f : JoinSlot → JoinSlot) : (m.setJoin k f).eth = m.eth := rfl
@[simp] theorem Mod.setJoin_log (m : Mod) (k : Nat) (f : JoinSlot → JoinSlot) : (m.setJoin k f).log = m.log := rfl
@[simp] theorem Mod.setJoin_logSeq (m : Mod) (k : Nat) (f : JoinSlot → JoinSlot) : (m.setJoin k f).logSeq = m.logSeq := rfl
@[simp] theorem Mod.setJoin_corrected (m : Mod) (k : Nat) (f : JoinSlot → JoinSlot) : (m.setJoin k f).corrected = m.corrected := rfl
@[simp] theorem Mod.setJoin_measurement (m : Mod) (k : Nat) (f : JoinSlot → JoinSlot) : (m.setJoin k f).measurement = m.measurement := rfl
@[simp] theorem Mod.setJoin_resets (m : Mod) (k : Nat) (f : JoinSlot → JoinSlot) : (m.setJoin k f).resets = m.resets := rfl

@[simp] theorem Mod.setRing_tick (m : Mod) (r : Nat) (f : Ring → Ring) : (m.setRing r f).tick = m.tick := rfl
@[simp] theorem Mod.setRing_cores (m : Mod) (r : Nat) (f : Ring → Ring) : (m.setRing r f).cores = m.cores := rfl
@[simp] theorem Mod.setRing_launches (m : Mod) (r : Nat) (f : Ring → Ring) : (m.setRing r f).launches = m.launches := rfl
@[simp] theorem Mod.setRing_dies (m : Mod) (r : Nat) (f : Ring → Ring) : (m.setRing r f).dies = m.dies := rfl
@[simp] theorem Mod.setRing_mem (m : Mod) (r : Nat) (f : Ring → Ring) : (m.setRing r f).mem = m.mem := rfl
@[simp] theorem Mod.setRing_poison (m : Mod) (r : Nat) (f : Ring → Ring) : (m.setRing r f).poison = m.poison := rfl
@[simp] theorem Mod.setRing_pubs (m : Mod) (r : Nat) (f : Ring → Ring) : (m.setRing r f).pubs = m.pubs := rfl
@[simp] theorem Mod.setRing_pubSeq (m : Mod) (r : Nat) (f : Ring → Ring) : (m.setRing r f).pubSeq = m.pubSeq := rfl
@[simp] theorem Mod.setRing_svBanks (m : Mod) (r : Nat) (f : Ring → Ring) : (m.setRing r f).svBanks = m.svBanks := rfl
@[simp] theorem Mod.setRing_tables (m : Mod) (r : Nat) (f : Ring → Ring) : (m.setRing r f).tables = m.tables := rfl
@[simp] theorem Mod.setRing_entries (m : Mod) (r : Nat) (f : Ring → Ring) : (m.setRing r f).entries = m.entries := rfl
@[simp] theorem Mod.setRing_xlates (m : Mod) (r : Nat) (f : Ring → Ring) : (m.setRing r f).xlates = m.xlates := rfl
@[simp] theorem Mod.setRing_pastXlates (m : Mod) (r : Nat) (f : Ring → Ring) : (m.setRing r f).pastXlates = m.pastXlates := rfl
@[simp] theorem Mod.setRing_pageReqs (m : Mod) (r : Nat) (f : Ring → Ring) : (m.setRing r f).pageReqs = m.pageReqs := rfl
@[simp] theorem Mod.setRing_prGroup (m : Mod) (r : Nat) (f : Ring → Ring) : (m.setRing r f).prGroup = m.prGroup := rfl
@[simp] theorem Mod.setRing_atsReqs (m : Mod) (r : Nat) (f : Ring → Ring) : (m.setRing r f).atsReqs = m.atsReqs := rfl
@[simp] theorem Mod.setRing_joins (m : Mod) (r : Nat) (f : Ring → Ring) : (m.setRing r f).joins = m.joins := rfl
@[simp] theorem Mod.setRing_todo (m : Mod) (r : Nat) (f : Ring → Ring) : (m.setRing r f).todo = m.todo := rfl
@[simp] theorem Mod.setRing_kv8 (m : Mod) (r : Nat) (f : Ring → Ring) : (m.setRing r f).kv8 = m.kv8 := rfl
@[simp] theorem Mod.setRing_kv9 (m : Mod) (r : Nat) (f : Ring → Ring) : (m.setRing r f).kv9 = m.kv9 := rfl
@[simp] theorem Mod.setRing_rings (m : Mod) (r : Nat) (f : Ring → Ring) : (m.setRing r f).rings = tmod Ring.reset r f m.rings := rfl
@[simp] theorem Mod.setRing_pendRecs (m : Mod) (r : Nat) (f : Ring → Ring) : (m.setRing r f).pendRecs = m.pendRecs := rfl
@[simp] theorem Mod.setRing_heap (m : Mod) (r : Nat) (f : Ring → Ring) : (m.setRing r f).heap = m.heap := rfl
@[simp] theorem Mod.setRing_heapSerial (m : Mod) (r : Nat) (f : Ring → Ring) : (m.setRing r f).heapSerial = m.heapSerial := rfl
@[simp] theorem Mod.setRing_barriers (m : Mod) (r : Nat) (f : Ring → Ring) : (m.setRing r f).barriers = m.barriers := rfl
@[simp] theorem Mod.setRing_mail (m : Mod) (r : Nat) (f : Ring → Ring) : (m.setRing r f).mail = m.mail := rfl
@[simp] theorem Mod.setRing_mailNext (m : Mod) (r : Nat) (f : Ring → Ring) : (m.setRing r f).mailNext = m.mailNext := rfl
@[simp] theorem Mod.setRing_mgmt (m : Mod) (r : Nat) (f : Ring → Ring) : (m.setRing r f).mgmt = m.mgmt := rfl
@[simp] theorem Mod.setRing_ports (m : Mod) (r : Nat) (f : Ring → Ring) : (m.setRing r f).ports = m.ports := rfl
@[simp] theorem Mod.setRing_takes (m : Mod) (r : Nat) (f : Ring → Ring) : (m.setRing r f).takes = m.takes := rfl
@[simp] theorem Mod.setRing_semaOwner (m : Mod) (r : Nat) (f : Ring → Ring) : (m.setRing r f).semaOwner = m.semaOwner := rfl
@[simp] theorem Mod.setRing_semaLast (m : Mod) (r : Nat) (f : Ring → Ring) : (m.setRing r f).semaLast = m.semaLast := rfl
@[simp] theorem Mod.setRing_werr (m : Mod) (r : Nat) (f : Ring → Ring) : (m.setRing r f).werr = m.werr := rfl
@[simp] theorem Mod.setRing_expired (m : Mod) (r : Nat) (f : Ring → Ring) : (m.setRing r f).expired = m.expired := rfl
@[simp] theorem Mod.setRing_since (m : Mod) (r : Nat) (f : Ring → Ring) : (m.setRing r f).since = m.since := rfl
@[simp] theorem Mod.setRing_lease (m : Mod) (r : Nat) (f : Ring → Ring) : (m.setRing r f).lease = m.lease := rfl
@[simp] theorem Mod.setRing_addr (m : Mod) (r : Nat) (f : Ring → Ring) : (m.setRing r f).addr = m.addr := rfl
@[simp] theorem Mod.setRing_rdy (m : Mod) (r : Nat) (f : Ring → Ring) : (m.setRing r f).rdy = m.rdy := rfl
@[simp] theorem Mod.setRing_plim (m : Mod) (r : Nat) (f : Ring → Ring) : (m.setRing r f).plim = m.plim := rfl
@[simp] theorem Mod.setRing_pwr (m : Mod) (r : Nat) (f : Ring → Ring) : (m.setRing r f).pwr = m.pwr := rfl
@[simp] theorem Mod.setRing_gapt (m : Mod) (r : Nat) (f : Ring → Ring) : (m.setRing r f).gapt = m.gapt := rfl
@[simp] theorem Mod.setRing_idereq (m : Mod) (r : Nat) (f : Ring → Ring) : (m.setRing r f).idereq = m.idereq := rfl
@[simp] theorem Mod.setRing_lstat (m : Mod) (r : Nat) (f : Ring → Ring) : (m.setRing r f).lstat = m.lstat := rfl
@[simp] theorem Mod.setRing_gstat (m : Mod) (r : Nat) (f : Ring → Ring) : (m.setRing r f).gstat = m.gstat := rfl
@[simp] theorem Mod.setRing_glen (m : Mod) (r : Nat) (f : Ring → Ring) : (m.setRing r f).glen = m.glen := rfl
@[simp] theorem Mod.setRing_dom (m : Mod) (r : Nat) (f : Ring → Ring) : (m.setRing r f).dom = m.dom := rfl
@[simp] theorem Mod.setRing_flags (m : Mod) (r : Nat) (f : Ring → Ring) : (m.setRing r f).flags = m.flags := rfl
@[simp] theorem Mod.setRing_flagBase (m : Mod) (r : Nat) (f : Ring → Ring) : (m.setRing r f).flagBase = m.flagBase := rfl
@[simp] theorem Mod.setRing_fstNext (m : Mod) (r : Nat) (f : Ring → Ring) : (m.setRing r f).fstNext = m.fstNext := rfl
@[simp] theorem Mod.setRing_eth (m : Mod) (r : Nat) (f : Ring → Ring) : (m.setRing r f).eth = m.eth := rfl
@[simp] theorem Mod.setRing_log (m : Mod) (r : Nat) (f : Ring → Ring) : (m.setRing r f).log = m.log := rfl
@[simp] theorem Mod.setRing_logSeq (m : Mod) (r : Nat) (f : Ring → Ring) : (m.setRing r f).logSeq = m.logSeq := rfl
@[simp] theorem Mod.setRing_corrected (m : Mod) (r : Nat) (f : Ring → Ring) : (m.setRing r f).corrected = m.corrected := rfl
@[simp] theorem Mod.setRing_measurement (m : Mod) (r : Nat) (f : Ring → Ring) : (m.setRing r f).measurement = m.measurement := rfl
@[simp] theorem Mod.setRing_resets (m : Mod) (r : Nat) (f : Ring → Ring) : (m.setRing r f).resets = m.resets := rfl

@[simp] theorem Mod.writeBytes_tick (m : Mod) (dp : Option Nat) (cs : List Host.Cell) (bad : List Nat) : (m.writeBytes dp cs bad).tick = m.tick := rfl
@[simp] theorem Mod.writeBytes_cores (m : Mod) (dp : Option Nat) (cs : List Host.Cell) (bad : List Nat) : (m.writeBytes dp cs bad).cores = m.cores := rfl
@[simp] theorem Mod.writeBytes_launches (m : Mod) (dp : Option Nat) (cs : List Host.Cell) (bad : List Nat) : (m.writeBytes dp cs bad).launches = m.launches := rfl
@[simp] theorem Mod.writeBytes_dies (m : Mod) (dp : Option Nat) (cs : List Host.Cell) (bad : List Nat) : (m.writeBytes dp cs bad).dies = m.dies := rfl
@[simp] theorem Mod.writeBytes_mem (m : Mod) (dp : Option Nat) (cs : List Host.Cell) (bad : List Nat) : (m.writeBytes dp cs bad).mem = Memory.store m.mem cs := rfl
@[simp] theorem Mod.writeBytes_poison (m : Mod) (dp : Option Nat) (cs : List Host.Cell) (bad : List Nat) : (m.writeBytes dp cs bad).poison =
    poisonAfter 128 ((m.brokenSectors dp cs).foldl (fun t x => sins x t) m.poison) (cs.map (·.1)) bad := rfl
@[simp] theorem Mod.writeBytes_pubs (m : Mod) (dp : Option Nat) (cs : List Host.Cell) (bad : List Nat) : (m.writeBytes dp cs bad).pubs =
    m.pubs.filter fun e => !cs.any (·.1 = e.1) := rfl
@[simp] theorem Mod.writeBytes_pubSeq (m : Mod) (dp : Option Nat) (cs : List Host.Cell) (bad : List Nat) : (m.writeBytes dp cs bad).pubSeq = m.pubSeq := rfl
@[simp] theorem Mod.writeBytes_svBanks (m : Mod) (dp : Option Nat) (cs : List Host.Cell) (bad : List Nat) : (m.writeBytes dp cs bad).svBanks = m.svBanks := rfl
@[simp] theorem Mod.writeBytes_tables (m : Mod) (dp : Option Nat) (cs : List Host.Cell) (bad : List Nat) : (m.writeBytes dp cs bad).tables = m.tables := rfl
@[simp] theorem Mod.writeBytes_entries (m : Mod) (dp : Option Nat) (cs : List Host.Cell) (bad : List Nat) : (m.writeBytes dp cs bad).entries = m.entries := rfl
@[simp] theorem Mod.writeBytes_xlates (m : Mod) (dp : Option Nat) (cs : List Host.Cell) (bad : List Nat) : (m.writeBytes dp cs bad).xlates = m.xlates := rfl
@[simp] theorem Mod.writeBytes_pastXlates (m : Mod) (dp : Option Nat) (cs : List Host.Cell) (bad : List Nat) : (m.writeBytes dp cs bad).pastXlates = m.pastXlates := rfl
@[simp] theorem Mod.writeBytes_pageReqs (m : Mod) (dp : Option Nat) (cs : List Host.Cell) (bad : List Nat) : (m.writeBytes dp cs bad).pageReqs = m.pageReqs := rfl
@[simp] theorem Mod.writeBytes_prGroup (m : Mod) (dp : Option Nat) (cs : List Host.Cell) (bad : List Nat) : (m.writeBytes dp cs bad).prGroup = m.prGroup := rfl
@[simp] theorem Mod.writeBytes_atsReqs (m : Mod) (dp : Option Nat) (cs : List Host.Cell) (bad : List Nat) : (m.writeBytes dp cs bad).atsReqs = m.atsReqs := rfl
@[simp] theorem Mod.writeBytes_joins (m : Mod) (dp : Option Nat) (cs : List Host.Cell) (bad : List Nat) : (m.writeBytes dp cs bad).joins = m.joins := rfl
@[simp] theorem Mod.writeBytes_todo (m : Mod) (dp : Option Nat) (cs : List Host.Cell) (bad : List Nat) : (m.writeBytes dp cs bad).todo = m.todo := rfl
@[simp] theorem Mod.writeBytes_kv8 (m : Mod) (dp : Option Nat) (cs : List Host.Cell) (bad : List Nat) : (m.writeBytes dp cs bad).kv8 = m.kv8 := rfl
@[simp] theorem Mod.writeBytes_kv9 (m : Mod) (dp : Option Nat) (cs : List Host.Cell) (bad : List Nat) : (m.writeBytes dp cs bad).kv9 = m.kv9 := rfl
@[simp] theorem Mod.writeBytes_rings (m : Mod) (dp : Option Nat) (cs : List Host.Cell) (bad : List Nat) : (m.writeBytes dp cs bad).rings = m.rings := rfl
@[simp] theorem Mod.writeBytes_pendRecs (m : Mod) (dp : Option Nat) (cs : List Host.Cell) (bad : List Nat) : (m.writeBytes dp cs bad).pendRecs = m.pendRecs := rfl
@[simp] theorem Mod.writeBytes_heap (m : Mod) (dp : Option Nat) (cs : List Host.Cell) (bad : List Nat) : (m.writeBytes dp cs bad).heap = m.heap := rfl
@[simp] theorem Mod.writeBytes_heapSerial (m : Mod) (dp : Option Nat) (cs : List Host.Cell) (bad : List Nat) : (m.writeBytes dp cs bad).heapSerial = m.heapSerial := rfl
@[simp] theorem Mod.writeBytes_barriers (m : Mod) (dp : Option Nat) (cs : List Host.Cell) (bad : List Nat) : (m.writeBytes dp cs bad).barriers = m.barriers := rfl
@[simp] theorem Mod.writeBytes_mail (m : Mod) (dp : Option Nat) (cs : List Host.Cell) (bad : List Nat) : (m.writeBytes dp cs bad).mail = m.mail := rfl
@[simp] theorem Mod.writeBytes_mailNext (m : Mod) (dp : Option Nat) (cs : List Host.Cell) (bad : List Nat) : (m.writeBytes dp cs bad).mailNext = m.mailNext := rfl
@[simp] theorem Mod.writeBytes_mgmt (m : Mod) (dp : Option Nat) (cs : List Host.Cell) (bad : List Nat) : (m.writeBytes dp cs bad).mgmt = m.mgmt := rfl
@[simp] theorem Mod.writeBytes_ports (m : Mod) (dp : Option Nat) (cs : List Host.Cell) (bad : List Nat) : (m.writeBytes dp cs bad).ports = m.ports := rfl
@[simp] theorem Mod.writeBytes_takes (m : Mod) (dp : Option Nat) (cs : List Host.Cell) (bad : List Nat) : (m.writeBytes dp cs bad).takes = m.takes := rfl
@[simp] theorem Mod.writeBytes_semaOwner (m : Mod) (dp : Option Nat) (cs : List Host.Cell) (bad : List Nat) : (m.writeBytes dp cs bad).semaOwner = m.semaOwner := rfl
@[simp] theorem Mod.writeBytes_semaLast (m : Mod) (dp : Option Nat) (cs : List Host.Cell) (bad : List Nat) : (m.writeBytes dp cs bad).semaLast = m.semaLast := rfl
@[simp] theorem Mod.writeBytes_werr (m : Mod) (dp : Option Nat) (cs : List Host.Cell) (bad : List Nat) : (m.writeBytes dp cs bad).werr = m.werr := rfl
@[simp] theorem Mod.writeBytes_expired (m : Mod) (dp : Option Nat) (cs : List Host.Cell) (bad : List Nat) : (m.writeBytes dp cs bad).expired = m.expired := rfl
@[simp] theorem Mod.writeBytes_since (m : Mod) (dp : Option Nat) (cs : List Host.Cell) (bad : List Nat) : (m.writeBytes dp cs bad).since = m.since := rfl
@[simp] theorem Mod.writeBytes_lease (m : Mod) (dp : Option Nat) (cs : List Host.Cell) (bad : List Nat) : (m.writeBytes dp cs bad).lease = m.lease := rfl
@[simp] theorem Mod.writeBytes_addr (m : Mod) (dp : Option Nat) (cs : List Host.Cell) (bad : List Nat) : (m.writeBytes dp cs bad).addr = m.addr := rfl
@[simp] theorem Mod.writeBytes_rdy (m : Mod) (dp : Option Nat) (cs : List Host.Cell) (bad : List Nat) : (m.writeBytes dp cs bad).rdy = m.rdy := rfl
@[simp] theorem Mod.writeBytes_plim (m : Mod) (dp : Option Nat) (cs : List Host.Cell) (bad : List Nat) : (m.writeBytes dp cs bad).plim = m.plim := rfl
@[simp] theorem Mod.writeBytes_pwr (m : Mod) (dp : Option Nat) (cs : List Host.Cell) (bad : List Nat) : (m.writeBytes dp cs bad).pwr = m.pwr := rfl
@[simp] theorem Mod.writeBytes_gapt (m : Mod) (dp : Option Nat) (cs : List Host.Cell) (bad : List Nat) : (m.writeBytes dp cs bad).gapt = m.gapt := rfl
@[simp] theorem Mod.writeBytes_idereq (m : Mod) (dp : Option Nat) (cs : List Host.Cell) (bad : List Nat) : (m.writeBytes dp cs bad).idereq = m.idereq := rfl
@[simp] theorem Mod.writeBytes_lstat (m : Mod) (dp : Option Nat) (cs : List Host.Cell) (bad : List Nat) : (m.writeBytes dp cs bad).lstat = m.lstat := rfl
@[simp] theorem Mod.writeBytes_gstat (m : Mod) (dp : Option Nat) (cs : List Host.Cell) (bad : List Nat) : (m.writeBytes dp cs bad).gstat = m.gstat := rfl
@[simp] theorem Mod.writeBytes_glen (m : Mod) (dp : Option Nat) (cs : List Host.Cell) (bad : List Nat) : (m.writeBytes dp cs bad).glen = m.glen := rfl
@[simp] theorem Mod.writeBytes_flags (m : Mod) (dp : Option Nat) (cs : List Host.Cell) (bad : List Nat) : (m.writeBytes dp cs bad).flags = m.flags := rfl
@[simp] theorem Mod.writeBytes_flagBase (m : Mod) (dp : Option Nat) (cs : List Host.Cell) (bad : List Nat) : (m.writeBytes dp cs bad).flagBase = m.flagBase := rfl
@[simp] theorem Mod.writeBytes_fstNext (m : Mod) (dp : Option Nat) (cs : List Host.Cell) (bad : List Nat) : (m.writeBytes dp cs bad).fstNext = m.fstNext := rfl
@[simp] theorem Mod.writeBytes_eth (m : Mod) (dp : Option Nat) (cs : List Host.Cell) (bad : List Nat) : (m.writeBytes dp cs bad).eth = m.eth := rfl
@[simp] theorem Mod.writeBytes_log (m : Mod) (dp : Option Nat) (cs : List Host.Cell) (bad : List Nat) : (m.writeBytes dp cs bad).log = m.log := rfl
@[simp] theorem Mod.writeBytes_logSeq (m : Mod) (dp : Option Nat) (cs : List Host.Cell) (bad : List Nat) : (m.writeBytes dp cs bad).logSeq = m.logSeq := rfl
@[simp] theorem Mod.writeBytes_corrected (m : Mod) (dp : Option Nat) (cs : List Host.Cell) (bad : List Nat) : (m.writeBytes dp cs bad).corrected = m.corrected := rfl
@[simp] theorem Mod.writeBytes_measurement (m : Mod) (dp : Option Nat) (cs : List Host.Cell) (bad : List Nat) : (m.writeBytes dp cs bad).measurement = m.measurement := rfl
@[simp] theorem Mod.writeBytes_resets (m : Mod) (dp : Option Nat) (cs : List Host.Cell) (bad : List Nat) : (m.writeBytes dp cs bad).resets = m.resets := rfl

/-! ### A bank -/

@[simp] theorem Bank.setFlag_s (b : Bank) (i : Nat) (v : Bool) : (b.setFlag i v).s = b.s := rfl
@[simp] theorem Bank.setFlag_a (b : Bank) (i : Nat) (v : Bool) : (b.setFlag i v).a = b.a := rfl
@[simp] theorem Bank.setFlag_v (b : Bank) (i : Nat) (v : Bool) : (b.setFlag i v).v = b.v := rfl
@[simp] theorem Bank.setFlag_p (b : Bank) (i : Nat) (v : Bool) : (b.setFlag i v).p = b.p := rfl
@[simp] theorem Bank.setFlag_sh (b : Bank) (i : Nat) (v : Bool) : (b.setFlag i v).sh = b.sh := rfl
@[simp] theorem Bank.setFlag_latS0 (b : Bank) (i : Nat) (v : Bool) : (b.setFlag i v).latS0 = b.latS0 := rfl
@[simp] theorem Bank.setFlag_latS1 (b : Bank) (i : Nat) (v : Bool) : (b.setFlag i v).latS1 = b.latS1 := rfl
@[simp] theorem Bank.setFlag_latV0 (b : Bank) (i : Nat) (v : Bool) : (b.setFlag i v).latV0 = b.latV0 := rfl
@[simp] theorem Bank.setFlag_latV1 (b : Bank) (i : Nat) (v : Bool) : (b.setFlag i v).latV1 = b.latV1 := rfl
@[simp] theorem Bank.setFlag_latM (b : Bank) (i : Nat) (v : Bool) : (b.setFlag i v).latM = b.latM := rfl
@[simp] theorem Bank.setFlag_latX (b : Bank) (i : Nat) (v : Bool) : (b.setFlag i v).latX = b.latX := rfl
@[simp] theorem Bank.setFlag_latC (b : Bank) (i : Nat) (v : Bool) : (b.setFlag i v).latC = b.latC := rfl
@[simp] theorem Bank.setFlag_link (b : Bank) (i : Nat) (v : Bool) : (b.setFlag i v).link = b.link := rfl
@[simp] theorem Bank.setFlag_lrc (b : Bank) (i : Nat) (v : Bool) : (b.setFlag i v).lrc = b.lrc := rfl
@[simp] theorem Bank.setFlag_status (b : Bank) (i : Nat) (v : Bool) : (b.setFlag i v).status = setFld b.status i 1 (if v then 1 else 0) := rfl
@[simp] theorem Bank.setFlag_ptick (b : Bank) (i : Nat) (v : Bool) : (b.setFlag i v).ptick = b.ptick := rfl
@[simp] theorem Bank.setFlag_misses (b : Bank) (i : Nat) (v : Bool) : (b.setFlag i v).misses = b.misses := rfl
@[simp] theorem Bank.setFlag_depth (b : Bank) (i : Nat) (v : Bool) : (b.setFlag i v).depth = b.depth := rfl
@[simp] theorem Bank.setFlag_loops (b : Bank) (i : Nat) (v : Bool) : (b.setFlag i v).loops = b.loops := rfl
@[simp] theorem Bank.setFlag_pc (b : Bank) (i : Nat) (v : Bool) : (b.setFlag i v).pc = b.pc := rfl
@[simp] theorem Bank.setFlag_target (b : Bank) (i : Nat) (v : Bool) : (b.setFlag i v).target = b.target := rfl
@[simp] theorem Bank.setFlag_delay (b : Bank) (i : Nat) (v : Bool) : (b.setFlag i v).delay = b.delay := rfl
@[simp] theorem Bank.setFlag_task (b : Bank) (i : Nat) (v : Bool) : (b.setFlag i v).task = b.task := rfl
@[simp] theorem Bank.setFlag_xSeq (b : Bank) (i : Nat) (v : Bool) : (b.setFlag i v).xSeq = b.xSeq := rfl

@[simp] theorem Bank.dropTask_s (b : Bank) : (b.dropTask).s = b.s := rfl
@[simp] theorem Bank.dropTask_a (b : Bank) : (b.dropTask).a = b.a := rfl
@[simp] theorem Bank.dropTask_v (b : Bank) : (b.dropTask).v = b.v := rfl
@[simp] theorem Bank.dropTask_p (b : Bank) : (b.dropTask).p = b.p := rfl
@[simp] theorem Bank.dropTask_sh (b : Bank) : (b.dropTask).sh = b.sh := rfl
@[simp] theorem Bank.dropTask_latS0 (b : Bank) : (b.dropTask).latS0 = b.latS0 := rfl
@[simp] theorem Bank.dropTask_latS1 (b : Bank) : (b.dropTask).latS1 = b.latS1 := rfl
@[simp] theorem Bank.dropTask_latV0 (b : Bank) : (b.dropTask).latV0 = b.latV0 := rfl
@[simp] theorem Bank.dropTask_latV1 (b : Bank) : (b.dropTask).latV1 = b.latV1 := rfl
@[simp] theorem Bank.dropTask_latM (b : Bank) : (b.dropTask).latM = b.latM := rfl
@[simp] theorem Bank.dropTask_latX (b : Bank) : (b.dropTask).latX = b.latX := rfl
@[simp] theorem Bank.dropTask_latC (b : Bank) : (b.dropTask).latC = b.latC := rfl
@[simp] theorem Bank.dropTask_link (b : Bank) : (b.dropTask).link = b.link := rfl
@[simp] theorem Bank.dropTask_lrc (b : Bank) : (b.dropTask).lrc = b.lrc := rfl
@[simp] theorem Bank.dropTask_status (b : Bank) : (b.dropTask).status = setFld b.status 0 34 0 := rfl
@[simp] theorem Bank.dropTask_ptick (b : Bank) : (b.dropTask).ptick = b.ptick := rfl
@[simp] theorem Bank.dropTask_misses (b : Bank) : (b.dropTask).misses = b.misses := rfl
@[simp] theorem Bank.dropTask_depth (b : Bank) : (b.dropTask).depth = b.depth := rfl
@[simp] theorem Bank.dropTask_loops (b : Bank) : (b.dropTask).loops = b.loops := rfl
@[simp] theorem Bank.dropTask_pc (b : Bank) : (b.dropTask).pc = b.pc := rfl
@[simp] theorem Bank.dropTask_target (b : Bank) : (b.dropTask).target = b.target := rfl
@[simp] theorem Bank.dropTask_delay (b : Bank) : (b.dropTask).delay = b.delay := rfl
@[simp] theorem Bank.dropTask_task (b : Bank) : (b.dropTask).task = 0 := rfl
@[simp] theorem Bank.dropTask_xSeq (b : Bank) : (b.dropTask).xSeq = b.xSeq := rfl

@[simp] theorem Bank.setLat_s (b : Bank) (n : Nat) (v : VecReg) : (b.setLat n v).s = b.s := by
  unfold Bank.setLat; split <;> rfl
@[simp] theorem Bank.setLat_a (b : Bank) (n : Nat) (v : VecReg) : (b.setLat n v).a = b.a := by
  unfold Bank.setLat; split <;> rfl
@[simp] theorem Bank.setLat_v (b : Bank) (n : Nat) (v : VecReg) : (b.setLat n v).v = b.v := by
  unfold Bank.setLat; split <;> rfl
@[simp] theorem Bank.setLat_p (b : Bank) (n : Nat) (v : VecReg) : (b.setLat n v).p = b.p := by
  unfold Bank.setLat; split <;> rfl
@[simp] theorem Bank.setLat_sh (b : Bank) (n : Nat) (v : VecReg) : (b.setLat n v).sh = b.sh := by
  unfold Bank.setLat; split <;> rfl
@[simp] theorem Bank.setLat_link (b : Bank) (n : Nat) (v : VecReg) : (b.setLat n v).link = b.link := by
  unfold Bank.setLat; split <;> rfl
@[simp] theorem Bank.setLat_lrc (b : Bank) (n : Nat) (v : VecReg) : (b.setLat n v).lrc = b.lrc := by
  unfold Bank.setLat; split <;> rfl
@[simp] theorem Bank.setLat_status (b : Bank) (n : Nat) (v : VecReg) : (b.setLat n v).status = b.status := by
  unfold Bank.setLat; split <;> rfl
@[simp] theorem Bank.setLat_ptick (b : Bank) (n : Nat) (v : VecReg) : (b.setLat n v).ptick = b.ptick := by
  unfold Bank.setLat; split <;> rfl
@[simp] theorem Bank.setLat_misses (b : Bank) (n : Nat) (v : VecReg) : (b.setLat n v).misses = b.misses := by
  unfold Bank.setLat; split <;> rfl
@[simp] theorem Bank.setLat_depth (b : Bank) (n : Nat) (v : VecReg) : (b.setLat n v).depth = b.depth := by
  unfold Bank.setLat; split <;> rfl
@[simp] theorem Bank.setLat_loops (b : Bank) (n : Nat) (v : VecReg) : (b.setLat n v).loops = b.loops := by
  unfold Bank.setLat; split <;> rfl
@[simp] theorem Bank.setLat_pc (b : Bank) (n : Nat) (v : VecReg) : (b.setLat n v).pc = b.pc := by
  unfold Bank.setLat; split <;> rfl
@[simp] theorem Bank.setLat_target (b : Bank) (n : Nat) (v : VecReg) : (b.setLat n v).target = b.target := by
  unfold Bank.setLat; split <;> rfl
@[simp] theorem Bank.setLat_delay (b : Bank) (n : Nat) (v : VecReg) : (b.setLat n v).delay = b.delay := by
  unfold Bank.setLat; split <;> rfl
@[simp] theorem Bank.setLat_task (b : Bank) (n : Nat) (v : VecReg) : (b.setLat n v).task = b.task := by
  unfold Bank.setLat; split <;> rfl
@[simp] theorem Bank.setLat_xSeq (b : Bank) (n : Nat) (v : VecReg) : (b.setLat n v).xSeq = b.xSeq := by
  unfold Bank.setLat; split <;> rfl

/-! ### A core -/

@[simp] theorem Core.setFull_launch (k : Core) (ls : List Nat) : (k.setFull ls).launch = k.launch := rfl
@[simp] theorem Core.setFull_lcore (k : Core) (ls : List Nat) : (k.setFull ls).lcore = k.lcore := rfl
@[simp] theorem Core.setFull_running (k : Core) (ls : List Nat) : (k.setFull ls).running = k.running := rfl
@[simp] theorem Core.setFull_ctxs (k : Core) (ls : List Nat) : (k.setFull ls).ctxs = k.ctxs := rfl
@[simp] theorem Core.setFull_svHolder (k : Core) (ls : List Nat) : (k.setFull ls).svHolder = k.svHolder := rfl
@[simp] theorem Core.setFull_accs (k : Core) (ls : List Nat) : (k.setFull ls).accs = k.accs := rfl
@[simp] theorem Core.setFull_sp (k : Core) (ls : List Nat) : (k.setFull ls).sp = k.sp := rfl
@[simp] theorem Core.setFull_spPoison (k : Core) (ls : List Nat) : (k.setFull ls).spPoison = k.spPoison := rfl
@[simp] theorem Core.setFull_bfmt (k : Core) (ls : List Nat) : (k.setFull ls).bfmt = k.bfmt := rfl
@[simp] theorem Core.setFull_queues (k : Core) (ls : List Nat) : (k.setFull ls).queues = k.queues := rfl
@[simp] theorem Core.setFull_maps (k : Core) (ls : List Nat) : (k.setFull ls).maps = k.maps := rfl
@[simp] theorem Core.setFull_masks (k : Core) (ls : List Nat) : (k.setFull ls).masks = k.masks := rfl
@[simp] theorem Core.setFull_meq (k : Core) (ls : List Nat) : (k.setFull ls).meq = k.meq := rfl
@[simp] theorem Core.setFull_meSeq (k : Core) (ls : List Nat) : (k.setFull ls).meSeq = k.meSeq := rfl
@[simp] theorem Core.setFull_reqs (k : Core) (ls : List Nat) : (k.setFull ls).reqs = k.reqs := rfl
@[simp] theorem Core.setFull_left (k : Core) (ls : List Nat) : (k.setFull ls).left = k.left := rfl

@[simp] theorem Core.setEmpty_launch (k : Core) (ls : List Nat) : (k.setEmpty ls).launch = k.launch := rfl
@[simp] theorem Core.setEmpty_lcore (k : Core) (ls : List Nat) : (k.setEmpty ls).lcore = k.lcore := rfl
@[simp] theorem Core.setEmpty_running (k : Core) (ls : List Nat) : (k.setEmpty ls).running = k.running := rfl
@[simp] theorem Core.setEmpty_ctxs (k : Core) (ls : List Nat) : (k.setEmpty ls).ctxs = k.ctxs := rfl
@[simp] theorem Core.setEmpty_svHolder (k : Core) (ls : List Nat) : (k.setEmpty ls).svHolder = k.svHolder := rfl
@[simp] theorem Core.setEmpty_accs (k : Core) (ls : List Nat) : (k.setEmpty ls).accs = k.accs := rfl
@[simp] theorem Core.setEmpty_sp (k : Core) (ls : List Nat) : (k.setEmpty ls).sp = k.sp := rfl
@[simp] theorem Core.setEmpty_spPoison (k : Core) (ls : List Nat) : (k.setEmpty ls).spPoison = k.spPoison := rfl
@[simp] theorem Core.setEmpty_bfmt (k : Core) (ls : List Nat) : (k.setEmpty ls).bfmt = k.bfmt := rfl
@[simp] theorem Core.setEmpty_queues (k : Core) (ls : List Nat) : (k.setEmpty ls).queues = k.queues := rfl
@[simp] theorem Core.setEmpty_maps (k : Core) (ls : List Nat) : (k.setEmpty ls).maps = k.maps := rfl
@[simp] theorem Core.setEmpty_masks (k : Core) (ls : List Nat) : (k.setEmpty ls).masks = k.masks := rfl
@[simp] theorem Core.setEmpty_meq (k : Core) (ls : List Nat) : (k.setEmpty ls).meq = k.meq := rfl
@[simp] theorem Core.setEmpty_meSeq (k : Core) (ls : List Nat) : (k.setEmpty ls).meSeq = k.meSeq := rfl
@[simp] theorem Core.setEmpty_reqs (k : Core) (ls : List Nat) : (k.setEmpty ls).reqs = k.reqs := rfl
@[simp] theorem Core.setEmpty_left (k : Core) (ls : List Nat) : (k.setEmpty ls).left = k.left := rfl

end Sys2Proof.Machine
end

