-- ==== Sys2Proof/Tests/Slice0.lean ====
section
/-! SUPPORT. Tests: ill-formed terms are refused; words of the manual decode; a few steps; and for every statement with
hypotheses a state and operands that meet them. Expected values come from the manual. -/

namespace Sys2Proof.Tests
open Sys2Proof Sys2Proof.Machine
set_option Elab.async false

/-! ### A small machine -/

/-- Object 2: 4,096 bytes at 8,192 of die 0's memory, with every right; object 3: bytes of another module. -/
def ent2 : Entry := BitVec.ofNat 256 (1 + 63 * 2 ^ 2 + 2 ^ 8 + 2 ^ 9 + 255 * 2 ^ 12 + 4096 * 2 ^ 32 + 8192 * 2 ^ 128)
def ent3 : Entry := BitVec.ofNat 256 (3 + 63 * 2 ^ 2 + 2 ^ 8 + 255 * 2 ^ 12 + 4096 * 2 ^ 32 + 5 * 2 ^ 80 + 7 * 2 ^ 128)

/-- Object 4: 16,384 bytes at 16,384, of the supervisor. -/
def ent4 : Entry := BitVec.ofNat 256 (1 + 63 * 2 ^ 2 + 2 ^ 9 + 255 * 2 ^ 12 + 16384 * 2 ^ 32 + 16384 * 2 ^ 128)

/-- A capability of an object with every right and n bytes. -/
def capOf (obj n : Nat) : Cap := BitVec.ofNat 128 (obj * 2 ^ 64 + 63 * 2 ^ 88 + n * 2 ^ 96)

def labLaunch : Launch := { Launch.none with record := wordRecord false, img := wordImage, die := 0, tier := 1, cores := [0] }

/-- A module with one launch on core 0; a2 and a3 are capabilities of objects 2 and 3. -/
def labMod : Mod :=
  let k := entryCore 16 (wordRecord false) wordImage 0 []
  { Mod.reset with
    entries := [(1, wordEntry 0), (2, ent2), (3, ent3), (4, ent4)], rdy := BitVec.allOnes 30, launches := [(16, labLaunch)]
    cores := [(0, { k with running := some 0, ctxs := k.ctxs.map fun c => { c with
      st := .running, bank := { c.bank with a := (c.bank.a.set 2 (capOf 2 4096)).set 3 (capOf 3 4096) } } })] }

/-- The machine between steps. -/
def idleLab : State :=
  let m : Mach := ⟨labMod, Core.idle, Ctx.idle, 0, 0⟩
  { State.reset with now := m, start := m }

/-- Its context 0 of core 0 about to issue. -/
def lab : State :=
  let m := idleLab.now.load 0 0
  { idleLab with now := m, start := m }

/-- A change of the machine, at the start of the bundle and now. -/
def inBoth (f : Mach → Mach) (s : State) : State := { s with now := f s.now, start := f s.start }
def inCtx (f : Ctx → Ctx) : State → State := inBoth fun m => { m with ctx := f m.ctx }
def inBank (f : Bank → Bank) : State → State := inCtx fun c => { c with bank := f c.bank }
def inCore (f : Core → Core) : State → State := inBoth fun m => { m with core := f m.core }
def inMod (f : Mod → Mod) : State → State := inBoth fun m => { m with mod := f m.mod }
/-- Object 6 with a reserved bit set, and without any right. -/
def badCap : Cap := BitVec.ofNat 128 (6 * 2 ^ 64 + 2 ^ 94)
def poorCap : Cap := BitVec.ofNat 128 (6 * 2 ^ 64)
/-- Values in a scalar, capability, shape and vector register. -/
def setS (n : Fin 64) (v : W64) : State → State := inBank fun b => { b with s := b.s.set n v }
def setA (n : Fin 16) (v : Cap) : State → State := inBank fun b => { b with a := b.a.set n v }
def setSh (n : Fin 16) (v : Shape) : State → State := inBank fun b => { b with sh := b.sh.set n v }
def setV (n : Fin 32) (v : VecReg) : State → State := inBank fun b => { b with v := b.v.set n v }

/-- The same launch on the eight cores of a cluster; and a member of a trust domain of two modules. -/
def lab8 : State :=
  inMod (fun m => { m with
    launches := [(16, { labLaunch with record := { labLaunch.record with n := 8 }, cores := [0, 1, 2, 3, 4, 5, 6, 7] })]
    cores := m.cores ++ (upTo 7).map fun i => (i + 1, { entryCore 16 (wordRecord false) wordImage (i + 1) [] with ctxs := [] }) }) lab
def inDomain : State → State :=
  inMod fun m => { m with dom := { m.dom with state := .member, members := [0, 5], leader := 5, keys := [(0, ⟨1, 2, 3, 4⟩)] } }

/-- Die 0 has supervisor code in object 4; the context in the supervisor bank, with a user bank saved. -/
def withCode : State → State := inMod fun m => m.setDie 0 fun d => { d with svcode := capOf 4 16384 }
def inSv (kind : Nat) : State → State := inBoth fun m =>
  { m with core := { m.core with svHolder := some 0 }, ctx := { m.ctx with saved := some m.ctx.bank, svKind := kind } }

/-- A shape image: base, extent and stride of dimension 0, format, space, aux words. -/
def shapeW (base ext str fmt space aux0 aux1 : Nat) : Shape :=
  BitVec.ofNat 512 (base + ext * 2 ^ 64 + str * 2 ^ 128 + fmt * 2 ^ 320 + space * 2 ^ 324 + aux0 * 2 ^ 384 + aux1 * 2 ^ 448)

/-- A window word: first row, rows, map, block, selector. -/
def winW (row0 n map block sel : Nat) : W64 := BitVec.ofNat 64 (row0 + n * 2 ^ 10 + map * 2 ^ 19 + block * 2 ^ 23 + sel * 2 ^ 31)

/-- The launch's row control words and fill list. -/
def inRows (rows : Tab W32) (fills : Tab FillEntry) : State → State := inMod fun m => { m with
  launches := [(16, { labLaunch with clusters := [(0, { Cluster.fresh with rows := rows, fills := fills })] })] }

def okIs {ε α : Type} [DecidableEq α] (a : Except ε α) (x : α) : Bool :=
  match a with
  | .ok y => decide (y = x)
  | .error _ => false

theorem ok {ε α : Type} [DecidableEq α] {a : Except ε α} {x : α} (h : okIs a x = true) : a = .ok x := by
  cases a with
  | ok y => simpa [okIs] using h
  | error e => simp [okIs] at h

def isOk {ε α : Type} (a : Except ε α) : Bool :=
  match a with
  | .ok _ => true
  | .error _ => false

/-! ### Witnesses: a premise `a = .ok r` with some r is written `isOk a = true` -/



theorem witness_ScalarSumsAndExtremaComplete :
    (Src.s 0).scalarOk = true ∧ (Src.imm 1).scalarOk = true ∧ lab.scalar (slotS .s0) 0 (.s 0) = .ok 0 ∧
      lab.scalar (slotS .s0) 1 (.imm 1) = .ok 1 := by
  and_intros <;> first | decide +kernel | exact ok (by decide +kernel)

theorem witness_ScalarLogicShiftsImmediatesAndCountsComplete :
    (Src.s 2).scalarOk = true ∧ (Src.imm 63).scalarOk = true ∧ lab.scalar (slotS .s1) 0 (.s 2) = .ok 1 ∧
      lab.scalar (slotS .s1) 1 (.imm 63) = .ok (-1) := by
  and_intros <;> first | decide +kernel | exact ok (by decide +kernel)

theorem witness_ScalarComparesMultipliesAndDividesComplete :
    (Src.s 2).scalarOk = true ∧ (Src.imm 0).scalarOk = true ∧ lab.scalar (slotS .s0) 0 (.s 2) = .ok 1 ∧
      lab.scalar (slotS .s0) 1 (.imm 0) = .ok 0 := by
  and_intros <;> first | decide +kernel | exact ok (by decide +kernel)

/-- A length that is exactly the capability's, and one more; a capability with bit 94 set, and one that may not derive. -/
theorem witness_CapabilityOperationsAndChecksFollowTheirRules :
    (Src.a 2).capOk = true ∧ (Src.s 8).scalarOk = true ∧ (setS 8 4096 lab).cap (slotS .s0) 0 (.a 2) = .ok (capOf 2 4096) ∧
      (setS 8 4096 lab).scalar (slotS .s0) 1 (.s 8) = .ok 4096 ∧ fld (capOf 2 4096) 94 2 = 0 ∧
      capRights (capOf 2 4096) &&& rDer = rDer ∧ (4096 : W64).toNat ≤ capLength (capOf 2 4096) ∧
      (setS 8 4097 lab).scalar (slotS .s0) 1 (.s 8) = .ok 4097 ∧ capLength (capOf 2 4096) < (4097 : W64).toNat ∧
      (setA 4 badCap lab).cap (slotS .s0) 0 (.a 4) = .ok badCap ∧ fld badCap 94 2 ≠ 0 ∧ badCap.getLsbD 94 = true ∧
      (setA 4 poorCap lab).cap (slotS .s0) 0 (.a 4) = .ok poorCap ∧ fld poorCap 94 2 = 0 ∧ capRights poorCap &&& rDer ≠ rDer := by
  and_intros <;> first | decide +kernel | exact ok (by decide +kernel)

/-- A shape is loaded from the last 64 bytes of object 2, and from the last of the image's data. -/
theorem witness_ShapeRegisterOperationsComplete :
    (Src.s 8).scalarOk = true ∧ (setS 8 4032 lab).scalar (slotS .s0) 1 (.s 8) = .ok 4032 ∧ (Src.a 2).capOk = true ∧
      isOk ((setS 8 4032 lab).load (slotS .s0) (.a 2) (.s 8) 64 64 false) = true ∧
      (setS 8 4032 lab).start.data = (wordRecord false |>.image, 0, 4096) ∧ (4032 : W64).toNat + 64 ≤ 4096 ∧ (4032 : W64).toNat % 64 = 0 ∧
      (setS 8 4032 lab).start.mod.protect (capObject (wordRecord false).image)
        (capOffset (wordRecord false).image + 0 + (4032 : W64).toNat : Nat) 64 rEx (capRights (wordRecord false).image) lab.part lab.sv = none ∧
      isOk ((setS 8 4032 lab).loadFrom (slotS .s0) (capObject (wordRecord false).image) (capOffset (wordRecord false).image + 0 + 4032) 64 false) = true ∧
      (Src.s 2).scalarOk = true ∧ lab.shape (slotS .s0) 2 (.sh 4) = .ok 0 ∧ lab.scalar (slotS .s0) 0 (.s 2) = .ok 1 ∧
      lab.scalar (slotS .s0) 1 (.imm 15) = .ok 15 ∧ (Src.sh 4).shapeOk = true ∧ lab.shape (slotS .s0) 0 (.sh 4) = .ok 0 := by
  and_intros <;> first | decide +kernel | exact ok (by decide +kernel)

theorem witness_PredicateOperationsComplete :
    (Src.p 0).predOk = true ∧ (Src.p 1).predOk = true ∧ (Src.s 8).scalarOk = true ∧
      lab.pred (slotS .s0) 0 (.p 0) = .ok (BitVec.allOnes 128) ∧ lab.pred (slotS .s0) 1 (.p 1) = .ok 0 ∧
      (setS 8 128 lab).scalar (slotS .s0) 0 (.s 8) = .ok 128 := by
  and_intros <;> first | decide +kernel | exact ok (by decide +kernel)

/-- link and lrc are read once a call has written link. -/
theorem witness_SpecialRegistersAndBankFormatsReadAndWrite :
    let s := inCtx (fun c => { c with windows := [] }) lab
    (Src.s 2).scalarOk = true ∧ s.scalar (slotS .s0) 0 (.s 2) = .ok 1 ∧ s.start.ctx.poison.contains .link = false ∧
      s.start.ctx.open s.start.mod.tick .link = false ∧ s.start.ctx.poison.contains .lrc = false ∧
      s.start.ctx.open s.start.mod.tick .lrc = false ∧ s.scalar (slotS .s0) 1 (.imm 31) = .ok 31 ∧ s.rcd.gSp ≠ 0 ∧
      (setS 8 4 s).scalar (slotS .s0) 0 (.s 8) = .ok 4 ∧ (4 : W64).toNat < 2 ^ 32 ∧ bankFormatOk s.rcd.gSp ((4 : W64).setWidth 32) = true := by
  and_intros <;> first | decide +kernel | exact ok (by decide +kernel)

/-- A closed register, an open one, a poisoned one, an empty queue and a queue with an entry. -/
theorem witness_SourcesAreReadFromTheStartOfTheBundle :
    let opened := inCtx (fun c => { c with windows := [⟨.s 5, some 1, none⟩] }) lab
    let bad := inCtx (fun c => { c with poison := [.s 6] }) lab
    let full := inCore (fun k => { k with queues := k.queues.set 7 [⟨9, false⟩] }) lab
    lab.start.ctx.poison.contains (.s 4) = false ∧ lab.start.ctx.open lab.start.mod.tick (.s 4) = false ∧
      opened.start.ctx.poison.contains (.s 5) = false ∧ opened.start.ctx.open opened.start.mod.tick (.s 5) = true ∧
      bad.start.ctx.poison.contains (.s 6) = true ∧ lab.start.core.queues[(0 : Fin 8)] = [] ∧
      full.start.core.queues[(7 : Fin 8)] = [⟨9, false⟩] := by
  decide +kernel

/-- Each width at the last place of object 2; a byte that the context has stored itself; a byte of memory. -/
theorem witness_ScalarLoadsComplete :
    (Src.a 2).capOk = true ∧ (Src.s 8).scalarOk = true ∧
      (∀ p ∈ [(1, 4095), (2, 4094), (4, 4092), (8, 4088), (16, 4080)],
        isOk ((setS 8 (BitVec.ofNat 64 p.2) lab).load (slotS .s0) (.a 2) (.s 8) p.1 p.1 false) = true) ∧
      isOk ((setS 8 4088 lab).load (slotS .s0) (.a 2) (.s 8) 8 8 true) = true ∧
      isOk ((inCtx (fun c => { c with unpub := [(cellKey 2 0, 7)] }) lab).load 0 (.a 2) (.s 8) 1 1 false) = true ∧
      tfind (cellKey 2 0) (inCtx (fun c => { c with unpub := [(cellKey 2 0, 7)] }) lab).start.ctx.unpub = some 7 ∧
      tfind (cellKey 2 0) lab.start.ctx.unpub = none ∧ lab.start.mod.place 2 ent2 0 false = .phys 8192 := by
  and_intros <;> first | decide +kernel | exact ok (by decide +kernel)

/-- Stores of each width at the last place of object 2; the last 8 bytes of the own bank, full and empty; the first 8 of a peer's. -/
theorem witness_ScalarStoresAndScratchpadAccessesComplete :
    let full := inCore (fun k => { k with full := [2047] }) (setS 8 262136 lab8)
    (Src.a 2).capOk = true ∧ (Src.s 8).scalarOk = true ∧ lab.cap (slotS .s0) 0 (.a 2) = .ok (capOf 2 4096) ∧
      lab.scalar (slotS .s0) 2 (.s 63) = .ok 0 ∧ lab.capAccess (slotS .s0) (capOf 2 4096) 4095 1 1 rSt = .ok 4095 ∧
      lab.capAccess (slotS .s0) (capOf 2 4096) 4094 2 2 rSt = .ok 4094 ∧ lab.capAccess (slotS .s0) (capOf 2 4096) 4092 4 4 rSt = .ok 4092 ∧
      lab.capAccess (slotS .s0) (capOf 2 4096) 4088 8 8 rSt = .ok 4088 ∧
      full.scalar (slotS .s0) 0 (.s 8) = .ok 262136 ∧ full.scalar (slotS .s0) 1 (.imm 0) = .ok 0 ∧
      full.spScalar (slotS .s0) 262136 0 = .ok ⟨0, 262136⟩ ∧ full.place = 0 ∧ full.start.core.linesFull (linesOf 262136 8) = true ∧
      full.start.core.spBad 262136 8 = false ∧ lab8.spScalar (slotS .s0) (2 ^ 22) 0 = .ok ⟨1, 0⟩ ∧ lab8.place = 0 := by
  and_intros <;> first | decide +kernel | exact ok (by decide +kernel)

/-- The last word of object 2, for each width; the pair of registers of cas is s62 and s63. -/
theorem witness_StrongAccessesCompleteAtTheirHome :
    (Src.a 4).capOrScalarOk = true ∧ Published lab ∧ AtStart lab ∧ lab.scalar (slotS .s0) 2 (.s 62) = .ok 0 ∧ lab.scalar (slotS .s0) 3 (.s 63) = .ok 0 ∧
      (∀ op ∈ [(HomeOp.ld, rLd), (.st, rSt), (.add, rAt), (.and, rAt), (.or, rAt), (.xor, rAt), (.minI, rAt), (.maxI, rAt), (.minZ, rAt),
          (.maxZ, rAt), (.swap, rAt), (.cas, rAt)], ∀ w ∈ [0, 1, 2, 3],
        okIs ((setA 4 (capOf 2 4096 + BitVec.ofNat 128 (4096 - 2 ^ w)) lab).strongAt (slotS .s0) (.a 4) (2 ^ w) op.1 op.2)
          (.phys (12288 - 2 ^ w) 2 (4096 - 2 ^ w) false) = true) ∧
      255 < 2 ^ (8 * 1) := by
  unfold Published AtStart
  and_intros <;> first | decide +kernel | exact ok (by decide +kernel)

theorem witness_StrongAccessesElsewhereWaitForAnAnswer :
    (Src.s 8).capOrScalarOk = true ∧ (Src.a 3).capOrScalarOk = true ∧ Published lab8 ∧ Published (inDomain lab) ∧
      lab8.scalar (slotS .s0) 2 (.s 62) = .ok 0 ∧ lab8.scalar (slotS .s0) 3 (.s 63) = .ok 0 ∧
      (setS 8 262136 lab8).strongAt (slotS .s0) (.s 8) 8 .cas rAt = .ok (.sp lab8.now.cid 262136) ∧
      (setS 8 (2 ^ 22) lab8).strongAt (slotS .s0) (.s 8) 8 .ld rLd = .ok (.sp 1 0) ∧ 1 ≠ lab8.now.cid ∧
      (inCtx (fun c => { c with checked := [remoteKey 5 7 0] }) (inDomain lab)).strongAt (slotS .s0) (.a 3) 8 .add rAt = .ok (.remote 5 7 0 3 false) := by
  unfold Published
  and_intros <;> first | decide +kernel | exact ok (by decide +kernel)

/-- Queues of 0, 15 and 16 entries. -/
theorem witness_QueuePushesAppendAnEntry :
    let q := fun n => inCore (fun k => { k with queues := k.queues.set 7 (List.replicate n ⟨0, false⟩) }) lab
    lab.scalar (slotS .s0) 0 (.s 8) = .ok 0 ∧ lab.dataV (slotV .v0) 0 31 = .ok 0 ∧ lab.dataV 5 0 31 = .ok 0 ∧
      (q 15).now.core.queues[(7 : Fin 8)].length < 16 ∧ 16 ≤ (q 16).now.core.queues[(7 : Fin 8)].length := by
  and_intros <;> first | decide +kernel | exact ok (by decide +kernel)

/-- Conditions 0 and 1, a link that a call has written, the last entry of a jump table, and the index after it. -/
theorem witness_BranchesReturnsAndJumpsNameTheirTarget :
    let s := inMod (fun m => { m with launches := [(16, { labLaunch with img := { wordImage with jtabs := [(4080, 4)] } })] })
      (inCtx (fun c => { c with windows := [] }) (setS 8 3 lab))
    (Src.s 8).scalarOk = true ∧ s.scalar 1 0 (.s 2) = .ok 1 ∧ s.scalar 6 0 (.s 2) = .ok 1 ∧ s.scalar 1 0 (.s 9) = .ok 0 ∧
      s.scalar 6 0 (.s 9) = .ok 0 ∧ s.iss.link = none ∧ s.start.ctx.poison.contains .link = false ∧
      s.start.ctx.open s.start.mod.tick .link = false ∧ s.scalar 6 0 (.s 8) = .ok 3 ∧ s.scalar 6 1 (.s 9) = .ok 0 ∧
      s.start.jtab (0 : W64).toNat = some (4080, 4) ∧ (3 : W64).toNat < 4 ∧ s.start.data = ((wordRecord false).image, 0, 4096) ∧
      isOk (s.loadFrom 6 (capObject (wordRecord false).image) (capOffset (wordRecord false).image + 0 + 4080 + 4 * (3 : W64).toNat) 4 false) = true ∧
      (4 : Nat) ≤ (4 : W64).toNat ∧ lab.start.jtab 0 = none := by
  and_intros <;> first | decide +kernel | exact ok (by decide +kernel)

/-- No level, three levels and four levels open; counts 0 and 1. -/
theorem witness_BranchesLandAfterTwoBundlesAndLoopsOpen :
    { Iss.idle with branch := true }.branch = true ∧ Iss.idle.branch = false ∧ (Src.s 9).scalarOk = true ∧ lab.scalar 6 0 (.s 9) = .ok 0 ∧
      lab.scalar 6 0 (.s 2) = .ok 1 ∧ lab.start.ctx.poison.contains .lrc = false ∧ lab.start.ctx.open lab.start.mod.tick .lrc = false ∧
      (inBank (fun b => { b with depth := 3 }) lab).start.ctx.bank.depth.toNat < 4 ∧
      (inBank (fun b => { b with depth := 4 }) lab).start.ctx.bank.depth.toNat = 4 ∧ lab.start.ctx.bank.depth.toNat < 4 ∧
      (0 : Nat) = min (0 : W64).toNat (2 ^ 32 - 1) ∧ (1 : Nat) = ((1 : BitVec 16).toNat + 7) / 8 ∧
      (inBank (fun b => { b with lrc := 1 }) lab).start.ctx.bank.lrc.toNat = 1 := by
  and_intros <;> first | decide +kernel | exact ok (by decide +kernel)

/-- A byte with no store after the refresh's own and one whose last store is due; nothing to publish; a store of another module's byte
not yet sent; barrier 15 with counts 1, 2 and 65,535; waits before, at and after. -/
theorem witness_PhasesBarriersAndWaitsComplete :
    let pubs : Tab (List Pub) := [(8192, [⟨7, .every, some .ctx, 0⟩])]
    let s := inBank (fun b => { b with ptick := 1 }) (setS 8 65535 lab)
    (pubs.map (·.1)).Nodup ∧ tfind 8193 pubs = none ∧ tfind 8192 pubs = some [⟨7, .every, some .ctx, 0⟩] ∧
      (⟨7, .every, some .ctx, 0⟩ : Pub).due lab.now.self .ctx = true ∧
      (Src.s 8).scalarOk = true ∧ (Src.imm 2).scalarOk = true ∧ s.scalar 6 0 (.imm 15) = .ok 15 ∧ s.scalar 6 1 (.imm 2) = .ok 2 ∧
      s.scalar 6 1 (.s 8) = .ok 65535 ∧ s.scalar 6 1 (.imm 1) = .ok 1 ∧ Published s ∧ s.now.readsQuiet = true ∧
      ((inCtx (fun c => { c with unpub := [(cellKey 3 0, 7)] }) (inDomain lab)).now.publish .mod (.refresh .mod)).2 = false ∧
      s.start.mod.barriers = s.now.mod.barriers ∧ (∀ i ∈ s.now.mod.barriers, i.key ≠ s.barrierKey .die 15) ∧ s.now.core.launch.isSome = true ∧
      s.now.xid < s.now.core.ctxs.length ∧ (15 : W64).toNat ≤ 15 ∧ Scope.die ≠ .ctx ∧ 2 ≤ (2 : W64).toNat ∧ (65535 : W64).toNat ≤ 65535 ∧
      s.scalar 6 0 (.s 9) = .ok 0 ∧ (0 : W64).toNat ≤ s.now.mod.tick ∧ s.now.mod.tick < (1 : W64).toNat ∧
      lab.start.ctx.bank.ptick.toNat ≤ lab.now.mod.tick ∧ s.now.mod.tick < s.start.ctx.bank.ptick.toNat := by
  unfold Published
  and_intros <;> first | decide +kernel | exact ok (by decide +kernel)

/-- With a task and without one; a handler queue of one record on the last die. -/
theorem witness_TasksEndTrapsAreNamedAndRecordsSpawned :
    let held := inBank (fun b => { b with status := 2 ^ 32 }) lab
    let s := inMod (fun m => { m.setQueue 9 63 (fun q => { q with cap := 1 }) with
      launches := [(16, { labLaunch with record := { labLaunch.record with hq := some (9, 63) } })] }) lab
    (Src.s 8).scalarOk = true ∧ lab.scalar 6 0 (.s 8) = .ok 0 ∧ held.now.ctx.user.status.getLsbD 32 = true ∧
      lab.now.ctx.user.status.getLsbD 32 = false ∧ (Src.v 1).vectorOk = true ∧ s.vector 6 0 .z64 (.v 1) = .ok 0 ∧
      s.scalar 6 1 (.s 8) = .ok 0 ∧ s.rcd.hq = some (9, 63) ∧ 9 < 10 ∧ Published s ∧ s.start.mod = s.now.mod ∧
      (s.now.mod.queue 9 63).open = true ∧ (s.now.mod.queue 9 63).full = false ∧ (s.now.mod.queue 9 63).mode ≠ 2 := by
  unfold Published
  and_intros <;> first | decide +kernel | exact ok (by decide +kernel)

/-- Kinds 0 and 31 with code at their vectors, no code, and an exception in the supervisor bank. -/
theorem witness_ExceptionsEnterTheSupervisor :
    (withCode lab).now.ctx.saved = none ∧ (withCode lab).now.enterable 0 = true ∧ (withCode lab).now.enterable 31 = true ∧
      (withCode lab).now.bankTaken = false ∧ lab.now.core.launch = some 16 ∧ (tfind (16 : W32).toNat lab.now.mod.launches).isSome = true ∧
      lab.now.enterable 31 = false ∧ (inSv 0 (withCode lab)).now.ctx.saved.isSome = true := by
  decide +kernel

/-- A word that resumes, one with a reserved bit, and the user bank. -/
theorem witness_ReturnsResumeTheUserBank :
    let s := inSv 24 lab
    s.view 6 0 6 (.s 6) s.start.ctx.bank.s[6] = .ok (0 : W64) ∧ s.start.ctx.saved.isSome = true ∧ dispositionOk 0 s.start.ctx.svKind = true ∧
      (0 : W64).toNat = 0 ∧ s.now.ctx.saved = some lab.now.ctx.bank ∧ lab.start.ctx.saved = none ∧
      (setS 6 16 s).view 6 0 6 (.s 6) (setS 6 16 s).start.ctx.bank.s[6] = .ok (16 : W64) ∧ dispositionOk 16 s.start.ctx.svKind = false := by
  and_intros <;> first | decide +kernel | exact ok (by decide +kernel)

/-- Nothing to land, and an answer still to land. -/
theorem witness_TrapsDiscardTheBundle :
    let s := inCtx (fun c => { c with windows := [⟨.s 5, none, some 1⟩] }) lab
    lab.start.core.landed lab.start.xid lab.start.ctx = true ∧ s.start.core.landed s.start.xid s.start.ctx = false ∧ 31 < 32 ∧ 31 ≠ 28 ∧ 31 ≠ 29 ∧
      255 < 256 ∧ 7 < 8 ∧ 2 ^ 24 - 1 < 2 ^ 24 := by
  decide +kernel

theorem witness_IllFormedOperationsTrap :
    slotOf (.addI64 .s0 none (.v 1) (.imm 0)) = some .s0 ∧ Instr.wf (.addI64 .s0 none (.v 1) (.imm 0)) = false := by decide

/-- A bundle with srd, one with mans, and one with neither. -/
theorem witness_PrivilegedOperationsTrapInUserCode :
    let o : Slot × Instr := (.c, .srd none (.s 1))
    let p : Slot × Instr := (.c, .mans (.s 1) (.s 2))
    Instr.isPrivileged o.2 = true ∧ o ∈ (⟨⟨0, false, 0, 0⟩, [o]⟩ : Bundle).ops ∧ (∃ x y, p.2 = .mans x y) ∧
      (∀ q ∈ (⟨⟨0, false, 0, 0⟩, [(.c, .kpoint)]⟩ : Bundle).ops, Instr.isPrivileged q.2 = false) := by
  exact ⟨by decide, by simp, ⟨_, _, rfl⟩, by decide⟩

/-- One byte too many, an entry without the object's rights, and an odd offset. -/
theorem witness_MisalignedAndOutOfBoundsAccessesTrap :
    (Src.a 2).capOk = true ∧ (Src.imm 1).scalarOk = true ∧ lab.cap (slotS .s0) 0 (.a 2) = .ok (capOf 2 4096) ∧
      lab.scalar (slotS .s0) 1 (.imm 1) = .ok 1 ∧ checkCap (capOf 2 4) (1 : W64).toInt 4 rLd = some 3 ∧
      checkCap (capOf 2 4096) (1 : W64).toInt 4 rLd = none ∧ checkCap (capOf 9 4096) (1 : W64).toInt 4 rLd = none ∧
      lab.start.mod.protect 9 1 4 rLd 63 lab.part lab.sv = some 1 ∧ lab.start.mod.protect 2 1 4 rLd 63 lab.part lab.sv = none ∧
      ((capOffset (capOf 2 4096) : Int) + (1 : W64).toInt) % 4 ≠ 0 := by
  and_intros <;> first | decide +kernel | exact ok (by decide +kernel)

/-- Every element type, a lane guard and p0, and the last registers. -/
theorem witness_VectorFloatOperationsComplete :
    (Src.v 1).vectorOk = true ∧ (Src.v 2).vectorOk = true ∧ lab.guard (slotV .v0) 4 7 = .ok 0 ∧
      lab.guard (slotV .v0) 4 0 = .ok (BitVec.allOnes 128) ∧ lab.dataV (slotV .v0) 2 31 = .ok 0 ∧
      (∀ t ∈ [Ty.f32, .bf16], okIs (lab.vector (slotV .v0) 0 t (.v 1)) 0 = true ∧ okIs (lab.vector (slotV .v0) 1 t (.v 2)) 0 = true) := by
  and_intros <;> first | decide +kernel | exact ok (by decide +kernel)

theorem witness_VectorIntegerOperationsComplete :
    (Src.v 31).vectorOk = true ∧ (Src.imm 1).vectorOk = true ∧
      (∀ t ∈ [Ty.i16, .i32, .z16, .z32], okIs (lab.vector (slotV .v1) 0 t (.v 31)) 0 = true ∧
        okIs (lab.vector (slotV .v1) 1 t (.imm 1)) (splat t.width 1) = true) := by
  and_intros <;> decide +kernel

theorem witness_VectorComparesSelectsAndPermutesComplete :
    (Src.v 31).vectorOk = true ∧ (Src.imm 1).vectorOk = true ∧
      (∀ t ∈ [Ty.f32, .bf16, .i16, .i32, .z16, .z32], okIs (lab.vector (slotV .v1) 0 t (.v 31)) 0 = true ∧
        isOk (lab.vector (slotV .v1) 1 t (.imm 1)) = true) ∧
      (Src.s 8).scalarOk = true ∧ (setS 8 127 lab).scalar (slotV .v0) 1 (.s 8) = .ok 127 ∧ lab.guard (slotV .v0) 4 7 = .ok 0 := by
  and_intros <;> first | decide +kernel | exact ok (by decide +kernel)

/-- Mode bytes of the types of R203, with the last rounding. -/
theorem witness_VectorReductionsComplete :
    (Src.v 1).vectorOk = true ∧ lab.guard (slotV .v0) 4 7 = .ok 0 ∧
      (∀ mb ∈ [0x00#8, 0x19#8, 0x28#8], isOk (lab.rndMode (slotV .v0) mb) = true ∧ modeFloatOk mb = true ∧
        okIs (lab.vector (slotV .v0) 0 .f32 (.v 1)) 0 = true ∧ okIs (lab.vector (slotV .v0) 0 .bf16 (.v 1)) 0 = true) ∧
      (∀ mb ∈ [0x60#8, 0x70#8, 0x90#8, 0xA1#8], isOk (lab.rndMode (slotV .v0) mb) = true ∧ modeIntOk mb = true ∧
        okIs (lab.vector (slotV .v0) 0 (modeTy mb) (.v 1)) 0 = true) ∧
      (∀ mb ∈ [0x00#8, 0x10#8, 0x60#8, 0x70#8, 0x90#8, 0xA0#8], isOk (lab.rndMode (slotV .v0) mb) = true ∧ modeMaxOk mb = true ∧
        okIs (lab.vector (slotV .v0) 0 (modeTy mb) (.v 1)) 0 = true) ∧
      okIs (lab.vector (slotV .v0) 1 .f32 (.v 2)) 0 = true ∧ okIs (lab.vector (slotV .v0) 1 .bf16 (.v 2)) 0 = true := by
  and_intros <;> first | decide +kernel | exact ok (by decide +kernel)

/-- From the first type to the last and back, with the first rounding and the last. -/
theorem witness_VectorConversionsComplete :
    (Src.v 1).vectorOk = true ∧ Ty.ofCode (0#4).toNat = some .f32 ∧ Ty.ofCode (12#4).toNat = some .z64 ∧ roundOk 0 = true ∧ roundOk 4 = true ∧
      lab.vector (slotV .v0) 0 .f32 (.v 1) = .ok 0 ∧ lab.vector (slotV .v0) 0 .z64 (.v 1) = .ok 0 ∧ isOk (lab.rndCtx (slotV .v0)) = true := by
  and_intros <;> first | decide +kernel | exact ok (by decide +kernel)

/-- The greatest finite code and infinity. -/
theorem witness_FormatsReencodeTheirCodes :
    0x7F7F < 2 ^ Ty.bf16.width ∧ decodeNum .bf16 0x7F7F ≠ .nan ∧ 0x7F80 < 2 ^ Ty.bf16.width ∧ decodeNum .bf16 0x7F80 ≠ .nan := by decide +kernel

/-- The last 256 bytes of object 2; the last run of the own bank; the first of a peer's; and a run of 16-bit elements. -/
theorem witness_VectorMemoryAccessesComplete :
    let s := inCore (fun k => { k with full := [2046, 2047] }) (setS 8 (2 ^ 25 + 261888) (setS 9 (2 ^ 22) (setS 10 3840 lab8)))
    (Src.a 2).capOk = true ∧ (Src.s 10).scalarOk = true ∧ s.dataV (slotV .v0) 2 31 = .ok 0 ∧ s.cap (slotV .v0) 0 (.a 2) = .ok (capOf 2 4096) ∧
      s.scalar (slotV .v0) 1 (.s 10) = .ok 3840 ∧ isOk (s.load (slotV .v0) (.a 2) (.s 10) 256 2 false) = true ∧
      isOk (s.load (slotV .v0) (.a 2) (.s 10) 256 2 true) = true ∧ s.capAccess (slotV .v0) (capOf 2 4096) 3840 256 2 rSt = .ok 3840 ∧
      modeOk 0x00 = true ∧ s.scalar (slotV .v0) 0 (.s 8) = .ok (2 ^ 25 + 261888) ∧ isOk (s.rndMode (slotV .v0) 0x00) = true ∧
      s.vecAddr (slotV .v0) (2 ^ 25 + 261888) 64 = .ok (⟨0, 261888⟩, 0, 256) ∧ s.place = 0 ∧ compOffsets 0 s.spBank 261888 256 = [] ∧
      s.start.core.linesFull (linesOf 261888 256 ++ linesAt []) = true ∧ s.start.core.spBad 261888 256 = false ∧
      s.scalar (slotV .v0) 0 (.s 9) = .ok (2 ^ 22) ∧ s.vecAddr (slotV .v0) (2 ^ 22) 64 = .ok (⟨1, 0⟩, 0, 256) ∧
      bfFmt 2 ≠ 0 ∧ isOk (.ok (encodeRun 2 ((List.range 128).map fun i => decodeNum .bf16 (lane 16 (1 : VecReg) i)) (fun _ => .rne) false false) :
        Except Unit (List Byte × List Byte)) = true := by
  and_intros <;> first | decide +kernel | exact ok (by decide +kernel)

/-- The largest window of each operation, the halves of a map, and both legal selectors of rcwr. -/
theorem witness_RowControlOperationsComplete :
    (Src.v 1).vectorOk = true ∧ (Src.s 8).scalarOk = true ∧
      ([winW 0 128 3 255 0, winW 64 64 0 0 0, winW 128 0 3 0 2, winW 0 128 0 0 2, winW 0 128 0 0 3, winW 0 0 0 0 1, winW 0 128 0 0 0].all fun y =>
        okIs ((setS 8 y lab).scalar (slotS .s0) 1 (.s 8)) y && decide (fld y 33 31 = 0 ∧ fld y 0 10 + fld y 10 9 ≤ lab.rowCount ∧
          fld y 10 9 ≤ 256)) = true ∧
      lab.vector (slotV .v0) 0 .bf16 (.v 1) = .ok 0 ∧ lab.vector (slotV .v0) 0 .z32 (.v 1) = .ok 0 ∧ fld (0 : VecReg) 52 12 = 0 := by
  and_intros <;> first | decide +kernel | exact ok (by decide +kernel)

/-- A window of which two rows are packed, one of them to rest; a full map of one row; an exited row. -/
theorem witness_LanePackerOperationsComplete :
    let h := shapeW 0 16 2048 0 1 131072 0
    let s := inRows [(0, 0x8000), (2, 0x8003), (3, 0x8002)] [] (setSh 4 h (setS 8 (winW 0 128 3 0 0) lab))
    let w : RowWin := ⟨0, 128, 3, 0, 0, 0⟩
    let m : FMap := ⟨0, 128, 1, true, false, [2], none, false⟩
    let f := inCore (fun k => { k with maps := k.maps.set 3 m }) s
    (Src.sh 4).shapeOk = true ∧ (Src.s 8).scalarOk = true ∧ (tfind s.launchId.toNat s.now.mod.launches).isSome ∧ s.now.ctx.engine.length < 16 ∧
      s.scalar (slotV .v0) 1 (.s 8) = .ok (winW 0 128 3 0 0) ∧ s.packShape (slotV .v0) 0 (.sh 4) = .ok h ∧
      s.mapEmpty (Fin.ofNat 4 (fld (winW 0 128 3 0 0) 19 2)) = true ∧ s.rowWin (slotV .v0) (winW 0 128 3 0 0) 256 [0] = .ok w ∧
      [0, 2] = s.cluster.rowsOf w (fun k => k = 3 || (true && k = 0)) ∧ [2] = s.cluster.rowsOf w (fun k => k = 3 || (false && k = 0)) ∧
      s.packChecks (slotV .v0) (packSlices h w.row0 [0, 2]) [shBase h, (shAux0 h).toNat] = .ok () ∧
      s.packChecks (slotV .v0) (packSlices h w.row0 [2]) [shBase h, (shAux0 h).toNat] = .ok () ∧
      m = f.start.core.maps[(Fin.ofNat 4 (fld (winW 0 128 3 0 0) 19 2) : Fin 4)] ∧ m.full = true ∧
      f.rowWin (slotV .v0) (winW 0 128 3 0 0) 256 [0] = .ok w ∧ f.scalar (slotV .v0) 1 (.s 8) = .ok (winW 0 128 3 0 0) ∧
      f.packShape (slotV .v0) 0 (.sh 4) = .ok h ∧
      f.packChecks (slotV .v0) (packSlices h m.row0 (m.entries.take m.count)) [shBase h, (shAux0 h).toNat] = .ok () ∧
      fld (winW 0 128 3 0 0) 33 31 = 0 ∧ fld (winW 0 128 3 0 0) 31 2 = 0 ∧
      f.packChecks (slotV .v0) ((packSlices h m.row0 (m.entries.take m.count)).filterMap fun x => x.src.map fun a => (⟨a, some x.dst, x.k, x.k⟩ : Slice))
        [shBase h, (shAux0 h).toNat] = .ok () ∧
      [3] = s.cluster.rowsOf w (fun k => k = 2) ∧
      s.packChecks (slotV .v0) ([3].map fun r => ⟨(shAux0 h).toNat + 128 * shExt h 0 * (r - w.row0),
        some (sliceAddr (shBase h) (shStr h 0 * ((r : Int) - w.row0))), shExt h 0, shExt h 0⟩) [shBase h, (shAux0 h).toNat] = .ok () := by
  and_intros <;> first | decide +kernel | exact ok (by decide +kernel)

/-- An exited row that is registered, one at the last block, an entry that is selected, and one that is placed in a full map's table. -/
theorem witness_FillEngineOperationsComplete :
    let h := shapeW 0 16 2048 0 1 (2 ^ 32 + 8192) 0
    let s := inRows [(5, 0x4000)] [] (setSh 4 h (setS 8 (winW 0 128 3 0 0) lab))
    let w : RowWin := ⟨0, 128, 3, 0, 0, 0⟩
    let e : FillEntry := { row := 5, addr := 4096, lines := 1, table := 8192, last := 255, pos := 0, next := 0, placed := none, deferred := false, serial := 0 }
    let m : FMap := ⟨0, 128, 1, true, false, [2], none, false⟩
    let f := inCore (fun k => { k with maps := k.maps.set 3 m }) (inRows [] [(0, e)] s)
    let m2 : FMap := { m with fill := some [0], selected := true }
    let g := inCore (fun k => { k with maps := k.maps.set 3 m2 }) (inRows [] [(0, { e with placed := some 3 })] (setSh 4 (shapeW 0 1 128 0 1 16384 0) s))
    let hw := shapeW 65536 0 0 0 1 256 128
    let v := setSh 4 hw g
    (Src.imm 0).scalarOk = true ∧ (tfind s.launchId.toNat s.now.mod.launches).isSome ∧ s.scalar 5 1 (.s 8) = .ok (winW 0 128 3 0 0) ∧
      s.rowWin 5 (winW 0 128 3 0 0) 256 [0] = .ok w ∧ (Src.sh 4).shapeOk = true ∧ s.shape 5 0 (.sh 4) = .ok h ∧
      [5] = (if w.block = fld (shAux0 h) 32 8 then [] else ((upTo w.n).map (w.row0 + ·)).filter fun r =>
        !rowLive (s.cluster.row r) && rowGap (s.cluster.row r) && rowBlock (s.cluster.row r) = w.block && !s.cluster.fills.any fun e => e.2.row = r) ∧
      shBase h % 128 = 0 ∧ s.cluster.fills.length + 1 ≤ s.fillShare ∧
      (setSh 4 (shapeW 1 16 2048 0 1 8192 0) s).shape 5 0 (.sh 4) = .ok (shapeW 1 16 2048 0 1 8192 0) ∧ shBase (shapeW 1 16 2048 0 1 8192 0) % 128 ≠ 0 ∧ (0 : Nat) = fld (shAux0 (shapeW 0 16 2048 0 1 8192 0)) 32 8 ∧
      f.start.core.maps[(3 : Fin 4)].full = true ∧ f.start.core.maps[(3 : Fin 4)].selected = false ∧
      [0] = (fillSelect ((f.cluster.fills.map (·.2)).filter fun e => e.next = w.block && e.placed.isNone) 1 false).map (·.serial) ∧
      g.now.ctx.engine.length < 16 ∧ g.fillTable 3 = .ok (m2, [{ e with placed := some 3 }]) ∧ g.packShape 5 0 (.sh 4) = .ok (shapeW 0 1 128 0 1 16384 0) ∧
      e.lines ≤ shExt (shapeW 0 1 128 0 1 16384 0) 0 ∧
      g.packChecks 5 [⟨16384 + 128, some 4096, 1, 1⟩] [16384] = .ok () ∧
      v.shape 5 0 (.sh 4) = .ok hw ∧ shapeOk hw = true ∧ shSpace hw = 1 ∧ fld (shAux0 hw) 32 32 = 0 ∧ fld (shAux1 hw) 45 19 = 0 ∧
      fld (shAux0 hw) 0 32 % 128 = 0 ∧ sgn 32 (fld (shAux1 hw) 0 32) % 128 = 0 ∧ v.spOk (2 ^ 25 + 8192) 8 = true ∧
      v.spOk (sliceAddr (shapeAddr hw) 256) 128 = true ∧ v.spOk (sliceAddr (sliceAddr (shapeAddr hw) 256) 128) 128 = true ∧
      sliceAddr (shapeAddr hw) 256 % 128 = 0 ∧ sliceAddr (sliceAddr (shapeAddr hw) 256) 128 % 128 = 0 ∧ v.rcd.gSp ≠ 0 := by
  and_intros <;> first | decide +kernel | exact ok (by decide +kernel)

/-- A shape of one vector place at each of four dimensions. -/
def oneW (base space aux0 aux1 : Nat) : Shape := shapeW base 1 0 0 space aux0 aux1 ||| BitVec.ofNat 512 (2 ^ 80 + 2 ^ 96 + 2 ^ 112)

/-- A scratchpad of full lines in one bank format, with the shape of B in sh5 and that of A in sh6. -/
def mmaLab (f : W32) (form : Nat) : State :=
  inCore (fun k => { k with bfmt := Vector.replicate 32 f, full := upTo 128 })
    (setSh 5 (oneW 0 (if form = 2 then 0 else 1) 64 (if form = 2 then 32 else 0)) (setSh 6 (oneW 4096 1 64 0) lab8))

/-- What MmaIssues asks of a form: from a shape, and for all but F4X from two registers, with one step and with two. -/
def mmaMeets (ty : MmaTy) (f : W32) (form : Nat) : Bool :=
  let s := mmaLab f form
  let hb := oneW 0 (if form = 2 then 0 else 1) 64 (if form = 2 then 32 else 0)
  let ha := oneW 4096 1 64 0
  let cap := if form = 2 then capOf 2 4096 else 0
  mmaOk 5 (.sh 6) (.imm 0) (ty = .f4x) && decide (s.start.core.meq = []) && s.accOk 15 && okIs (s.shape 4 0 (.sh 5)) hb &&
    okIs (s.shape 4 1 (.sh 6)) ha && shapeOk hb && bShapeOk hb && shapeOk ha && aShapeOk ha && !shapeEmpty hb && !shapeEmpty ha &&
    decide (shSpace ha = 1) && decide (shSpace hb = if form = 2 then 0 else 1) &&
    (if form = 2 then okIs (s.capReg 4 2 (fld (shAux1 hb) 4 4)) cap else decide (cap = 0)) &&
    (match s.mmaSteps ty form hb (some ha) cap (.sh 6) (.imm 0) 1 with
     | .ok st => okIs (s.lineWait 4 (s.mmaNear st)) ()
     | .error _ => false) &&
    (ty = .f4x || (mmaOk 5 (.v 0) (.v 1) false && match s.mmaSteps ty form hb none cap (.v 0) (.v 1) 2 with
     | .ok st => okIs (s.lineWait 4 (s.mmaNear st)) ()
     | .error _ => false))

/-- The same from a shape with an empty walk, and from registers with one. -/
def mmaMeetsEmpty (form : Nat) : Bool :=
  let hb := shapeW 0 1 0 0 (if form = 2 then 0 else 1) 64 (if form = 2 then 32 else 0)
  let s := setSh 5 hb (mmaLab 2 form)
  let ha := oneW 4096 1 64 0
  let cap := if form = 2 then capOf 2 4096 else 0
  shapeEmpty hb && shapeOk hb && bShapeOk hb && decide (shSpace hb = if form = 2 then 0 else 1) && okIs (s.shape 4 0 (.sh 5)) hb &&
    (if form = 2 then okIs (s.capReg 4 2 (fld (shAux1 hb) 4 4)) cap else decide (cap = 0)) &&
    isOk (s.mmaSteps .bf16 form hb (some ha) cap (.sh 6) (.imm 0) 1) && isOk (s.mmaSteps .bf16 form hb none cap (.v 0) (.v 1) 1)

/-- Every form and type, from a shape and from registers; an empty walk of each form. -/
theorem witness_MultiplyAccumulateOperationsComplete :
    (∀ form ∈ [0, 1, 2], mmaMeets .bf16 2 form = true ∧ mmaMeets .f16 3 form = true ∧ mmaMeets .e4m3 4 form = true ∧
      mmaMeets .e5m2 5 form = true ∧ mmaMeets .f4x 0x816 form = true) ∧
    (∀ form ∈ [0, 1, 2], mmaMeetsEmpty form = true) ∧ lab.iss.rep = 0 := by
  decide +kernel

/-- A value in s8 and one in s9. -/
def two (x y : W64) (s : State) : State := setS 8 x (setS 9 y s)
def twoOk (slot : Nat) (x y : W64) (s : State) : Bool :=
  okIs ((two x y s).scalar slot 0 (.s 8)) x && okIs ((two x y s).scalar slot 1 (.s 9)) y

/-- Every first row and mode of a readout, with the rounding context that the stochastic modes read. -/
theorem witness_AccumulatorOperationsComplete :
    let f := inCore (fun k => { k with bfmt := Vector.replicate 32 2 }) lab
    let h := shapeW 0 1 0 0 1 128 0
    (Src.s 8).scalarOk = true ∧ (Src.s 9).scalarOk = true ∧ twoOk 4 3 5 lab = true ∧ lab.start.core.meq = [] ∧ lab.accOk 0 = true ∧
      lab.accOk 7 = true ∧ lab.visFree 0 = .ok () ∧ lab.visFree 7 = .ok () ∧
      modeReadoutOk 0 = true ∧ modeReadoutOk 8 = true ∧ modeReadoutOk 0xA9 = true ∧ modeReadoutOk 0x52 = true ∧ (modeRound 0).toNat ≠ 4 ∧
      (modeRound 8).toNat = 4 ∧ okIs (lab.rndCtx 4) ⟨0, 0, 4, 0, 0⟩ = true ∧ 31 % (2048 / (64 * (modeTy 0).width)) = 0 ∧
      28 % (2048 / (64 * (modeTy 0x50).width)) = 0 ∧ modeStoreOk 0 = true ∧ modeStoreOk 8 = true ∧ (24 : Nat) ∈ [0, 8, 16, 24] ∧
      okIs ((setSh 4 h f).shape 4 1 (.sh 4)) h = true ∧ shapeOk h = true ∧ fld (shAux0 h) 32 32 = 0 ∧ shSpace h = 1 ∧ f.rcd.gSp ≠ 0 ∧
      (∀ k, k < 8 → bfFmt (f.formatAt (vecAddrOf h k)) ≠ 0 ∧ f.spOk (vecAddrOf h k) (64 * bfBits (f.formatAt (vecAddrOf h k)) / 8) = true ∧
        compOk (f.formatAt (vecAddrOf h k)) f.spBank (vecAddrOf h k % 2 ^ 22) (64 * bfBits (f.formatAt (vecAddrOf h k)) / 8) = true ∧
        vecAddrOf h k % min (64 * bfBits (f.formatAt (vecAddrOf h k)) / 8) 128 = 0) := by
  and_intros <;> first | decide +kernel | exact ok (by decide +kernel)

/-- A launch on core 512, an attention core; sequence 3 of die 8, with check 7 and 64 positions. -/
def attSeq : Seq := { Seq.reset with segs := [⟨0, 0⟩], live := true, check := 7 }
def attLab : State :=
  let k := entryCore 24 (wordRecord true) wordImage 0 []
  let m := (Mod.reset.onSlice 8 0 fun s => { s with pages := 64, slabs := [⟨0, 0, false, 1⟩], seqs := [(3, attSeq)] })
  let m := { m with
    entries := [(1, wordEntry 8), (2, ent2)], rdy := BitVec.allOnes 30
    launches := [(24, { Launch.none with record := wordRecord true, img := wordImage, die := 8, tier := 1, cores := [512] })]
    cores := [(512, { k with bfmt := Vector.replicate 32 2, running := some 0, ctxs := k.ctxs.map fun c => { c with st := .running } })] }
  let m : Mach := (⟨m, Core.idle, Ctx.idle, 0, 0⟩ : Mach).load 512 0
  { State.reset with now := m, start := m }
def attHandle : W64 := BitVec.ofNat 64 (3 + 8 * 2 ^ 16 + 7 * 2 ^ 20)

/-- Query rows, statistics and masks; an append at the last two positions of the sequence. -/
theorem witness_AttentionOperationsComplete :
    let h := shapeW 8192 1 0 0 1 128 0
    let ha := shapeW 8192 1 0 0 1 256 (128 + 3 * 2 ^ 32 + 2 * 2 ^ 40)
    (Src.s 8).scalarOk = true ∧ (Src.s 9).scalarOk = true ∧ twoOk 4 64 128 attLab = true ∧ twoOk 4 128 3 attLab = true ∧
      twoOk 4 62 attHandle attLab = true ∧ attLab.start.core.meq = [] ∧ attLab.accOk 7 = true ∧ attLab.att = true ∧
      okIs ((setSh 4 h attLab).shape 4 2 (.sh 4)) h = true ∧ shapeOk h = true ∧ aShapeOk h = true ∧ shSpace h = 1 ∧
      isOk (attLab.bf16Rows ((upTo 8).map (vecAddrOf h)) 128 (fun r => r / 2 ^ 22 = shBase h / 2 ^ 22)) = true ∧
      isOk (attLab.attRange 128 128) = true ∧ isOk (attLab.attRange 128 3072) = true ∧ isOk (attLab.attRange 64 64) = true ∧
      okIs ((setSh 4 ha attLab).shape 4 2 (.sh 4)) ha = true ∧ attLab.start.mod.kvLive attLab.part attHandle = some attSeq ∧
      2 = fld (shAux1 ha) 40 4 ∧ 62 + 2 ≤ attSeq.capacity ∧ shapeOk ha = true ∧ fld (shAux0 ha) 32 32 = 0 ∧ fld (shAux1 ha) 45 19 = 0 ∧
      fld (shAux0 ha) 0 32 % 128 = 0 ∧ sgn 32 (fld (shAux1 ha) 0 32) % 128 = 0 ∧ (shAux1 ha).getLsbD 44 = false ∧
      isOk (attLab.bf16Rows (((upTo 2).filter fun r => (shAux1 ha).getLsbD (32 + r)).flatMap fun r =>
        let key := sliceAddr (shapeAddr ha) ((r * fld (shAux0 ha) 0 32 : Nat) : Int)
        [key, sliceAddr key (sgn 32 (fld (shAux1 ha) 0 32))]) 128 (fun _ => true)) = true := by
  and_intros <;> first | decide +kernel | exact ok (by decide +kernel)
/-- The machine between steps, core 0's matrix engine with one operation of accumulator 2. -/
def meLab (b : MeBody) (step : Nat) : State :=
  let f := fun (m : Mach) => m.onCore 0 fun k => { k with meq := [⟨1, 0, false, 64, 4, 0, 2, b, step, none, 0, true, none, none, none, [], [], [], []⟩] }
  { idleLab with now := f idleLab.now, start := f idleLab.start }
def lensOk (a : Except MeGot (List (List Machine.Num))) (n : Nat) : Bool :=
  match a with
  | .ok xs => decide (xs.length = n)
  | .error _ => false

/-- One operation of each kind at the head of the engine; the first and the last of the two steps of an mma. -/
theorem witness_MatrixEngineStepsHaveTheirEffect :
    let one : MmaVec := .reg (BitVec.ofNat 512 0x3F80)
    let st := [(List.replicate 8 one, List.replicate 64 one), (List.replicate 8 one, List.replicate 64 one)]
    let o := fun (b : MeBody) (k : Nat) => (⟨1, 0, false, 64, 4, 0, 2, b, k, none, 0, true, none, none, none, [], [], [], []⟩ : MeOp)
    ((meLab (.azero true false 5) 0).now.coreAt 0).meq = [o (.azero true false 5) 0] ∧
      ((meLab (.azero false true 5) 0).now.coreAt 0).meq = [o (.azero false true 5) 0] ∧
      ((meLab .aswap 0).now.coreAt 0).meq = [o .aswap 0] ∧ ((meLab (.anorm true 38 5) 0).now.coreAt 0).meq = [o (.anorm true 38 5) 0] ∧
      ((meLab (.anorm false 0 0) 0).now.coreAt 0).meq = [o (.anorm false 0 0) 0] ∧
      ((meLab (.ardoutS true 24 0 [(0, 2)] 0 0) 0).now.coreAt 0).meq = [o (.ardoutS true 24 0 [(0, 2)] 0 0) 0] ∧
      ((meLab (.asetx true false 5 1) 0).now.coreAt 0).meq = [o (.asetx true false 5 1) 0] ∧
      ((meLab (.asetx false true 5 1) 0).now.coreAt 0).meq = [o (.asetx false true 5 1) 0] ∧
      ((meLab (.ardout 31 0 0 0) 0).now.coreAt 0).meq = [o (.ardout 31 0 0 0) 0] ∧ (modeTy 0).width ∣ 32 ∧
      31 + 2048 / (64 * (modeTy 0).width) ≤ 32 ∧ 0 < ((meLab (.ardout 31 0 0 0) 0).now.coreAt 0).ctxs.length ∧
      ((meLab (.ardout 31 0 0 0) 0).now.ctxAt 0 0).saved = none ∧ ¬ (meLab (.ardout 31 0 0 0) 0).now.holds 0 ∧
      (∀ k ∈ [0, 1], ∀ g ∈ [0, 3], let s := meLab (.mma .bf16 g 0 st 0) k
        (s.now.coreAt 0).meq = [o (.mma .bf16 g 0 st 0) k] ∧ st[k]? = some (List.replicate 8 one, List.replicate 64 one) ∧
        lensOk (s.now.mmaReadAll s.free 0 (o (.mma .bf16 g 0 st 0) k) .bf16 0 (List.replicate 8 one)) 8 = true ∧
        lensOk (s.now.mmaReadAll s.free 0 (o (.mma .bf16 g 0 st 0) k) .bf16 0 (List.replicate 64 one)) 64 = true) := by
  decide +kernel

/-- From one side to the other, both within bounds. -/
def moveOk (s : State) (x y : Shape) (rx ry : Option (List W32)) (f : Option FabricChecks) : Bool :=
  match s.side 5 2 x rx, s.side 5 3 y ry with
  | .ok a, .ok b => isOk (s.transfer a b f)
  | _, _ => false

/-- Scratchpad to memory; rows by a queue's list; fabric stores with a flag of another module's object, and tagged. -/
theorem witness_TransfersAndFabricStoresComplete :
    let x := oneW 4096 1 0 0
    let y := oneW 512 0 2 0
    let z := oneW 512 0 0x303 0
    let t := oneW 512 0 (0x23 + 2 ^ 22) 7
    let s := inCore (fun k => { k with queues := k.queues.set 3 [⟨0, false⟩] }) (setSh 3 x (setSh 4 y (setSh 5 z (setSh 6 t (inDomain lab)))))
    (Src.sh 3).shapeOk = true ∧ okIs (s.shape 5 0 (.sh 3)) x = true ∧ okIs (s.shape 5 1 (.sh 4)) y = true ∧ okIs (s.shape 5 1 (.sh 5)) z = true ∧
      okIs (s.shape 5 1 (.sh 6)) t = true ∧ s.now.ctx.engine.length < 16 ∧ moveOk s x y none none none = true ∧
      okIs (s.head 5 0xA3 3) 0 = true ∧ moveOk s x y (rowList x 0) none none = true ∧ moveOk s x y none (rowList y 0) none = true ∧
      tagOf z = none ∧ (tagOf t).isSome ∧ okIs (s.capReg 5 4 (fld (shAux0 z) 8 4)) (capOf 3 4096) = true ∧
      (∀ sp ∈ [false, true], moveOk s x z none none (some ⟨sp, some (capOf 3 4096, sgn 32 (fld (shAux0 z) 32 32))⟩) = true ∧
        moveOk s x t none none (some ⟨sp, none⟩) = true) := by
  decide +kernel

/-- A scratchpad whose bytes from off hold v. -/
def inSp (off n v : Nat) : State → State := inCore fun k =>
  { k with sp := (upTo n).map fun i => (off + i, BitVec.ofNat 8 (v / 2 ^ (8 * i))), full := upTo 128 }
def readIs (s : State) (a n v : Nat) : Bool :=
  match s.waitingRead 5 a n with
  | .ok (bytes, bad) => decide (leNat bytes = v) && !bad
  | .error _ => false

/-- A word at either end of object 3; acknowledgements outstanding, and none; a smallest and a largest map request; a draw of one
chunk; a tree of one node. -/
theorem witness_OtherEngineOperationsComplete :
    let p := 2 ^ 160 + 64 * 2 ^ 224 + 4096 * 2 ^ 96 + 8192 * 2 ^ 768
    let q := 2 ^ 32 + 2 ^ 64 + 4096 * 2 ^ 1152 + 8192 * 2 ^ 1184 + 12288 * 2 ^ 1216 + 64 * 2 ^ 1248 + 16384 * 2 ^ 1280
    let s := inDomain lab
    (Src.a 3).capOk = true ∧ (Src.s 8).scalarOk = true ∧ s.now.ctx.engine.length < 16 ∧ okIs (s.cap 5 0 (.a 3)) (capOf 3 4096) = true ∧
      okIs ((setS 8 4088 s).scalar 5 1 (.s 8)) 4088 = true ∧ okIs (s.dataS 5 2 10) 0 = true ∧
      checkCap (capOf 3 4096) (0 : W64).toInt 8 rAt = none ∧ checkCap (capOf 3 4096) (4088 : W64).toInt 8 rAt = none ∧
      lowBits 64 ((capOffset (capOf 3 4096) : Int) + (4088 : W64).toInt) % 8 = 0 ∧
      checkCap (capOf 2 4096) 0 1 rLd = none ∧ checkCap (capOf 2 (2 ^ 32 - 1)) 0 (2 ^ 32 - 1) rLd = none ∧ okIs ((setA 2 (capOf 2 (2 ^ 32 - 1)) s).cap 5 0 (.a 2)) (capOf 2 (2 ^ 32 - 1)) = true ∧
      twoOk 5 (BitVec.ofNat 64 (1 * 16)) 1024 (inSp 1024 128 p lab) = true ∧ fld (BitVec.ofNat 64 16 : W64) 14 50 = 0 ∧ smplN (BitVec.ofNat 64 16) = 1 ∧
      readIs (two (BitVec.ofNat 64 16) 1024 (inSp 1024 128 p lab)) 1024 128 p = true ∧ smplOk p = true ∧ lab.accOk 0 = true ∧ lab.rcd.gSp ≠ 0 ∧
      ((smplCounts p 1).all fun z => lab.spOk z 128) = true ∧ (smplCounts p 1) ≠ [] ∧ lab.spOk (bitsAt p 768 32) 512 = true ∧
      readIs (two 1024 0 (inSp 1024 256 q lab)) 1024 256 q = true ∧ maskOk q = true ∧ bitsAt q 1337 711 = 0 ∧
      (∀ k, k < bitsAt q 32 16 → lab.spOk (bitsAt q 1152 32 + 512 * k) 512 = true ∧ lab.spOk (bitsAt q 1184 32 + 512 * k) 512 = true) ∧
      (∀ i, i < acceptTable q / 128 → lab.spOk (bitsAt q 1216 32 + 128 * i) 128 = true) ∧ lab.spOk (bitsAt q 1280 32) 128 = true ∧
      (∀ f ∈ [1152, 1184, 1216, 1280], bitsAt q f 32 % 128 = 0) := by
  decide +kernel

/-- An open join of this module, number 3 with check 9, of two members of weight 1, at generation 2. -/
def openJoin : Join :=
  { state := .collecting, part := 0, target := capOf 2 4096, klog := 0, len := 128, fmt := 1, rule := 0, nextRule := 0, scope := .mod
    members := [Member.fresh, Member.fresh], weights := [1, 1], quorum := 2, gen := 2, late := 0, kills := 0
    releases := [⟨1, 2, 2⟩, ⟨0, 2, 2⟩], inbox := [], met := false, releasing := [], asks := [] }
/-- It with member 0 entered, with member 0 arrived, and with its quorum met. -/
def enteredJoin : Join := { openJoin with members := [{ Member.fresh with entered := true }, Member.fresh] }
def arrivedJoin : Join := { openJoin with members := [{ Member.fresh with entered := true, arrived := true, now := true, staging := [(0, 7)] }, Member.fresh] }
def metJoin : Join := { arrivedJoin with quorum := 1, met := true }
/-- A legal descriptor of two members of weight 1 with 128 bytes in object 2; die 7 of partition 0. -/
def descriptor : VecReg := BitVec.ofNat 2048 ((capOf 2 4096).toNat + 128 * 2 ^ 256 + 2 ^ 288 + 3 * 2 ^ 304 + 7 * 2 ^ 312 + 2 * 2 ^ 320 + 2 * 2 ^ 352 +
  2 ^ 512 + 2 ^ 528)
def joinLab (j : Join) : State := inMod (fun m => { m with joins := [(3, ⟨9, some j, none⟩)] }) lab
def joinHandle : W64 := BitVec.ofNat 64 (3 + 9 * 2 ^ 24)

/-- A member word with high bits, of a member that is not there, of one that has arrived; of another generation, of this one when its quorum
is met, an entry, and arrivals short of the quorum and at it; the descriptor, at the lowest number and the highest; a released
generation, one not released and a join that is not there; a new rule, and each way of closing. -/
theorem witness_JoinOperationsComplete :
    let late : W64 := BitVec.ofNat 64 (1 * 2 ^ 6)
    let entry : W64 := BitVec.ofNat 64 (1 + 2 * 2 ^ 6 + 2 ^ 16)
    let come : W64 := BitVec.ofNat 64 (1 + 2 * 2 ^ 6)
    let old : W64 := BitVec.ofNat 64 (2 * 2 ^ 6)
    let d7 := inMod (fun m => m.setDie 7 fun k => { k with dpart := 8 }) (inSp 1024 256 descriptor.toNat lab)
    let last := inMod (fun m => { m with joins := (upTo 255).map fun i => (7 * 256 + i, ⟨0, some openJoin, none⟩) }) d7
    (Src.s 8).scalarOk = true ∧ (Src.s 9).scalarOk = true ∧ ([late, entry, come, 0, 1, 2, 3].all fun y => twoOk 5 joinHandle y (joinLab openJoin)) = true ∧
      Published (joinLab openJoin) ∧ (joinLab openJoin).now.mod.joinRemote joinHandle = false ∧
      ([openJoin, enteredJoin, arrivedJoin, metJoin].all fun j => decide ((joinLab j).now.mod.findJoin joinHandle (some (joinLab j).now.selfPart) = some j ∧
        (joinLab j).start.mod.joinOf joinHandle (some (joinLab j).part) = some j)) = true ∧ (joinLab openJoin).start.mod.joinRemote joinHandle = false ∧
      fld (BitVec.ofNat 64 (2 ^ 17) : W64) 17 47 ≠ 0 ∧ openJoin.members.length ≤ memberIndex 2 ∧ (arrivedJoin.member (memberIndex old)).arrived = true ∧
      ([late, entry, come].all fun y => decide (memberIndex y < 2) && decide (fld y 17 47 = 0) && !(openJoin.member (memberIndex y)).arrived) = true ∧
      memberGen late ≠ openJoin.gen % 1024 ∧ (metJoin.member (memberIndex come)).arrived = false ∧ metJoin.met = true ∧
      memberGen entry = openJoin.gen % 1024 ∧ memberEnter entry = true ∧ memberGen come = openJoin.gen % 1024 ∧
      memberEnter come = false ∧ openJoin.arrivedWeight + openJoin.weights.getD (memberIndex come) 0 < openJoin.quorum ∧
      ¬(arrivedJoin.arrivedWeight + arrivedJoin.weights.getD (memberIndex come) 0 < arrivedJoin.quorum) ∧ arrivedJoin.met = false ∧
      openJoin.weights.length = openJoin.members.length ∧ isOk ((two 1024 0 d7).waitingBytes 5 1024 256) = true ∧
      readIs (two 1024 0 d7) 1024 256 descriptor.toNat = true ∧ descriptorOk descriptor = true ∧
      d7.now.mod.imageOk (descriptor.setWidth 128) (fld descriptor 256 32) d7.part d7.sv = true ∧ capLength (descriptor.extractLsb' 128 128) = 0 ∧
      2 * fld descriptor 320 8 * fld descriptor 256 32 ≤ 2 ^ 20 ∧ (d7.now.mod.joinSlot (7 * 256 + 0)).join = none ∧
      (last.now.mod.joinSlot (7 * 256 + 255)).join = none ∧ ((upTo 255).all fun k => (last.now.mod.joinSlot (7 * 256 + k)).join.isSome) = true ∧
      last.now.mod.reserved 7 + 2 * fld descriptor 320 8 * fld descriptor 256 32 ≤ cacheBytes ∧ last.now.mod.inPart 7 last.part = true ∧
      openJoin.released (fld (1 : W64) 0 32) = true ∧ openJoin.released (fld (0 : W64) 0 32) = true ∧ openJoin.released (fld (2 : W64) 0 32) = false ∧
      lab.start.mod.joinOf joinHandle (some lab.part) = none ∧ lab.start.mod.joinRemote joinHandle = false ∧ lab.start.ctx.joinWait = none ∧
      openJoin.state ≠ .closing ∧ fld (2 : W64) 2 62 = 0 ∧ fld (2 : W64) 0 2 < 3 ∧ ¬(fld (1 : W64) 0 2 = 1 ∧ 9 ≤ openJoin.fmt) ∧ fld (3 : W64) 0 2 = 3 ∧
      openJoin.anyEntered = false ∧ openJoin.met = false ∧ openJoin.releasing = [] ∧ enteredJoin.anyEntered = true ∧
      (joinLab { openJoin with releasing := [⟨⟨1, 2, 2⟩, 0, [], [], 1⟩] }).now.mod.findJoin joinHandle (some 0) =
        some { openJoin with releasing := [⟨⟨1, 2, 2⟩, 0, [], [], 1⟩] } ∧
      metJoin.inbox = [] ∧ openJoin.inbox = [] := by
  unfold Published
  decide +kernel

/-- A live sequence of partition 0 on die 8 with length 5, and free pages for a slab of the smallest size; that sequence with a change. -/
def liveSeq : Seq := { attSeq with length := 5, version := 9 }
def kvWith (pages : Nat) (e : Seq) : State := inMod (fun m => m.onSlice 8 0 fun s =>
  { s with pages := pages, slabs := [⟨0, 0, false, 1⟩], seqs := [(3, e)] }) lab
def kvLab : State := kvWith 64 liveSeq
/-- A slice without a free entry. -/
def kvFull : State := inMod (fun m => m.onSlice 8 0 fun s =>
  { s with pages := 64, slabs := [⟨0, 0, false, 1⟩], seqs := (List.range 65536).map fun i => (i, liveSeq) }) lab

/-- A slab of the smallest size and of the largest, too few pages, no free entry; a tail doubled, a move under way, a segment too large, a
chain that is full; a fork and a cut at the length, at 0 and past the length, a cut that ends a move. -/
theorem witness_KeyValueOperationsComplete :
    let slice := fun (s : State) => ((s.now.kvReclaim 8 s.part).mod.kvSlice 8 s.part)
    let moving : Seq := { liveSeq with moving := true, segs := [⟨0, 0⟩, ⟨1, 0⟩], fold := 1, fnew := 2, fseg := 1, length := 65 }
    let chain : Seq := { liveSeq with segs := List.replicate 8 ⟨0, 0⟩ }
    let large : Seq := { liveSeq with segs := [⟨0, 15⟩] }
    (Src.s 8).scalarOk = true ∧ twoOk 5 0 8 kvLab = true ∧ ([0, 1, 5, 6, 16, 17, 64, 65].all fun y => twoOk 5 attHandle y kvLab) = true ∧
      fld (0 : W64) 5 59 = 0 ∧ fld (31 : W64) 5 59 = 0 ∧ isOk ((slice kvLab).take 0 false) = true ∧ (slice kvLab).freeIndex = some 0 ∧
      okIs (((slice (kvWith 1 liveSeq)).take 0 false).map (·.1)) 0 = false ∧ isOk ((slice (kvWith 2000000 liveSeq)).take 15 true) = true ∧
      LiveHere kvLab attHandle liveSeq ∧ liveSeq.moving = false ∧ liveSeq.segs.length < 8 ∧ (16 : W64).toNat ≤ 16 ∧
      isOk ((slice kvLab).take 1 false) = true ∧ liveSeq.segs = [] ++ [⟨0, 0⟩] ∧ isOk ((slice (kvWith 1 liveSeq)).take 1 false) = false ∧
      LiveHere (kvWith 64 moving) attHandle moving ∧ moving.moving = true ∧ 16 < (17 : W64).toNat ∧
      LiveHere (kvWith 64 large) attHandle large ∧ large.segs = [] ++ [⟨0, 15⟩] ∧ LiveHere (kvWith 64 chain) attHandle chain ∧ 8 ≤ chain.segs.length ∧
      kvDie attHandle = 8 ∧ liveSeq.dh = false ∧ (5 : W64).toNat ≤ liveSeq.length ∧ liveSeq.length < (6 : W64).toNat ∧
      (kvLab.now.mod.kvSlice 8 kvLab.part).freeIndex = some 0 ∧ moving.fseg < (coverSegs (65 : W64).toNat moving.segs 0).length ∧
      (coverSegs (64 : W64).toNat moving.segs 0).length ≤ moving.fseg := by
  unfold LiveHere
  and_intros <;> first | decide +kernel | exact ok (by decide +kernel)

/-- A slice of which every entry is live has no free one. -/
theorem witness_KeyValueOperationsComplete_full : (kvFull.now.mod.kvSlice 8 0).freeIndex = none := by
  have h : ∀ (n k i : Nat) (e : Seq), k ≤ i → i < k + n → tfind i ((List.range' k n).map fun i => (i, e)) = some e := by
    intro n
    induction n with
    | zero => intro k i e h h'; omega
    | succ n ih =>
      intro k i e h h'
      rw [List.range'_succ, List.map_cons, tfind]
      split
      · rfl
      · exact ih (k + 1) i e (by omega) (by omega)
  have e : kvFull.now.mod.kvSlice 8 0 =
      { KvSlice.reset with pages := 64, slabs := [⟨0, 0, false, 1⟩], seqs := (List.range' 0 65536).map fun i => (i, liveSeq) } := by
    rw [← List.range_eq_range']; rfl
  rw [e, KvSlice.freeIndex, List.find?_eq_none]
  intro i hi
  rw [KvSlice.seq, tget, h 65536 0 i liveSeq (Nat.zero_le i) (by simpa [upTo] using hi)]
  decide

/-- The heap empty, at one short of full and full, and a request with high bits; selections that end by number, by emptiness and by budget, and
a refused one; both kinds of delivery, a closed queue and an empty one; and a push to a queue in each condition. -/
theorem witness_QueueAndHeapOperationsComplete :
    let e : HeapEntry := ⟨9, 1, 1, 0, 0, 0, 0⟩
    let hp := fun n => inMod (fun m => { m with heap := (List.range n).map fun i => { e with serial := i } }) (setS 8 5 lab)
    let q := fun (f : WorkQueue → WorkQueue) => setS 8 5 (inMod (fun m => m.setQueue 0 5 fun w => f { w with cap := 2, grant := 255 }) lab)
    let full := q fun w => { w with recs := [7, 8] }
    let held := q fun w => { w with recs := [7, 8], poppers := [⟨0, 0⟩], reserved := 1 }
    let none' := q id
    let shut := q fun w => { w with closed := true }
    let feed := q fun w => { w with mode := 2 }
    let off := q fun w => { w with mode := 3 }
    let gone := q fun w => { w with cap := 0 }
    let one := q fun w => { w with recs := [7] }
    (lab.now.mod.heapSelect 64 0 5 []).2.2.1 = 1 ∧ ((hp 2).now.mod.heapSelect 1 0 5 []).2.2.1 = 2 ∧ ((hp 2).now.mod.heapSelect 64 0 1 []).2.2.1 = 0 ∧
      (Src.s 8).scalarOk = true ∧ okIs ((hp 4095).scalar 5 0 (.s 8)) 5 = true ∧ okIs ((hp 4095).scalar 5 1 (.s 8)) 5 = true ∧ Published (hp 4095) ∧
      fld (5 : W64) 32 32 = 0 ∧ (hp 4095).now.mod.heap.length < 4096 ∧ 4096 ≤ (hp 4096).now.mod.heap.length ∧ fld (BitVec.ofNat 64 (2 ^ 32) : W64) 32 32 ≠ 0 ∧
      lab.rcd.gSp ≠ 0 ∧ lab.spOk 1024 1024 = true ∧ twoOk 5 1 1024 lab = true ∧ (1024 : W64).toNat % 128 = 0 ∧ fld (1 : W64) 32 32 = 0 ∧
      ([full, held, none', shut, feed, off, gone, one].all fun s => okIs (s.queueOf 5) (0, 5) && okIs (s.dataV 5 1 7) 0) = true ∧
      (full.now.mod.queue 0 5).mode = 0 ∧ full.start.ctx.user.flag statusHeld = false ∧
      (full.now.mod.queue 0 5).find full.now.cid full.now.xid = .record 0 ∧ (held.now.mod.queue 0 5).find held.now.cid held.now.xid = .record 0 ∧
      (shut.now.mod.queue 0 5).find 0 0 = .closed ∧ (none'.now.mod.queue 0 5).find none'.now.cid none'.now.xid = .empty ∧
      fld (BitVec.ofNat 2048 (2 ^ 49) : VecReg) 49 15 ≠ 0 ∧ fld (0 : VecReg) 49 15 = 0 ∧ (gone.now.mod.queue 0 5).cap = 0 ∧
      (off.now.mod.queue 0 5).mode = 3 ∧ (shut.now.mod.queue 0 5).closed = true ∧ (feed.now.mod.queue 0 5).mode = 2 ∧
      (full.now.mod.queue 0 5).cap ≤ (full.now.mod.queue 0 5).recs.length ∧ (one.now.mod.queue 0 5).cap ≠ 0 ∧
      (one.now.mod.queue 0 5).closed = false ∧ (one.now.mod.queue 0 5).recs.length < (one.now.mod.queue 0 5).cap ∧ Published one := by
  unfold Published
  and_intros <;> decide +kernel

/-- Supervisor code that holds the semaphore, beside a launch of its own partition in each state and one of another partition. -/
def svLab : State :=
  let l := { labLaunch with die := 0, cores := [9] }
  inSv 2 (inMod (fun m => { (m.setDie 0 fun d => { d with dpart := 8 }) with semaOwner := 3, rdy := BitVec.allOnes 30, launches := m.launches ++
    [(32, l), (48, { l with record := { labLaunch.record with part := 1 } }), (64, { l with source := .lctl, state := .parked }),
     (80, { l with source := .lctl, state := .saving }), (96, { l with source := .lctl, state := .saved })] }) lab)
def errIs (a : Except RegRefusal Mod) (e : RegRefusal) : Bool :=
  match a with
  | .ok _ => false
  | .error x => decide (x = e)

/-- An answer that a context off the issue stage waits for; the only take of a cycle; a request in the mailbox and none; every form of srd
and swr; a register of the user bank that is open and one that is not; launches in every state that lctl meets; the mailbox empty and full;
a ring that is disabled, one with room and one without. -/
theorem witness_SupervisorOperationsComplete :
    let m := svLab.now.mod
    let lp := fun (k : Nat) => ((tfind k m.launches).map fun l => (l.record.part, l.state, l.source, l.asked))
    let who := Claimant.supervisor svLab.die svLab.start.core.lcore
    let q : MailReq := ⟨4, 0, 0, 1, none, 3, 3⟩
    let ml := two 4 4 { idleLab with now := { idleLab.now with mod := { idleLab.now.mod with mail := [q] } } }
    let other := inMod (fun m => { m with semaOwner := 1 }) svLab
    let free := inMod (fun m => { m with semaOwner := 0 }) svLab
    let ring := inMod (fun m => { m with rings := [(0, { Ring.reset with en := true })] }) svLab
    let full := inMod (fun m => { m with pendRecs := List.replicate 4096 (0, 0), mail := List.replicate 64 q }) ring
    let w : Mach := { idleLab.now with mod := { idleLab.now.mod with takes := [⟨0, 0, 7⟩], cores := idleLab.now.mod.cores.map fun e => (e.1, { e.2 with
      ctxs := e.2.ctxs.map fun c => { c with windows := [⟨.s 5, none, some 7⟩] } }) } }
    let open' := inCtx (fun c => { c with savedWin := [⟨.s 1, some 9, none⟩] }) svLab
    let busy := inMod (fun m => { m with cores := m.cores ++ [(9, { entryCore 32 (wordRecord false) wordImage 0 [] with svHolder := some 0 })] }) svLab
    w.holds 0 = false ∧ ⟨.s 5, none, some 7⟩ ∈ (w.ctxAt 0 0).windows ∧ w.mod.takes = [⟨0, 0, 7⟩] ∧ w.mod.rdy.getLsbD 0 = true ∧
      (Src.s 8).scalarOk = true ∧ (Src.s 9).scalarOk = true ∧ (Src.v 1).vectorOk = true ∧ svLab.sv = true ∧ twoOk 6 4 4 ml = true ∧
      ml.now.core.launch = none ∧ ml.now.mod.mail.find? (fun r => BitVec.ofNat 64 r.num = 5) = none ∧
      ml.start.core.launch = none ∧ ml.now.mod.mail.find? (fun r => BitVec.ofNat 64 r.num = 4) = some q ∧
      ([0xF001, 0xF003, 2, 0xF00F, 32, 48, 64, 80, 96, 112].all fun x => twoOk 6 x 0 svLab) = true ∧ fld (0xF001 : W64) 0 16 ≠ 0xF003 ∧ fld (0xF003 : W64) 0 16 = 0xF003 ∧
      open'.start.ctx.userPoison = [] ∧ (∃ w ∈ open'.start.ctx.userWindows, w.reg = .s 1) ∧ imageReg 8 = some (.s 1) ∧
      (16 : W32) = svLab.launchId ∧ lp 16 = some (0, .running, .lctl, false) ∧ svLab.now.launchCores 32 = [] ∧
      (∃ e ∈ busy.now.launchCores 32, e.2.svHolder ≠ none) ∧ 64 ≤ full.now.mod.mail.length ∧ (full.now.mod.ring 0).en = true ∧
      (∃ p ∈ full.now.mod.pendRecs, p.1 = 0) ∧ 4096 ≤ full.now.mod.pendRecs.length ∧
      svLab.now.mod.rdy.getLsbD 0 = true ∧ svLab.now.mod.semaOwner = 3 ∧ free.now.mod.semaOwner = 0 ∧ other.now.mod.semaOwner = 1 ∧
      isOk (m.writeReg who svLab.part 2 1) = true ∧ errIs (m.writeReg who svLab.part 0xF00F 0) .access = true ∧
      errIs (m.writeReg who svLab.part 0x40 (BitVec.allOnes 64)) .value = true ∧ errIs (other.now.mod.writeReg who svLab.part 2 1) .semaphore = true ∧
      okIs (svLab.bankAt 0 8) (0, 8) = true ∧ (imageReg 8).isSome ∧ okIs (svLab.bankAt 0 0) (0, 0) = true ∧ svLab.start.ctx.userPoison = [] ∧
      (∀ w ∈ svLab.start.ctx.userWindows, w.reg ≠ .s 1) ∧ okIs (svLab.dataS 6 2 10) 0 = true ∧ svLab.now.holds svLab.now.cid = true ∧
      0 < svLab.now.core.ctxs.length ∧ svLab.now.xid < svLab.now.core.ctxs.length ∧ svLab.now.core.launch.isSome = true ∧
      tfind 112 m.launches = none ∧ svLab.part = 0 ∧ lp 48 = some (1, .running, .lctl, false) ∧ lp 32 = some (0, .running, .lctl, false) ∧
      (32 : W32) ≠ svLab.launchId ∧ lp 64 = some (0, .parked, .lctl, false) ∧ svLab.now.holds 9 = false ∧ lp 80 = some (0, .saving, .lctl, false) ∧
      lp 96 = some (0, .saved, .lctl, false) ∧ m.mail.length < 64 ∧ okIs (svLab.vector 6 1 .z64 (.v 1)) 0 = true ∧
      (m.ring 0).en = false ∧ (ring.now.mod.ring 0).en = true ∧ ring.now.mod.pendRecs.length < 4096 := by
  and_intros <;> decide +kernel
/-! The machine between steps, changed: by module, and by launch 16. -/
def idleWith (f : Mod → Mod) : State :=
  let m := { idleLab.now with mod := f (idleLab.now.mod.setDie 0 fun d => { d with dpart := 8 }) }
  { idleLab with now := m, start := m }
def withLaunch (f : Launch → Launch) (m : Mod) : Mod := { m with launches := [(16, f labLaunch)] }
def withCore (f : Core → Core) (m : Mod) : Mod := { m with cores := m.cores.map fun e => (e.1, f e.2) }
def withCtx (f : Ctx → Ctx) : Mod → Mod := withCore fun k => { k with ctxs := k.ctxs.map f }
def withCands (l : List Cand) (m : Mod) : Mod := m.setDie 0 fun d => { d with cands := l }

/-- A launch record of one core, and the header of its image: the numbers of Table 13-9 that are not 0. -/
def raw16 : Rec := BitVec.ofNat 512 (2 ^ 32 + 0x00102001 * 2 ^ 64 + (wordRecord false).image.toNat * 2 ^ 128)
def header16 : List Host.Cell :=
  [(0, 0x31), (1, 0x58), (2, 0x58), (3, 0x44), (4, 0x01), (5, 0x20), (6, 0x10), (13, 0x10), (21, 0x10), (24, 1)]
/-- Object 5 holds the page of die 0: every class may pre-empt, with no delay, and slot 0 has 2 MiB from page 1. -/
def page0 (m : Mod) : Mod :=
  { (m.setDie 0 fun d => { d with psave := capOf 5 (2 ^ 22) }) with
    entries := m.entries ++ [(5, BitVec.ofNat 256 (1 + 63 * 2 ^ 2 + 2 ^ 8 + 2 ^ 9 + 255 * 2 ^ 12 + 2 ^ 22 * 2 ^ 32 + 65536 * 2 ^ 128))]
    mem := [(65556, 15), (65793, 16), (65801, 2)] }

def candOf (f : LaunchRec → LaunchRec) : Cand := ⟨f labLaunch.record, wordImage, 0, 0, none, none⟩

/-- A record that is taken and one that is refused; a candidate with a free core, one past its wait, one that ages, one near its
deadline, one that displaces a launch of a lower class, and one that needs the core of a parked launch. -/
theorem witness_SchedulerEventsComplete_candidates :
    let q := fun (r : Rec) => idleWith fun m => { (m.setQueue 0 5 fun w => { w with mode := 1, cap := 4, grant := 1, recs := [r] }) with mem := header16 }
    let place := idleWith (withCands [candOf id])
    let late := idleWith fun m => { withCands [candOf id] m with tick := 6000000 }
    let old := idleWith fun m => { withCands [candOf fun r => { r with pclass := 3 }] m with tick := 60000000 }
    let near := idleWith (withCands [candOf fun r => { r with dl := true, deadline := 60000 }])
    let big := candOf fun r => { r with n := 64 }
    let pre := idleWith fun m => page0 (withCands [big] (withLaunch (fun l => { l with tier := 2 }) m))
    let sav := idleWith fun m => page0 (withCands [big] (withLaunch (fun l => { l with state := .parked, source := .scheduler }) m))
    idleLab.now.core.launch = none ∧ (q raw16).now.core.launch = none ∧ ((q raw16).now.mod.die 0).cands.length < 64 ∧
      (q raw16).now.mod.nextQueue 0 = some 5 ∧ (q 0).now.mod.nextQueue 0 = some 5 ∧
      (((q raw16).now.mod.dequeue 0 5).refusals raw16 (launchRecord raw16 0)).1 = [] ∧
      (((q 0).now.mod.dequeue 0 5).refusals 0 (launchRecord 0 0)).1 ≠ [] ∧
      place.now.mod.placeable 0 0 = some (candOf id, [1]) ∧ place.now.mod.ringWaits 0 = false ∧ [1].Nodup ∧
      (late.now.mod.ranked 0 0).find? (fun c => c.parked.isNone && decide (c.entered + late.now.mod.wlimit 0 ≤ late.now.mod.tick)) = some (candOf id) ∧
      late.now.mod.wlimit 0 ≠ 0 ∧ (old.now.mod.die 0).cands[0]? = some (candOf fun r => { r with pclass := 3 }) ∧ old.now.mod.aging 0 3 ≠ 0 ∧
      0 + old.now.mod.aging 0 3 ≤ old.now.mod.tick ∧ near.now.mod.urgent 0 (candOf fun r => { r with dl := true, deadline := 60000 }) = true ∧
      (near.now.mod.die 0).cands[0]? = some (candOf fun r => { r with dl := true, deadline := 60000 }) ∧
      pre.now.mod.ranked 0 0 = [big] ∧ 0 + pre.now.mod.ptime 0 ≤ pre.now.mod.tick ∧
      (pre.now.mod.preMask 0).testBit (if pre.now.mod.tierOf 0 big = 0 then 0 else 0) = true ∧ pre.now.mod.fit 0 big.record (pre.now.mod.pledged 0) false = none ∧
      (pre.now.mod.enough 0 big.record (pre.now.mod.pledged 0) [] (pre.now.mod.slotted 0 [] (pre.now.mod.victims 0 (pre.now.mod.tierOf 0 big)))) =
        some pre.now.mod.launches ∧ (∀ e ∈ pre.now.mod.launches, e.1 < 2 ^ 32 ∧ tfind e.1 pre.now.mod.launches = some e.2) ∧
      sav.now.mod.placeable 0 0 = none ∧ sav.now.mod.ranked 0 0 = [big] ∧ big.parked = none ∧
      sav.now.mod.enough 0 big.record [] [] (sav.now.mod.parkedVictims 0) = some [(16, sav.now.mod.launch 16)] ∧
      tfind 16 sav.now.mod.launches = some (sav.now.mod.launch 16) ∧ (sav.now.mod.judgePage 0).freeSlot 0 (sav.now.mod.launch 16).record [] = some 0 := by
  and_intros <;> decide +kernel

/-- Launch 16 in each state of a park, a save and a resumption; over its ceiling; its context at an aging hold. -/
theorem witness_SchedulerEventsComplete_launches :
    let st := fun (x : LaunchState) => idleWith (withLaunch fun l => { l with state := x })
    let busy := idleWith fun m => { withCore (fun k => { k with meq := ((meLab .aswap 0).now.coreAt 0).meq }) (withLaunch (fun l => { l with state := .draining }) m) with
      tick := 60000 }
    let past := idleWith fun m => { withLaunch (fun l => { l with state := .draining }) m with tick := 60001 }
    let waits := { candOf id with parked := some 16 }
    let parked := idleWith fun m => withCands [waits] (withLaunch (fun l => { l with state := .parked, source := .scheduler }) m)
    let saved := idleWith fun m => withCands [waits] (withLaunch (fun l => { l with state := .saved, cores := [] }) { m with cores := [] })
    let overC := idleWith fun m => { withCtx (fun c => { c with duty := some 64, overSince := some 0 }) (m.setDie 0 fun d => { d with ceil := 63 }) with
      tick := 6000000 }
    let ceased := idleWith (withLaunch fun l => { l with state := .parked, source := .overrun })
    let crowd := idleWith fun m => let m := page0 (withCands [{ waits with parked := some 32, record := { waits.record with n := 64 } }]
        (withLaunch (fun l => { l with state := .parked, source := .scheduler }) m))
      { m with launches := m.launches ++ [(32, { labLaunch with state := .saved, cores := [], record := { labLaunch.record with n := 64 } })] }
    let held := idleWith (withCore fun k => { k with ctxs := k.ctxs ++ [{ Ctx.idle with st := .ready, age := 48 }] })
    (tfind (16 : W32).toNat (st .draining).now.mod.launches).isSome ∧ ((st .draining).now.mod.launch 16).state = .draining ∧
      (st .draining).now.launchLanded 16 = true ∧ (st .draining).now.mod.tick ≤ 0 + (st .draining).now.mod.drainLimit 0 ∧
      (past.now.mod.launch 16).state = .draining ∧ (past.now.mod.launch 16).parkTick + past.now.mod.drainLimit 0 < past.now.mod.tick ∧
      (ceased.now.mod.launch 16).state = .parked ∧ (ceased.now.mod.launch 16).source = .overrun ∧ ceased.now.ceilingsRisen 16 = true ∧
      (crowd.now.mod.ranked 0 0).head?.map (·.parked) = some (some 32) ∧ (crowd.now.mod.launch 32).state = .saved ∧
      crowd.now.mod.fit 0 (crowd.now.mod.launch 32).record [] false = none ∧
      crowd.now.mod.enough 0 (crowd.now.mod.launch 32).record [] [] (crowd.now.mod.parkedVictims 0) = some [(16, crowd.now.mod.launch 16)] ∧
      (crowd.now.mod.judgePage 0).freeSlot 0 (crowd.now.mod.launch 16).record [] = some 0 ∧ (busy.now.mod.launch 16).state = .draining ∧ busy.now.launchLanded 16 = false ∧
      0 + busy.now.mod.drainLimit 0 ≤ busy.now.mod.tick ∧ ((st .saving).now.mod.launch 16).state = .saving ∧
      (((st .saving).now.launchCores 16).all fun e => e.2.ctxs.all fun c => decide (c.acks = []) && c.engine.all (·.parked)) = true ∧
      parked.now.mod.ranked 0 0 = [waits] ∧ (parked.now.mod.launch 16).state = .parked ∧ (parked.now.mod.launch 16).source = .scheduler ∧
      saved.now.mod.ranked 0 0 = [waits] ∧ (saved.now.mod.launch 16).state = .saved ∧ (saved.now.mod.fit 0 (saved.now.mod.launch 16).record [] false).isSome ∧
      ((st .restoring).now.mod.launch 16).state = .restoring ∧ overC.now.mod.overrunLimit 0 ≠ 0 ∧ (overC.now.mod.launch 16).state = .running ∧
      (overC.now.mod.launch 16).asked = false ∧ ((overC.now.launchCores 16).any fun e => e.1 / 64 = 0 && e.2.ctxs.any fun c => c.duty = some 64 && c.overSince = some 0) = true ∧
      (overC.now.mod.die 0).ceil < 64 ∧
      0 + overC.now.mod.overrunLimit 0 ≤ overC.now.mod.tick ∧ (held.now.coreAt 0).running = some 0 ∧ (held.now.coreAt 0).aged = true := by
  and_intros <;> decide +kernel
def opened (f : Ctx → Ctx) : State := idleWith (withCtx f)
def readyCore (f : Ctx → Ctx) : State := idleWith fun m =>
  withCore (fun k => { k with running := none }) (withCtx (fun c => f { c with st := .ready })
    (m.setDie 0 fun d => { d with svcode := capOf 4 16384 }))

/-- Delivery with and without a fault, and with the bank taken; a write from another core, and a read of an empty line and of a full one; ends; a kill; a wait; the pushes of the two records; a publish. -/
theorem witness_CoreEventsComplete :
    let f : PendFault := ⟨5, 1, 0, 0, 0, none, false⟩
    let due := readyCore fun c => { c with faults := [f] }
    let taken := idleWith fun m => withCore (fun k => { k with svHolder := some 1 }) due.now.mod
    let r : RemoteReq := ⟨1, 0, 1, 7, 256, .write [1, 2] [] true, none, 0, 0, false⟩
    let far := idleWith (withCore fun k => { k with reqs := [r] })
    let q : RemoteReq := ⟨1, 0, 1, 7, 256, .read true 8 none, some (.s 5), 0, 0, false⟩
    let asks := fun (full : List Nat) => idleWith fun m => let m := withCore (fun k => { k with reqs := [q], full := full }) m
      { m with cores := m.cores ++ [(1, { Core.idle with launch := some 16, ctxs := [{ Ctx.idle with windows := [⟨.s 5, none, some 1⟩] }] })] }
    let two := idleWith (withCore fun k => { k with ctxs := k.ctxs.map (fun c => { c with st := .ending }) ++ [{ Ctx.idle with st := .ready }] })
    let last := opened fun c => { c with st := .ending }
    let kill := opened fun c => { c with st := .blocked, kills := [⟨0, 0, 0, 0⟩] }
    let wait := opened fun c => { c with st := .blocked, waitTick := some 0 }
    let hq := idleWith fun m => withCtx (fun c => { c with st := .blocked, pending := [.handler 7] })
      (withLaunch (fun l => { l with record := { l.record with hq := some (0, 5) } }) (m.setQueue 0 5 fun w => { w with cap := 1 }))
    let re := idleWith fun m => withCtx (fun c => { c with st := .blocked, pending := [.replay 7 8], bank := { c.bank with status := BitVec.ofNat 64 (5 * 2 ^ 22) } })
      (m.setQueue 0 5 fun w => { w with cap := 1 })
    let pub := opened fun c => { c with st := .blocked, unpub := [(2 * 2 ^ 64 + 4095, 7)], pending := [.publish .mod .nothing] }
    (taken.now.load 0 0).bankTaken = true ∧ (taken.now.load 0 0).dueFault = some f ∧ (taken.now.load 0 0).enterable 5 = true ∧
      (∀ l ∈ [[], [2]], ((asks l).now.coreAt 0).reqs = [q] ∧ ((asks l).now.coreAt 0).launch.isSome) ∧ q.issued ≠ (asks []).now.mod.tick ∧ q.core ≠ 0 ∧
      linesOf 256 8 = [2] ∧ ((asks [2]).now.coreAt 0).spBad 256 8 = false ∧ ⟨.s 5, none, some 1⟩ ∈ ((asks [2]).now.ctxAt 1 0).windows ∧
      due.now.core.launch = none ∧ due.now.live 0 0 = true ∧ (due.now.coreAt 0).running = none ∧ (due.now.ctxAt 0 0).st = .ready ∧
      ((readyCore id).now.load 0 0).dueFault = none ∧ (due.now.load 0 0).dueFault = some f ∧ (due.now.ctxAt 0 0).saved = none ∧
      (due.now.load 0 0).enterable 5 = true ∧ (due.now.load 0 0).bankTaken = false ∧ 0 < (idleLab.now.coreAt 0).ctxs.length ∧
      idleLab.now.mod.entry (2 : BitVec 24).toNat = some ent2 ∧ entValid ent2 = true ∧ (far.now.coreAt 0).reqs = [r] ∧
      (far.now.coreAt 0).launch.isSome ∧ r.issued ≠ far.now.mod.tick ∧
      (two.now.ctxAt 0 0).st = .ending ∧ (two.now.ctxAt 0 1).st ≠ .ended ∧ (last.now.ctxAt 0 0).st = .ending ∧ (last.now.ctxAt 0 0).saved = none ∧
      (last.now.ctxAt 0 0).faults = [] ∧ (last.now.ctxAt 0 0).engine = [] ∧ (last.now.ctxAt 0 0).publishing = false ∧
      (last.now.mod.launch ((last.now.coreAt 0).launch.getD 0)).cores = [0] ∧ (last.now.coreAt 0).ctxs.length = 1 ∧
      kill.now.live 0 0 = true ∧ (kill.now.ctxAt 0 0).st = .blocked ∧ (kill.now.ctxAt 0 0).killable = true ∧ wait.now.live 0 0 = true ∧
      (wait.now.ctxAt 0 0).waitBank = false ∧ (wait.now.ctxAt 0 0).pending = [] ∧ (wait.now.ctxAt 0 0).waitTick = some 0 ∧ 0 ≤ wait.tick ∧
      (hq.now.ctxAt 0 0).pending = [.handler 7] ∧ (hq.now.mod.launch 16).record.hq = some (0, 5) ∧ (hq.now.mod.queue 0 5).open = true ∧
      (hq.now.mod.queue 0 5).full = false ∧ (hq.now.mod.queue 0 5).mode ≠ 2 ∧ (re.now.ctxAt 0 0).pending = [.replay 7 8] ∧
      fld (re.now.ctxAt 0 0).bank.handle 28 4 = 0 ∧ fld (re.now.ctxAt 0 0).bank.handle 22 6 = 5 ∧ (re.now.mod.queue 0 5).open = true ∧
      (pub.now.ctxAt 0 0).pending = [.publish .mod .nothing] ∧ (pub.now.ctxAt 0 0).out = [] ∧
      (pub.now.load 0 0).destOf (2 * 2 ^ 64 + 4095) = .phys (8192 + 4095) none ∧ (pub.now.load 0 0).remoteQuiet = true := by
  and_intros <;> decide +kernel
def engOpOf (body : EngBody) : EngOp := EngOp.new 4 1 0 none body [] [] [] none false 0 0 []

/-- Engine operations with nothing to do, with a zero line and a copied one to write, and with no right; writes for the end of a cycle; a mask load; tagged writes; a home request;
a map on its way, a block that every core has filled, a page move of one page and of two, and a slab without references. -/
theorem witness_EngineAndHomeEventsComplete :
    let eng := fun (o : EngOp) => opened fun c => { c with engine := [o] }
    let o0 := engOpOf (.lines 1 [])
    let o1 := engOpOf (.lines 1 [(3, none)])
    let o3 := engOpOf (.lines 1 [(3, some 1)])
    let from1 := idleWith fun m => withCore (fun k => { k with sp := (upTo 128).map fun i => (128 + i, 7), full := [1] }) (withCtx (fun c => { c with engine := [o3] }) m)
    let x : JoinWrite := ⟨0, 2, none, 64, 127, [7], false⟩
    let o2 := engOpOf (.ratom .add (capOf 9 8) 0 1)
    let mk : MeOp := ⟨1, 0, false, 64, 4, 0, 0, .mskld 1024 3, 0, none, 0, true, none, none, none, [], [], [], []⟩
    let block := 2 ^ 32 + 2 ^ 64
    let msk := idleWith (withCore fun k => { k with meq := [mk], sp := (upTo 64).map fun i => (1024 + i, BitVec.ofNat 8 (block / 2 ^ (8 * i))), full := [8] })
    let tag := fun (j : Join) => idleWith fun m => { m with joins := [(3, ⟨9, some j, none⟩)] }
    let come : W64 := BitVec.ofNat 64 (1 + 2 * 2 ^ 6)
    let coming := idleWith (withCore fun k => { k with maps := k.maps.set 3 { FMap.empty with coming := true } })
    let e : FillEntry := { row := 5, addr := 4096, lines := 1, table := 8192, last := 7, pos := 0, next := 6, placed := some 3, deferred := false, serial := 0 }
    let fill := idleWith (withLaunch fun l => { l with clusters := [(0, { Cluster.fresh with fills := [(0, e)], filled := [(0, 3, 6)] })] })
    let sq := fun (k mark : Nat) => { attSeq with segs := [⟨0, k⟩], moving := true, fold := 0, fnew := 8, fmark := mark, fseg := 0 }
    let mv := fun (k mark : Nat) => idleWith fun m => m.onSlice 8 0 fun s => { s with pages := 64, slabs := [⟨9, 0, false, 0⟩], seqs := [(3, sq k mark)] }
    ((eng o0).now.engineOp 0 0 4 = some o0 ∧ (eng o0).now.hazard 0 0 o0 = false) ∧ ((eng o1).now.engineOp 0 0 4 = some o1 ∧ (eng o1).now.hazard 0 0 o1 = false) ∧
      (eng o1).now.peerOf 0 (3 * 128 / 2 ^ 22) = 0 ∧ (from1.now.engineOp 0 0 4 = some o3 ∧ from1.now.hazard 0 0 o3 = false) ∧
      okIs (from1.now.engRead from1.free 0 o3 (1 * 128) 128) (List.replicate 128 7) = true ∧
      (x.member < openJoin.members.length ∧ x.gen = openJoin.gen % 1024 ∧ (openJoin.member x.member).arrived = false) ∧
      openJoin.members.length ≤ ({ x with member := 2 } : JoinWrite).member ∧ ({ x with gen := 1 } : JoinWrite).gen ≠ openJoin.gen % 1024 ∧
      ({ openJoin with inbox := [x] } : Join).inbox = [x] ∧ idleLab.now.mod.pubs = [] ∧ idleLab.now.mod.dom.lines = [] ∧ ((eng o2).now.engineOp 0 0 4 = some o2 ∧ (eng o2).now.hazard 0 0 o2 = false) ∧
      (eng o2).now.mod.engProtect (capOf 9 8) 0 8 rAt ((eng o2).now.partOf 0) o2.sv ≠ none ∧ (msk.now.coreAt 0).meq = [mk] ∧
      okIs (msk.now.attRead msk.free 0 (spKeyOf (msk.now.lplace 0) 1024) 64) block = true ∧
      (tag openJoin).now.mod.findJoin joinHandle none = some openJoin ∧ joinDie joinHandle = 0 ∧ (2 : BitVec 24).toNat = capObject openJoin.target ∧
      capOffset openJoin.target ≤ (127 : W64).toNat ∧ (127 : W64).toNat + 1 ≤ capOffset openJoin.target + openJoin.len ∧
      memberIndex come < openJoin.members.length ∧ memberGen come = openJoin.gen % 1024 ∧ (openJoin.member (memberIndex come)).arrived = false ∧
      openJoin.members.length ≤ memberIndex 63 ∧ memberGen (0 : W64) ≠ openJoin.gen % 1024 ∧ (8 : Nat) ∈ [1, 2, 4, 8] ∧ 4088 % 8 = 0 ∧
      HomeReq.rank ⟨.context 0 0, 0, 8, .add, 1, 0⟩ ≠ HomeReq.rank ⟨.context 0 1, 0, 8, .add, 1, 0⟩ ∧
      (vat FMap.empty (coming.now.coreAt 0).maps 3).coming = true ∧
      (let k := tget Cluster.fresh 0 (fill.now.mod.launch 16).clusters
       (k.fills.map Prod.fst).Nodup ∧ k.filled = [(0, 3, 6)] ∧ (fill.now.mod.launch 16).record.clusterMembers 0 = [0] ∧ tfind 0 k.fills = some e) ∧
      ((mv 0 0).now.mod.kvSlice 8 0 |>.seq 3).moving = true ∧ ((mv 0 0).now.mod.kvSlice 8 0 |>.seq 3).segs[0]? = some ⟨0, 0⟩ ∧
      ((mv 2 0).now.mod.kvSlice 8 0 |>.seq 3).segs[0]? = some ⟨0, 2⟩ ∧
      (∃ b ∈ ((mv 0 0).now.mod.kvSlice 8 0).slabs, b.base = 9 ∧ b.refs = 0) ∧ (mv 0 0).now.captured 8 0 9 = false := by
  and_intros <;> decide +kernel
/-! A packet from module 5 to this module, with its code, and the module once it has been accepted. -/
def inDom (m : Mod) : Mod :=
  { m with dom := { m.dom with state := .member, members := [0, 5], leader := 5, keys := [(0, ⟨1, 2, 3, 4⟩)] } }
def fromFive (op : BitVec 5) (vc : BitVec 2) (obj : BitVec 24) (off : BitVec 39) (bmask : BitVec 16) (payload : List (BitVec 128)) : Packet :=
  { src := 5, dst := 0, vc := vc, path := 0, seq := 0, epoch := 0, enc := false, res := false, op := op, len := BitVec.ofNat 9 payload.length
    bmask := bmask, ofl := false, obj := obj, off := off, fd := false, hac := 0, payload := payload }
def sealedIn (m : Mod) (p : Packet) : Packet := { p with hac := m.dom.hac p }
def landedIn (m : Mod) (p : Packet) : Mod :=
  { m with dom := m.dom.setWindow (((m.dom.window p.src p.vc p.epoch).lineAt p).accept p.seq.toNat m.tick) }
def canLand (m : Mod) (p : Packet) : Bool :=
  let w := m.dom.window p.src p.vc p.epoch
  packetOk p && (m.domainFault p.src).isNone && (tfind p.epoch.toNat m.dom.keys).isSome && decide (p.epoch = m.dom.epoch) &&
    decide (m.dom.rekey = .idle) && !(decide (p.seq.toNat < w.base) || (tfind p.seq.toNat w.seen).isSome || decide (w.base + 4095 < p.seq.toNat)) &&
    !w.overtaken p

theorem receive_sealed (m : Mod) (p : Packet) (h : canLand m p = true) : m.receive (sealedIn m p) = .accepted (landedIn m p) := by
  simp only [canLand, Bool.and_eq_true, decide_eq_true_eq, Bool.not_eq_true', Bool.or_eq_false_iff, decide_eq_false_iff_not] at h
  obtain ⟨⟨⟨⟨⟨⟨h1, h2⟩, h3⟩, h4⟩, h5⟩, ⟨h6, h7⟩, h8⟩, h9⟩ := h
  have hc : m.dom.checking = m.dom := by unfold Domain.checking; rw [h5]; cases m.dom.newKeys <;> rfl
  have ha : m.dom.authentic (sealedIn m p) = true := by
    unfold Domain.authentic; rw [hc]
    have : m.dom.hac (sealedIn m p) = m.dom.hac p := rfl
    simp only [this, Bool.and_eq_true]
    exact ⟨h3, by simp [sealedIn]⟩
  have h1' : packetOk (sealedIn m p) = true := h1
  have h2' : (m.domainFault (sealedIn m p).src).isSome = false := by
    show (m.domainFault p.src).isSome = false
    simpa using h2
  unfold Mod.receive
  rw [h1', h2', ha]
  have e : (sealedIn m p).epoch = m.dom.epoch := h4
  simp only [Bool.not_true, Bool.false_eq_true, if_false, e, ne_eq, not_true_eq_false, false_and]
  have w : m.dom.window (sealedIn m p).src (sealedIn m p).vc m.dom.epoch = m.dom.window p.src p.vc p.epoch := by rw [h4]; rfl
  have n : (sealedIn m p).seq = p.seq := rfl
  have o : (m.dom.window p.src p.vc p.epoch).overtaken (sealedIn m p) = false := h9
  rw [w, n, if_neg (by simp only [not_or]; exact ⟨not_false, h6, by simp [h7], h8⟩), o]
  rfl

/-- Packets that arrive for an operation on one of its channels. -/
def arrives (s : State) (op : BitVec 5) (vcs : List (BitVec 2)) (p : Packet) : Bool :=
  decide (p.dst = s.now.mod.addr) && decide (p.op = op) && vcs.contains p.vc && decide (p.payload.length = p.len.toNat) && canLand s.now.mod p
theorem all_arrive {s : State} {op : BitVec 5} {vcs : List (BitVec 2)} {l : List Packet} (h : l.all (arrives s op vcs) = true) :
    ∀ p ∈ l, Arrives s (sealedIn s.now.mod p) op vcs (landedIn s.now.mod p) := by
  intro p hp
  have := List.all_eq_true.1 h p hp
  simp only [arrives, Bool.and_eq_true, decide_eq_true_eq, List.contains_iff_mem] at this
  obtain ⟨⟨⟨⟨h1, h2⟩, h3⟩, h4⟩, h5⟩ := this
  exact ⟨h1, h2, h3, h4, receive_sealed _ _ h5⟩

/-- A member of the domain of modules 0 and 5, with an open join; and the bytes that a packet's blocks name. -/
def domLab (f : Mod → Mod) : State := idleWith fun m => f (inDom { m with addr := 0, joins := [(3, ⟨9, some openJoin, none⟩)] })
def bytesOk (m : Mod) (obj : BitVec 24) (offs : List Nat) (right : BitVec 6) (a0 : Nat) : Bool :=
  match m.targetBytes obj offs right with
  | .ok (e, as) => decide (as.head? = some a0) && decide as.Nodup && as.all fun a => !m.poisoned (entDp e) a
  | .error _ => false
def refusedIn (m : Mod) (obj : BitVec 24) (offs : List Nat) (right : BitVec 6) : Bool :=
  match m.targetBytes obj offs right with
  | .ok _ => false
  | .error _ => true
def flagIs (a : Except Nat (Entry × Nat)) (x : Nat) : Bool :=
  match a with
  | .ok (_, y) => decide (y = x)
  | .error _ => false

/-- Object 5 of domain-protected memory at 12,288, whose line has lost its key. -/
def lostLab : State := domLab fun m => { m with
  entries := m.entries ++ [(5, BitVec.ofNat 256 (1 + 63 * 2 ^ 2 + 2 ^ 8 + 2 ^ 10 + 255 * 2 ^ 12 + 4096 * 2 ^ 32 + 12288 * 2 ^ 128))]
  dom := { m.dom with lines := [(24, ⟨3, 5, 0, 0, none⟩)] } }
/-- A first block of a packet: serial 3, context 1, kind, element 2; and a home operation's word. -/
def first (kind : Nat) : BitVec 128 := BitVec.ofNat 128 (3 + 2 ^ 32 + kind * 2 ^ 48 + 2 * 2 ^ 64)
def homeWord (code n : Nat) : BitVec 128 := BitVec.ofNat 128 (code + n * 2 ^ 8)

/-- Stores of each kind, done and refused; a flag that lies awry, one with a home and one without. -/
theorem witness_PacketsActAtTheirReceiver_stores :
    let s := domLab id
    let plain := fun obj => fromFive opStore 0 obj 0 0xFFFF [7]
    let kind := fun obj k => { fromFive opStore 0 obj 0 0xFFFF [first k, 7] with fd := true }
    let flag := fun obj off => fromFive opStoreFlag 2 2 0 0 [first 0, BitVec.ofNat 128 (1 + 7 * 2 ^ 32 + obj * 2 ^ 64 + off * 2 ^ 88)]
    s.now.core.launch = none ∧
      (∀ p ∈ [plain 2, plain 9] ++ [0, 3, 5].flatMap fun k => [kind 2 k, kind 9 k], Arrives s (sealedIn s.now.mod p) opStore [0, 2] (landedIn s.now.mod p)) ∧
      bytesOk (landedIn s.now.mod (plain 2)) 2 ((packetBytes (plain 2) [7]).map (·.1)) rSt 8192 = true ∧
      refusedIn (landedIn s.now.mod (plain 9)) 9 ((packetBytes (plain 9) [7]).map (·.1)) rSt = true ∧
      ([0, 3, 5].all fun k => fld (first k) 48 4 = k) = true ∧ (landedIn s.now.mod (kind 2 0)).flags = [] ∧
      (∀ p ∈ [flag 2 0, flag 2 1, flag 9 0], Arrives s (sealedIn s.now.mod p) opStoreFlag [0, 2] (landedIn s.now.mod p)) ∧
      fld ((flag 2 1).payload.getD 1 0) 88 39 % 8 ≠ 0 ∧ fld ((flag 2 0).payload.getD 1 0) 88 39 % 8 = 0 ∧
      flagIs ((landedIn s.now.mod (flag 2 0)).flagHome (2, 0)) 8192 = true ∧ flagIs ((landedIn s.now.mod (flag 9 0)).flagHome (9, 0)) 0 = false := by
  and_intros <;> first | decide +kernel | exact all_arrive (by decide +kernel)

/-- Atomics with an answer and with a serial: done, with no such operation, of 3 bytes, not aligned, poisoned, without an object; loads
that give bytes, that ask for a right only, that are refused, and that meet poison and a line without its key. -/
theorem witness_PacketsActAtTheirReceiver_requests :
    let s := domLab id
    let bad := domLab fun m => { m with poison := [8192 / 128] }
    let atom := fun fd obj off mask y => { fromFive opAtomic 0 obj off mask (if fd then [first 0, y, 7] else [7, y]) with fd := fd }
    let load := fun obj (l : List (BitVec 128)) => fromFive opLoad 0 obj 255 0x8001 l
    (∀ p ∈ [false, true].flatMap fun fd => [atom fd 2 255 0xFF00 (homeWord 1 8), atom fd 2 255 0xFF00 (homeWord 99 8), atom fd 2 255 0xFF00 (homeWord 1 3),
        atom fd 2 255 0xFE00 (homeWord 1 8), atom fd 9 255 0xFF00 (homeWord 1 8)], Arrives s (sealedIn s.now.mod p) opAtomic [0, 2] (landedIn s.now.mod p)) ∧
      homeOfCode 1 = some .and ∧ homeOfCode 99 = none ∧ (upTo 16).find? (fun i => (0xFF00 : BitVec 16).getLsbD i) = some 8 ∧
      (upTo 16).find? (fun i => (0xFE00 : BitVec 16).getLsbD i) = some 9 ∧
      bytesOk (landedIn s.now.mod (atom false 2 255 0xFF00 (homeWord 1 8))) 2 ((upTo 8).map (16 * 255 + 8 + ·)) rAt (8192 + 4088) = true ∧
      refusedIn (landedIn s.now.mod (atom false 9 255 0xFF00 (homeWord 1 8))) 9 ((upTo 8).map (16 * 255 + 8 + ·)) rAt = true ∧
      (∀ p ∈ [atom false 2 0 0xFF (homeWord 1 8), atom true 2 0 0xFF (homeWord 1 8)], Arrives bad (sealedIn bad.now.mod p) opAtomic [0, 2] (landedIn bad.now.mod p)) ∧
      (landedIn bad.now.mod (atom false 2 0 0xFF (homeWord 1 8))).poisoned false 8192 = true ∧
      (∀ p ∈ [load 2 [], load 2 [BitVec.ofNat 128 rSt.toNat], load 9 []], Arrives s (sealedIn s.now.mod p) opLoad [0, 2] (landedIn s.now.mod p)) ∧
      bytesOk (landedIn s.now.mod (load 2 [])) 2 [4080, 4095] rLd (8192 + 4080) = true ∧ refusedIn (landedIn s.now.mod (load 9 [])) 9 [4080, 4095] rLd = true ∧
      (∀ p ∈ [fromFive opLoad 0 2 0 1 []], Arrives bad (sealedIn bad.now.mod p) opLoad [0, 2] (landedIn bad.now.mod p)) ∧
      (∀ p ∈ [fromFive opLoad 0 5 0 1 []], Arrives lostLab (sealedIn lostLab.now.mod p) opLoad [0, 2] (landedIn lostLab.now.mod p)) ∧
      (landedIn lostLab.now.mod (fromFive opLoad 0 5 0 1 [])).poisoned true 12288 = true ∧ 12288 < hostBase ∧
      (landedIn lostLab.now.mod (fromFive opLoad 0 5 0 1 [])).lineReadable 12288 = false := by
  and_intros <;> first | decide +kernel | exact all_arrive (by decide +kernel)

/-- Answers to a fetch and to a strong load: bytes, a right that is there, and a refusal; acknowledgements of a serial and of a published
byte that the cache has, done and refused. -/
theorem witness_PacketsActAtTheirReceiver_answers :
    let da := fromFive opData 1 2 0 0xFFFF [7]
    let yes := fromFive opData 1 2 0 0 [0]
    let none' := fromFive opData 1 2 0 2 []
    let ws := domLab (withCtx fun c => { c with pending := [.fetch (remoteKey 5 2 0)] })
    let y : Strong := ⟨.remote 5 2 8 3 false, 8, .ld, 0, 0, false, .mod, some 5, 1, false, 4, 64⟩
    let wr := domLab (withCtx fun c => { c with pending := [.remote 4 (remoteKey 5 2 0) y] })
    let ak := fromFive opAck 1 1 7 0 []
    let pb := fun l => fromFive opAck 1 0 7 0 l
    let key := cellKey 3 9
    let wp := domLab (withCtx fun c => { c with pending := [.acks [5]], out := [(key, 5)], unpub := [(key, 1)], rcache := [(remoteKey 5 7 9, 2)] })
    (∀ p ∈ [da, yes, none'], Arrives ws (sealedIn ws.now.mod p) opData [1] (landedIn ws.now.mod p)) ∧ .fetch (blockKey da) ∈ (ws.now.ctxAt 0 0).pending ∧
      (∀ p ∈ [da, none'], Arrives wr (sealedIn wr.now.mod p) opData [1] (landedIn wr.now.mod p)) ∧
      (wr.now.ctxAt 0 0).pending = [.remote 4 (blockKey da) y] ∧ (wr.now.ctxAt 0 0).savedPend = [] ∧
      (∀ p ∈ [ak], Arrives ws (sealedIn ws.now.mod p) opAck [1] (landedIn ws.now.mod p)) ∧ ak.obj.toNat = ackSerial ∧ 0 < (ws.now.coreAt 0).ctxs.length ∧
      (∀ p ∈ [pb [], pb [2]], Arrives wp (sealedIn wp.now.mod p) opAck [1] (landedIn wp.now.mod p)) ∧ (pb []).obj.toNat = ackPublish ∧
      (wp.now.ctxAt 0 0).pending = [.acks [5]] ∧ (wp.now.ctxAt 0 0).savedPend = [] ∧ (wp.now.ctxAt 0 0).acks = [] ∧
      (wp.now.ctxAt 0 0).out = [(key, 5)] ∧ serialModule 5 = (pb []).src ∧ (landedIn wp.now.mod (pb [])).entry (key / 2 ^ 64) = some ent3 ∧
      remoteKey 5 7 9 = remoteKey (pb []).src (entRid ent3) (key % 2 ^ 64) := by
  and_intros <;> first | decide +kernel | exact all_arrive (by decide +kernel)

/-- Tagged stores without bytes, without an object, to no join and to one; a join message of each kind, to a context that is there and
waits; a flag that waits for data and for an earlier store, one that is ready with a home and without; packets that are discarded. -/
theorem witness_PacketsActAtTheirReceiver :
    let s := domLab id
    let h3 : BitVec 128 := BitVec.ofNat 128 (8 * 2 ^ 48)
    let tag := fun obj l => fromFive opTagged 0 obj 0 0xFFFF ([first 0, 0, h3] ++ l)
    let come : W64 := BitVec.ofNat 64 (1 + 2 * 2 ^ 6)
    let who : BitVec 128 := BitVec.ofNat 128 (16 * 512 * 2 ^ 64)
    let join := fun msg (l : List (BitVec 128)) => fromFive opJoin 0 0 0 0 (joinPayload msg ++ l)
    let w : FlagWait := ⟨5, 0, 0, [], some ⟨0, false, (2, 16)⟩, none, false⟩
    let wf := fun x => domLab fun m => { m with flags := [x] }
    let asks := domLab (withCtx fun c => { c with pending := [.joinAsk 7 joinHandle 2] })
    (∀ p ∈ [tag 2 [], tag 9 [7], tag 2 [7]], Arrives s (sealedIn s.now.mod p) opTagged [0, 2] (landedIn s.now.mod p)) ∧
      refusedIn (landedIn s.now.mod (tag 9 [7])) 9 [15] rSt = true ∧
      ((landedIn s.now.mod (tag 2 [7])).stageWrite joinHandle come none (some (5, 0, 0)) 8 2 0 ((packetBytes (tag 2 [7]) [7]).map (·.2)) false).isSome ∧
      ((landedIn s.now.mod (tag 2 [7])).stageWrite 0 come none (some (5, 0, 0)) 8 2 0 ((packetBytes (tag 2 [7]) [7]).map (·.2)) false).isNone ∧
      (∀ p ∈ [join (.arrive joinHandle come) [0], join (.rule joinHandle 1) [0], join (.kill 8192 0 joinHandle 2) [0], join (.released joinHandle 2) [8192],
        join (.killed joinHandle 0) [], join (.wait joinHandle 2) [0], join (.told joinHandle 2) [who, 7]],
        Arrives asks (sealedIn asks.now.mod p) opJoin [0] (landedIn asks.now.mod p)) ∧
      (landedIn asks.now.mod (join (.kill 8192 0 joinHandle 2) [0])).launches = [(16, labLaunch)] ∧ OnMember asks.now.mod 8192 labLaunch 0 ∧
      (asks.now.ctxAt 0 0).st = .running ∧ (landedIn asks.now.mod (join (.wait joinHandle 2) [0])).joinOf joinHandle none = some openJoin ∧
      openJoin.released 2 = false ∧ fld who 64 44 = 8192 ∧ fld who 108 4 = 0 ∧ .joinAsk 7 joinHandle 2 ∈ (asks.now.ctxAt 0 0).pending ∧
      ([w, { w with info := some ⟨1, false, (2, 16)⟩ }, { w with info := some ⟨0, true, (2, 16)⟩ }, { w with info := some ⟨0, true, (9, 16)⟩, num := some 0 }].all fun x =>
        decide ((wf x).now.mod.flags[0]? = some x) && !x.flagged && ((wf x).now.mod.domainFault x.src).isNone) = true ∧
      w.got.length = 0 ∧ w.got.length ≠ 1 ∧ w.num = none ∧ 0 ≤ tget 0 (flagKey 5 0) (wf w).now.mod.flagBase ∧
      flagIs ((wf w).now.mod.flagHome (2, 16)) (8192 + 16) = true ∧ flagIs ((wf w).now.mod.flagHome (9, 16)) 0 = false ∧
      packetOk (fromFive 9 0 0 0 0 []) = false ∧ s.now.mod.domainFault 5 = none ∧
      s.now.mod.dom.authentic { fromFive opStore 0 2 0 0xFFFF [7] with epoch := 3 } = false := by
  unfold OnMember
  and_intros <;> first | decide +kernel | exact all_arrive (by decide +kernel)

/-- A packet without a legal form is discarded. -/
theorem witness_PacketsActAtTheirReceiver_dropped (m : Mod) : m.receive (fromFive 9 0 0 0 0 []) = .dropped m.countDiscard := if_pos (by decide)
def manageFrom (kind arg : Nat) (payload : List (BitVec 128)) : Packet := fromFive opManage 3 0 0 0 (BitVec.ofNat 128 (kind + arg * 2 ^ 8) :: payload)
def inD (f : Domain → Domain) : State := domLab fun m => { m with dom := f m.dom }

/-- A management message of each kind to a module in the state for it, and one of a wrong form. -/
theorem witness_DomainEventsComplete_messages :
    let me := inD id
    let out := inD fun d => { d with state := .outside }
    let joins := inD fun d => { d with state := .attesting }
    let lead := inD fun d => { d with leads := true, leader := 0, members := [0, 5, 6], misses := [(6, 1)] }
    me.now.core.launch = none ∧
      ([mgAdmit, mgKeys, mgMembers, mgRoster, mgLeave, mgQuarantine, mgPair, mgOlder].all fun k => let p := manageFrom k 6 [5, 6, 7, 8]
        decide (p.dst = me.now.mod.addr) && decide (p.vc = 3) && decide (p.op = opManage) && decide (p.payload.length = p.len.toNat) && packetOk p &&
          decide (fld (p.payload.headD 0) 0 8 = k) && decide ((p.payload.headD 0).toNat / 2 ^ 8 = 6)) = true ∧
      packetOk { manageFrom mgLeave 0 [] with res := true } = false ∧ out.now.mod.dom.state = .outside ∧ joins.now.mod.dom.state = .attesting ∧
      joins.now.mod.dom.leader = 5 ∧ joins.now.mod.dom.leads = false ∧ me.now.mod.dom.state = .member ∧ me.now.mod.dom.leader = 5 ∧
      (6 + 2 ^ 13) / 2 ^ 13 % 2 = 1 ∧ lead.now.mod.dom.leads = true ∧ lead.now.mod.dom.state = .member ∧ (5 : BitVec 13) ∈ lead.now.mod.dom.members ∧
      (5 : BitVec 13) ∈ me.now.mod.dom.members ∧ me.now.mod.domainFault 5 = none ∧ tfind 5 me.now.mod.dom.quarSince = none ∧
      (5 : BitVec 13) ≠ lead.now.mod.addr ∧ (6 : BitVec 13) ≠ lead.now.mod.addr ∧ tget 0 5 lead.now.mod.dom.misses = 0 ∧ tget 0 6 lead.now.mod.dom.misses ≠ 0 := by
  and_intros <;> decide +kernel

/-- A member and a leader of the domain of modules 0 and 5 in each stage of a rekey; a gap, first and again; a quarantine and misses
past their limits; a line of an older epoch and one whose check fails. -/
theorem witness_DomainEventsComplete :
    let me := inD id
    let lead := inD fun d => { d with leads := true, leader := 0 }
    let gap := fun (since : Tab Nat) leads => domLab fun m => { m with
      gapt := 600, tick := 600000700, dom := { m.dom with wins := [⟨5, 0, 0, 0, [(1, 100)], []⟩], quarSince := since, leads := leads } }
    let quar := fun leads => inD fun d => { d with quar := [5], leads := leads }
    let missed := fun leads => inD fun d => { d with misses := [(5, 8)], leads := leads, leader := if leads then 0 else 5 }
    let drain := fun leads => inD fun d => { d with rekey := .draining, leads := leads, party := [0, 5] }
    let ready := inD fun d => { d with
      leads := true, leader := 0, rekey := .arrived, newKeys := some ⟨5, 6, 7, 8⟩, arrivals := [(0, 1)], party := [0, 5, 6], admitting := some 6 }
    let all := inD fun d => { d with
      leads := true, leader := 0, rekey := .arrived, newKeys := some ⟨5, 6, 7, 8⟩, arrivals := [(0, 1)], party := [0, 5], admitting := some 5 }
    let come := fun st => inD fun d => { d with state := st, rekey := .arrived, newKeys := some ⟨5, 6, 7, 8⟩ }
    let slow := domLab fun m => { m with tick := 60000000, dom := { m.dom with leads := true, leader := 0, rekey := .draining, party := [0, 5] } }
    let l : DomLine := ⟨0, 2, 0, 0, none⟩
    let old := inD fun d => { d with epoch := 1, keys := [(0, ⟨1, 2, 3, 4⟩), (1, ⟨5, 6, 7, 8⟩)], lines := [(7, l), (8, { l with bare := some [] })], scrub := true }
    let high := inD fun d => { d with announced := true, leader := 6, leads := false }
    me.now.core.launch = none ∧ me.now.mod.addr = 0 ∧ me.now.mod.dom.state = .member ∧ me.now.mod.dom.leader = 5 ∧
      ([([], false), ([], true), ([(5, 0)], false), ([(5, 700)], false), ([(5, 700)], true)].all fun e => ((gap e.1 e.2).now.mod.domainFault 5).isNone &&
        ((gap e.1 e.2).now.mod.dom.window 5 0 0).seen.any fun x => decide (x.2 + (gap e.1 e.2).now.mod.gapt.toNat ≤ (gap e.1 e.2).now.mod.tick)) = true ∧
      0 + 600000000 ≤ (gap [] false).now.mod.tick ∧ 700 + 600000000 ≤ (gap [] false).now.mod.tick ∧ ¬(701 + 600000000 ≤ (gap [] false).now.mod.tick) ∧
      (∀ leads, (5 : BitVec 13) ∈ (quar leads).now.mod.dom.quar ∧ (quar leads).now.mod.dom.leads = leads) ∧ (5 : BitVec 13) ≠ me.now.mod.addr ∧
      me.now.mod.tick % 600000 = 0 ∧ me.now.mod.expects.Nodup ∧ (5 : BitVec 13) ∈ me.now.mod.expects ∧
      (∀ leads, 8 ≤ tget 0 5 (missed leads).now.mod.dom.misses ∧ (missed leads).now.mod.dom.leads = leads ∧ (5 : BitVec 13) ∈ (missed leads).now.mod.dom.members) ∧
      (missed false).now.mod.dom.leader = 5 ∧ ((missed false).now.mod.dom.members.all fun p => p = 5 || decide ((missed false).now.mod.addr.toNat ≤ p.toNat)) = true ∧
      lead.now.mod.dom.leads = true ∧ (5 : BitVec 13) ∈ lead.now.mod.dom.members ∧ me.now.mod.dom.rekey = .idle ∧
      (∀ leads, (drain leads).now.mod.dom.opens = [] ∧ (drain leads).now.mod.dom.rekey = .draining ∧ (drain leads).now.mod.dom.leads = leads) ∧
      (∃ p ∈ (drain true).now.mod.dom.party, p ≠ (drain true).now.mod.addr ∧ ∀ e ∈ (drain true).now.mod.dom.arrivals, e.1 ≠ p) ∧
      (5 : BitVec 13) ∈ slow.now.mod.dom.party ∧ slow.now.mod.dom.rekey ≠ .arrived ∧ slow.now.mod.dom.rekey ≠ .idle ∧ slow.now.mod.dom.arrivals = [] ∧
      (5 : BitVec 13) ∈ ready.now.mod.dom.party ∧ (∃ p ∈ ready.now.mod.dom.party, p ≠ 5 ∧ ∀ e ∈ ready.now.mod.dom.arrivals, e.1 ≠ p) ∧
      all.now.mod.dom.newKeys = some ⟨5, 6, 7, 8⟩ ∧ (∀ e ∈ all.now.mod.dom.arrivals, e.1 ≠ 5) ∧ (5 : BitVec 13) ∈ all.now.mod.dom.party ∧
      (all.now.mod.dom.party.all fun p => p = 5 || all.now.mod.dom.arrivals.any fun e => e.1 = p) = true ∧ all.now.mod.dom.admitting = some 5 ∧
      (come .member).now.mod.dom.rekey = .arrived ∧ (come .attesting).now.mod.dom.state = .attesting ∧ (come .attesting).now.mod.dom.leads = false ∧
      slow.now.mod.dom.prepTick + 60000000 ≤ slow.now.mod.tick ∧ me.now.mod.dom.announced = false ∧ me.now.mod.dom.leads = false ∧
      high.now.mod.dom.announced = true ∧ (5 : BitVec 13).toNat < high.now.mod.dom.leader.toNat ∧
      lead.now.mod.dom.older ≤ 1 ∧ lead.now.mod.dom.olders = [] ∧ (drain true).now.mod.dom.rekey ≠ .idle ∧ old.now.mod.dom.scrub = true ∧
      tfind 7 old.now.mod.dom.lines = some l ∧ l.bare = none ∧ (tfind l.epoch.toNat old.now.mod.dom.keys).isSome = true ∧
      tfind 8 old.now.mod.dom.lines = some { l with bare := some [] } := by
  and_intros <;> decide +kernel

/-- A module outside any domain, with a policy of one component in object 2. -/
def polMod : Mod := { Mod.reset with entries := [(2, ent2)], rdy := BitVec.allOnes 30, mem := [(8256, 1)], semaOwner := 1 }

/-- The semaphore held by port 0 and by another, Brosy not ready; a window without a request and with one; a module outside any domain,
a leader that can admit and one that cannot, another member, and a rekey under way. -/
theorem witness_ManagementRequestsComplete :
    let sem := fun (s : State) => { s with now := { s.now with mod := { s.now.mod with semaOwner := 1 } } }
    let out : State := { State.reset with now := { State.reset.now with mod := polMod } }
    let lead := sem (inD fun d => { d with leads := true, leader := 0 })
    let busy := sem (inD fun d => { d with leads := true, leader := 0, rekey := .draining, admitting := some 6 })
    let old := sem (inD fun d => { d with leads := true, leader := 0, olders := [(5, 2)] })
    let asks := sem (domLab fun m => { m with mgmt := #v[{ Mgmt.reset with words := Mgmt.reset.words.set 0 (BitVec.ofNat 64 (2 ^ 63 + 0x13)) }, Mgmt.reset] })
    out.now.core.launch = none ∧ out.now.mod.rdy.getLsbD 0 = true ∧ out.now.mod.semaOwner = 0 + 1 ∧ out.now.mod.dom.state = .outside ∧
      State.reset.now.mod.rdy.getLsbD 0 = false ∧ Asked out 0 [0x10, 2, 0] ∧ Asked asks 0 [0x13] ∧ ¬Asked asks 0 [0x14] ∧
      (out.now.mod.policyBlock 2 0).isSome = true ∧ (out.now.mod.policyBlock 9 0).isSome = false ∧ lead.now.mod.dom.state = .member ∧
      lead.now.mod.dom.leads = true ∧ lead.now.mod.semaOwner = 0 + 1 ∧
      lead.now.mod.dom.admitting = none ∧ busy.now.mod.dom.admitting ≠ none ∧ (6 : BitVec 13) ∉ lead.now.mod.dom.members ∧ lead.now.mod.dom.rekey = .idle ∧
      lead.now.mod.dom.older ≤ 1 ∧ lead.now.mod.dom.olders = [] ∧ ¬(tget 0 5 old.now.mod.dom.olders ≤ 1) ∧
      (5 : BitVec 13) ≠ lead.now.mod.addr ∧ (5 : BitVec 13) ∈ lead.now.mod.dom.members ∧ busy.now.mod.dom.rekey ≠ .idle ∧
      (inD id).now.mod.dom.leads = false ∧ (inD id).now.mod.semaOwner ≠ 0 + 1 ∧ fld (2 : W64) 0 8 = 2 ∧ fld (2 : W64) 10 54 = 0 := by
  unfold Asked
  and_intros <;> decide +kernel

/-- A policy accepts a root key whose digest it holds, and refuses any when it lists no summary. -/
theorem witness_ManagementRequestsComplete_policy (root : List Byte) (summary : Nat) :
    policyAccepts (leBytes 64 (Config.shake256 root).toNat ++ List.replicate 128 0) root summary = false := by
  rw [policyAccepts, Bool.and_eq_false_iff]
  exact .inr rfl

def opens (a : Option (Option Nat × List Nat)) (x : Nat) : Bool := a.any fun r => decide (r.2.head? = some x) && decide r.2.Nodup

/-- Port 0 with and without the semaphore; a lease past its time; an admission; a window; a ring with room and one with a due
interrupt; Ethernet descriptors in object 2. -/
theorem witness_HostRequestsComplete :
    let own := fun (n : Nat) => idleWith fun m => { m with semaOwner := n, lease := 5, tick := 5 }
    let q := idleWith fun m => (m.setQueue 0 5 fun w => { w with win := true, cap := 1, closed := false })
    let full := idleWith fun m => (m.setQueue 0 5 fun w => { w with win := true, cap := 1, recs := [7] })
    let shut := idleWith fun m => { (m.setQueue 0 5 fun w => { w with win := true, cap := 1, closed := true }) with semaOwner := 1 }
    let r : Ring := { Ring.reset with en := true, ien := true, ctime := 5, pend := 1 }
    let ring := idleWith fun m => { m with rings := [(0, r)], pendRecs := [(0, 7)], xlates := [⟨0, none, 0, 4096, 0, true, true⟩], tick := 5 }
    let e : EthPort := { EthPort.reset with en := true, mtu := 64, up := 1 }
    let p : EthPair := { EthPair.reset with obj := 2, qen := true, ttail := 1, rtail := 1 }
    let eth := fun (p : EthPair) => idleWith fun m => { (m.setEth 0 fun _ => { e with pairs := e.pairs.set 0 p }) with
      mem := [(8200, 2), (8203, 63), (8205, 16), (8208, 16), (9217, 8), (9224, 2), (9227, 63), (9229, 16)] }
    let frame : List Byte := List.replicate 16 7
    let recvCap : Cap := capOf 2 4096 ||| 2048
    let sup := Claimant.supervisor 0 1
    let cold := idleWith fun m => { m with rdy := 0 }
    let near := idleWith fun m => { m with semaLast := 1, takes := [⟨0, 0, 0⟩] }
    let laden := idleWith fun m => { m with heap := List.replicate 4096 ⟨0, 0, 0, 0, 0, 0, 0⟩ }
    let sealed := idleWith fun m => { (m.setQueue 0 5 fun w => { w with win := true, cap := 1, mode := 2 }) with idereq := true }
    (own 1).now.core.launch = none ∧ claimantKnown (.port 0) = true ∧ claimantKnown sup = true ∧ claimantKnown .monitor = true ∧
      isOk ((own 1).now.mod.writeReg (.port 0) 0 (0xF101 : BitVec 16).toNat 600) = true ∧
      errIs ((own 1).now.mod.writeReg (.port 0) 0 (0xF004 : BitVec 16).toNat 0) .access = true ∧
      isOk ((own 3).now.mod.writeReg sup 0 2 1) = true ∧ errIs ((own 1).now.mod.writeReg sup 0 2 1) .semaphore = true ∧
      isOk ((own 1).now.mod.writeReg .monitor 0 0xA 256) = true ∧ errIs ((own 1).now.mod.writeReg .monitor 0 0xF004 0) .access = true ∧
      cold.now.mod.rdy.getLsbD 0 = false ∧ [Claimant.port 1, .port 0].Nodup ∧ near.now.mod.semaOwner = 0 ∧ near.now.mod.takes ≠ [] ∧
      (claimCode (.port 1) + 2 - near.now.mod.semaLast) % 3 < (claimCode sup + 2 - near.now.mod.semaLast) % 3 ∧
      4096 ≤ laden.now.mod.heap.length ∧ (sealed.now.mod.queue 0 5).mode = 2 ∧ sealed.now.mod.portOpen 0 = false ∧
      (own 0).now.mod.rdy.getLsbD 0 = true ∧
      (own 0).now.mod.semaOwner = 0 ∧ (own 1).now.mod.semaOwner = 0 + 1 ∧ (own 2).now.mod.semaOwner ≠ 0 + 1 ∧ fld (0 : W64) 0 2 = 0 ∧
      (0 : W64).getLsbD (4 + 0) = false ∧ fld (16 : W64) 0 2 = 0 ∧ (16 : W64).getLsbD (4 + 0) = true ∧ (own 1).now.mod.lease ≠ 0 ∧
      (own 1).now.mod.since + (own 1).now.mod.lease.toNat ≤ (own 1).now.mod.tick ∧ fld (BitVec.ofNat 64 (2 ^ 35) : W64) 35 29 ≠ 0 ∧
      (own 0).now.mod.inPart 0 (fld (0 : W64) 32 3) = true ∧ (q.now.mod.queue 0 5).win = true ∧ (q.now.mod.queue 0 5).open = true ∧
      (q.now.mod.queue 0 5).full = false ∧ (q.now.mod.queue 0 5).mode ≠ 2 ∧ q.now.mod.portOpen 0 = true ∧
      (full.now.mod.queue 0 5).full = true ∧ 9 * 0x40000 + 63 * 0x1000 + 0xFC0 < 10 * 0x40000 ∧
      isOk (shut.now.mod.writeReg (.port 0) 0 (0 * 2 ^ 12 + 0x40 + 5) (setFld (shut.now.mod.queue 0 5).word 27 1 0)) = true ∧
      isOk (shut.now.mod.writeReg (.port 0) 0 (9 * 2 ^ 12 + 2) 1) = true ∧
      ring.now.mod.pendRecs.find? (·.1 = 0) = some (0, 7) ∧ ring.now.mod.ringOpen 0 = true ∧ (ring.now.mod.ring 0).ctime ≠ 0 ∧
      (ring.now.mod.ring 0).pend ≠ 0 ∧ (ring.now.mod.ring 0).oldest + (ring.now.mod.ring 0).ctime.toNat ≤ ring.now.mod.tick ∧
      (ring.now.mod.ring 0).ien = true ∧ p.thead.toNat % p.entries ≠ p.ttail.toNat % p.entries ∧ opens ((eth p).now.mod.descriptorAt p 0) 8192 = true ∧
      (let d : BitVec 512 := BitVec.ofNat 512 ((eth p).now.mod.word 8192 64)
       fld d 128 14 = 16 ∧ fld d 142 3 < e.subs ∧ opens ((eth p).now.mod.ethBuffer (d.extractLsb' 0 128) 16 e.part.toNat rLd) 8192 = true) ∧
      0 < e.subs ∧ e.up.getLsbD 0 = true ∧ frame.length ≤ e.mtu.toNat ∧ framePriority frame = 0 ∧
      (vat EthPair.reset ((eth { p with qen := false }).now.mod.ethPort 0).pairs 0).qen = false ∧
      p.rhead.toNat % p.entries ≠ p.rtail.toNat % p.entries ∧ opens ((eth p).now.mod.descriptorAt p (64 * 16)) 9216 = true ∧
      (let d : BitVec 512 := BitVec.ofNat 512 ((eth p).now.mod.word 9216 64)
       d.extractLsb' 0 128 = recvCap ∧ d.getLsbD 147 = false ∧ capOffset recvCap + frame.length ≤ capLength recvCap ∧
         opens ((eth p).now.mod.ethBuffer recvCap 16 e.part.toNat rSt) (8192 + 2048) = true) := by
  and_intros <;> decide +kernel

/-- A decoder of 256 MiB of die 0 with its last bytes, a poisoned sector, an address that nothing covers; a page request that is met. -/
theorem witness_HostMemoryAndTranslationComplete :
    let s := idleWith fun m => { m.setPort 0 fun p => { p with decoders := [⟨0, 2 ^ 28, 0, [0]⟩], prAlloc := 1 } with
      poison := [0], pageReqs := [⟨0, 6, 0, true, 0⟩], xlates := [⟨0, none, 0, 4096, 0, true, true⟩]
      atsReqs := [⟨0, none, 2, some ⟨0, 6, 0, true, 0⟩⟩]
      entries := [(6, BitVec.ofNat 256 (2 + 63 * 2 ^ 2 + 2 ^ 8 + 255 * 2 ^ 12 + 4096 * 2 ^ 32))] }
    let asks := idleWith fun m => { m.setPort 0 fun p => { p with prAlloc := 1 } with pageReqs := [⟨0, 6, 0, true, 0⟩], entries := s.now.mod.entries }
    let window := fun (v : W64) => idleWith fun m => { m with mgmt := #v[{ Mgmt.reset with words := Mgmt.reset.words.set 0 v }, Mgmt.reset] }
    s.now.core.launch = none ∧ s.now.mod.hostBytes 0 (2 ^ 28 - 8) 8 = some ((upTo 8).map (2 ^ 28 - 8 + ·)) ∧
      s.now.mod.hostBytes 0 0 8 = some (upTo 8) ∧ ((upTo 8).map (2 ^ 28 - 8 + ·)).Nodup ∧ s.now.mod.poisoned false 0 = true ∧
      s.now.mod.poisoned false (2 ^ 28 - 8) = false ∧ (2 ^ 28 - 8) % 8 = 0 ∧ s.now.mod.hostBytes 0 (2 ^ 28 - 4) 8 = none ∧
      s.now.mod.portOpen 0 = true ∧ (List.replicate 64 (1 : Byte)).length ≤ 64 ∧
      ((s.now.mod.pageReqs.filter (·.port = 0)).take (s.now.mod.port 0).prAlloc).find? (fun r => r.obj = 6 ∧ r.page = 0) = some ⟨0, 6, 0, true, 0⟩ ∧
      s.now.mod.requestMet ⟨0, 6, 0, true, 0⟩ = true ∧ decoderOk (2 ^ 28) (2 ^ 28) 0 [0, 1] = true ∧ (s.now.mod.port 0).decoders.length < 4 ∧
      s.now.mod.portCxl 0 = true ∧ asks.now.mod.requestMet ⟨0, 6, 0, true, 0⟩ = false ∧ (asks.now.mod.entry 6).isSome = true ∧
      (⟨0, none, 8192, 4096, 8192, true, true⟩ : Xlate).covers 0 none (4096 * 2) = true ∧
      ((⟨0, none, 8192, 4096, 8192, true, true⟩ : Xlate) ∈ s.now.mod.xlates → False) ∧
      isOk ((idleWith fun m => { m with semaOwner := 1 }).now.mod.writeReg (.port 0) 0 (0x78808 / 0x8000 * 2 ^ 12 + 0x78808 % 0x8000 / 8) 600) = true ∧
      (vat 0 (vat Mgmt.reset (window (BitVec.ofNat 64 (2 ^ 63))).now.mod.mgmt 0).words 0).getLsbD 63 = true ∧
      (vat 0 (vat Mgmt.reset (window 0).now.mod.mgmt 0).words 0).getLsbD 63 = false ∧ knownRequest (fld (0x30 : W64) 0 8) = true ∧
      knownRequest (fld (0xFF : W64) 0 8) = false := by
  and_intros <;> decide +kernel

/-- Functions that are ready and that are not; a running launch; a count to be written; links at their last numbers; temperatures
at 114 and 115 degrees. -/
theorem witness_PowerAndErrorEventsComplete :
    let s := idleWith fun m => { m with semaOwner := 1, corrected := [⟨0, unitCode .l1, 1, 0, true⟩] }
    let off := idleWith fun m => { m with rdy := 0 }
    let asks := fun (own : Nat) (rdy : BitVec 30) => idleWith fun m => { m with
      semaOwner := own, rdy := rdy, mgmt := #v[{ Mgmt.reset with words := Mgmt.reset.words.set 0 (BitVec.ofNat 64 (2 ^ 63 + 0x30)) }, Mgmt.reset] }
    Asked (asks 1 1) 0 [0x30] ∧ (asks 1 1).now.mod.rdy.getLsbD 0 = true ∧ (asks 2 1).now.mod.semaOwner ≠ 0 + 1 ∧ (asks 1 0).now.mod.rdy.getLsbD 0 = false ∧
      fateOk .control .poisoned = false ∧ fateOk .scratchpad .poisoned = true ∧ 2 ^ 40 / 2 ^ 47 % 2 = 0 ∧ 0 < (idleLab.now.coreAt 0).ctxs.length ∧
      (bankRegister (0x20 / 8 * 8)).isSome = true ∧ bankElements (64 % 2 ^ 14 / 8 * 8) ≠ [] ∧
    s.now.core.launch = none ∧ s.now.mod.rdy.getLsbD 0 = true ∧ s.now.mod.semaOwner = 0 + 1 ∧
      (∀ f ∈ [ReadyFn.brosy, .die 9, .stack 11, .hostPort 1, .ethPort 3, .fabric],
        readyKnown f = true ∧ off.now.mod.rdy.getLsbD (readyBit f) = false ∧ s.now.mod.rdy.getLsbD (readyBit f) = true) ∧
      (∀ e ∈ s.now.mod.launches, e.1 < 2 ^ 32) ∧ tfind (16 : W32).toNat s.now.mod.launches = some labLaunch ∧ fateOk .hbm4 .corrected = true ∧
      fateOk .l1 .refetched = true ∧ s.now.mod.corrected.find? (fun e => e.die = 0 && e.unit = unitCode .l1) = some ⟨0, unitCode .l1, 1, 0, true⟩ ∧
      s.now.mod.tick % 600000 = 0 ∧ s.now.mod.tick % 60000 = 0 ∧ (List.replicate 10 114).length = 10 ∧ (∀ x ∈ List.replicate 10 114, x < 115) ∧
      (∃ x ∈ List.replicate 10 115, 115 ≤ x) := by
  unfold Asked
  and_intros <;> decide +kernel

/-- The tweak value of spec/16's worked example: line 4 of object 0x000301 of module 5 under epoch 2. -/
theorem test_tweak_value : tweakOf 5 0x301 4 2 = 0x0000000000000100_14000C0400000004#128 := by decide

/-- A bundle at pc 0, in every depth of a loop; and each kind of next pc. -/
theorem witness_NextPcFollowsItsPseudocode :
    let b := fun (depth : Nat) (pc : W64) => { Bank.zero with depth := BitVec.ofNat 3 depth, pc := pc, loops := Vector.replicate 4 ⟨64, 2, true, 5⟩ }
    Iss.idle.branch = false ∧ Iss.idle.next = none ∧ (b 0 0).delay = 0 ∧ (b 0 0).depth = 0 ∧ (b 4 96).depth ≠ 0 ∧
      (b 4 96).pc = (64 : W64) + 32 * (2 - 1) ∧ (b 4 64).pc ≠ (64 : W64) + 32 * (2 - 1) ∧ Iss.idle.lbc ≠ 1 ∧ Iss.idle.lbc ≠ 2 := by
  decide +kernel

theorem witness_E5m2CodesHaveTheirValues : (31 : Nat) < 32 ∧ (30 : Nat) ≠ 31 ∧ (0 : Nat) ≠ 31 ∧ (3 : Nat) < 4 := by decide

/-- An event that is no slot operation, and a slot operation. -/
theorem witness_EveryStepGoesOnAndEndsAtRest : slotOf (.resultLanding 0 0) = none ∧ slotOf (.addI64 .s0 none (.s 0) (.s 0)) ≠ none := by decide +kernel

/-- The premises of the step's second clause, for a context of core c that issues the one operation i. -/
noncomputable def issueMeets (s : State) (m : Mach) (sl : Slot) (i : Instr) : Bool :=
  match m.mod.fetch m.ctx m.code (m.mod.launch (m.core.launch.getD 0)).record.part m.ctx.saved.isSome m.ctx.bank.pc.toNat with
  | .error _ => false
  | .ok bytes => match decodeBundle (decide (8 ≤ m.cid / 64)) (BitVec.ofNat 256 (leNat bytes)) with
    | .error _ => false
    | .ok u => decide (u.ops = [(sl, i)]) && i.wf && decide (decodeTrap m.ctx.saved.isSome m.ctx.bank u = none) && !m.heldBefore u.hdr.pop &&
        !m.headsMissing u.ops && decide (m.core.badPop u.hdr.pop = none) &&
        match exec i { s with
          now := { m with core := m.core.popAll u.hdr.pop }, start := m
          iss := { Iss.idle with pop := u.hdr.pop, yield := u.hdr.yld, rep := u.hdr.rep.toNat, lbc := u.hdr.lbc.toNat } } with
        | .next t => !t.iss.held && !t.iss.trapped
        | _ => false
noncomputable def stepMeets (s : State) (c x : Nat) (sl : Slot) (i : Instr) : Bool :=
  let b := (s.now.pendCycle s.free c).endingCycle c
  let m0 := b.agingHold c
  let m := if (m0.coreAt c).running = some x then m0.unload.load c x else (m0.unload.load c x).run x
  decide (s.agenda = []) && decide (s.now.core = Core.idle) && decide (s.now.ctx = Ctx.idle) && decide (s.now.cid = 0) && decide (s.now.xid = 0) &&
    decide (s.iss = Iss.idle) && decide (s.turn / 2 ^ 20 = 1) && decide ((s.now.mod.coreFrom (s.turn % 2 ^ 20)).map (·.1) = some c) && s.now.acts c &&
    b.runs c && (decide ((m0.coreAt c).running = some x) || decide ((m0.coreAt c).running = none) && decide (m0.select c = some x)) &&
    decide (m.ctx.firstFault = none) && issueMeets s m sl i

/-- The word of spec/05 after reset: its context is selected; and once it is Running. -/
noncomputable def placed : State := State.reset.withFetchWord 32 0x0820C104
noncomputable def placedRunning : State :=
  let m := (placed.now.load 0 0).run 0 |>.unload
  { placed with now := m, start := m }
theorem witness_StepRunsTheDecodedBundle :
    stepMeets placed 0 0 .s0 (.addI32 .s0 (some 4) (.s 4) (.imm 1)) = true ∧ placed.start = placed.now ∧
      stepMeets placedRunning 0 0 .s0 (.addI32 .s0 (some 4) (.s 4) (.imm 1)) = true ∧ placedRunning.start = placedRunning.now ∧
      slotOf (.matrixStep 0) = none ∧ ∃ t, exec (.matrixStep 0) { idleLab with agenda := [] } = .next t := by
  refine ⟨by decide +kernel, rfl, by decide +kernel, rfl, by decide +kernel, ⟨_, rfl⟩⟩

theorem witness_DecodeInvertsEncode : slotOf (.mskld (.s 20) (.imm 2)) = some .m ∧ (Instr.mskld (.s 20) (.imm 2)).wf = true := by decide +kernel
theorem witness_MemoryStaysCanonical : Memory.wf State.reset.now.mod.mem = true ∧ ∃ t, step State.reset = .next t := by
  refine ⟨by decide +kernel, ⟨_, rfl⟩⟩

/-! ### Ill-formed terms are refused, one for each check (spec/05 Table 05-6, Table 05-7, R140) -/

theorem test_operand_kinds_are_checked :
    (Instr.addI64 .s0 none (.v 1) (.imm 0)).wf = false ∧ (Instr.vld .v0 none (.a 1) (.v 1)).wf = false ∧
      (Instr.ldZ8 .s0 none (.s 1) (.imm 0)).wf = false ∧ (Instr.pand .s0 none (.s 1) (.p 1)).wf = false ∧
      (Instr.copy none (.s 1) (.sh 1)).wf = false ∧ (Instr.ldRlx .s0 none .core 3 false (.v 1)).wf = false ∧
      (Instr.erpost none (.s 1) (.p 1)).wf = false ∧ (Instr.sel .v0 none 0 (.a 1) (.v 1)).wf = false ∧ (Instr.caddoff .s0 none (.s 1) (.s 1)).wf = false := by decide +kernel

theorem test_modes_and_selectors_are_checked :
    (Instr.vlds .v0 none (.s 1) 0xD0).wf = false ∧ (Instr.vlds .v0 none (.s 1) 0x0A).wf = false ∧
      (Instr.cvt .v0 0 13 0 false 0 (.v 1)).wf = false ∧ (Instr.cvt .v0 0 0 5 false 0 (.v 1)).wf = false ∧
      (Instr.raddF32 .v0 none 0 (.v 1) 0x30).wf = false ∧ (Instr.raddInt .v0 none 0 (.v 1) 0x00).wf = false ∧
      (Instr.rmax .v0 none 0 (.v 1) 0x20).wf = false ∧ (Instr.ardout 0 (.s 1) 0xB0).wf = false ∧ (Instr.ardoutS 0 0 (.s 1) 0x10).wf = false ∧
      (Instr.rdsr .s0 none (.imm 7)).wf = false ∧ (Instr.wrsr .s0 (.s 1) (.imm 3)).wf = false ∧
      (Instr.atomCas .s0 63 .mod 3 3 (.a 1)).wf = false := by decide +kernel

theorem test_matrix_forms_and_parts_are_checked :
    (Instr.mmaBf16 0 2 (.sh 2) (.imm 0)).wf = false ∧ (Instr.mmaBf16 0 2 (.sh 3) (.imm 1)).wf = false ∧ (Instr.mmaF4x 0 2 (.v 0) (.v 1)).wf = false ∧
      (Instr.mmaBf16 0 2 (.s 0) (.v 1)).wf = false ∧ (Instr.matrixStep 544).wf = false ∧ (Instr.matrixStep 640).wf = false ∧
      (Instr.resultLanding 0 8).wf = false ∧ (Instr.placement 10 0).wf = false ∧ (Instr.kvPageMove 7 0 0).wf = false ∧
      (Instr.mapCopyFull 0 4).wf = false ∧ (Instr.leaveDomain 2).wf = false ∧ (Instr.transmitDescriptor 0 8).wf = false := by decide +kernel

/-! ### Single steps, by hand from the manual -/

def after (i : Instr) (s : State) (f : State → Bool) : Bool :=
  match exec i s with
  | .next t => f t
  | _ => false

/-- Table 06-1: the sum is cut to 64 bits; the 32-bit form extends by its sign. -/
theorem test_add_wraps :
    (after (.addI64 .s0 (some 5) (.s 8) (.s 9)) (two (BitVec.allOnes 64) 1 lab) fun t => decide (t.get (.s 5) = 0)) = true ∧
      (after (.addI32 .s0 (some 5) (.s 8) (.s 9)) (two 0x7FFFFFFF 1 lab) fun t => decide (t.get (.s 5) = 0xFFFFFFFF80000000)) = true := by decide +kernel

/-- R165: the most negative number by −1, and a divisor of 0. -/
theorem test_division_corners :
    (after (.divI64 .s0 (some 5) (.s 8) (.s 9)) (two (BitVec.ofNat 64 (2 ^ 63)) (BitVec.allOnes 64) lab) fun t => decide (t.get (.s 5) = BitVec.ofNat 2048 (2 ^ 63))) = true ∧
      (after (.remI64 .s0 (some 5) (.s 8) (.s 9)) (two 7 0 lab) fun t => decide (t.get (.s 5) = 7)) = true := by decide +kernel

/-- R186, R317: a supervisor entry goes to tvec + 256 × kind, with the kind in s0 of the supervisor bank. -/
theorem test_illegal_word_enters_the_supervisor :
    (after (.addI64 .s0 none (.v 1) (.imm 0)) (withCode lab) fun t =>
      decide (t.now.core.svHolder = some 0) && decide (t.now.ctx.bank.pc = BitVec.ofNat 64 (256 * kIllegal)) && decide (t.get (.s 0) = BitVec.ofNat 2048 kIllegal)) = true := by
  decide +kernel

/-- spec/07: +∞ becomes 0x7F7F in BF16 under round toward zero with saturation, NaN 0x7FC0, and 1.005859375 becomes 0x3F80. -/
theorem test_convert_saturates :
    (after (.cvt .v0 5 0 1 true 1 (.v 6)) (setV 6 (BitVec.ofNat 2048 (0x7F800000 + 0x7FC00000 * 2 ^ 32 + 0x3F80C000 * 2 ^ 64)) lab) fun t =>
      decide ((t.get (.v 5)) = BitVec.ofNat 2048 (0x7F7F + 0x7FC0 * 2 ^ 16 + 0x3F80 * 2 ^ 32))) = true := by decide +kernel

/-! ### Words of the manual, written out there field by field or listed beside their operations, decode to them -/

/-- spec/06 R176, R182, R185; spec/11 and spec/12 (worked programs). -/
theorem test_scalar_words_decode :
    decodeSlot false .s0 0x2565C828#32 = some (some (.zext .s0 (some 44) (.s 40) (.imm 8)), false) ∧
      decodeSlot false .s0 0x280B2641#32 = some (some (.caddoff .s0 (some 1) (.a 1) (.s 38)), false) ∧
      decodeSlot false .s0 0x2C22CE07#32 = some (some (.shset .s0 4 (.s 7) (.imm 14)), false) ∧
      decodeSlot false .s0 0x38C8C200#32 = some (some (.rdsr .s0 (some 25) (.imm 2)), false) ∧
      decodeSlot false .s0 0x4DD0C038#32 = some (some (.lds .s0 (some 58) (.s 56) (.imm 0)), false) ∧
      decodeSlot false .s0 0x496B3340#32 = some (some (.stZ64 .s0 45 (.a 0) (.s 51)), false) ∧
      decodeSlot false .s0 0x5579C030#32 = some (some (.stRlx .s0 47 .core 3 (.s 48)), false) ∧
      decodeSlot false .s0 0x59E1C337#32 = some (some (.atomAdd .s0 60 .core 3 3 (.s 55)), false) := by decide +kernel

/-- spec/07 examples; spec/11 and spec/12. -/
theorem test_vector_words_decode :
    decodeSlot false .v0 0x8CA06256#32 = some (some (.cvt .v0 5 0 1 true 1 (.v 6)), false) ∧
      decodeSlot false .v0 0x90600954#32 = some (some (.rcupd .v0 (some 12) (.v 4) (.s 9)), false) ∧
      decodeSlot false .v0 0x9808C040#32 = some (some (.vld .v0 (some 1) (.a 0) (.imm 0)), false) ∧
      decodeSlot false .v0 0xA8091014#32 = some (some (.vstsF .v0 1 (.s 20) 0x10), false) ∧
      decodeSlot false .v0 0x80F00058#32 = some (some (.rmax .v0 (some 30) 0 (.v 8) 0), false) ∧
      decodeSlot false .v0 0x8500705A#32 = some (some (.rmin .v0 (some 32) 0 (.v 10) 0x70), false) ∧
      decodeSlot false .v0 0x54081E58#32 = some (some (.vceqF32 .v0 (some 1) (.v 8) (.s 30)), false) ∧
      decodeSlot false .v0 0x64515C59#32 = some (some (.sel .v0 (some 10) 1 (.v 9) (.v 12)), false) ∧
      decodeSlot false .v0 0xA4487022#32 = some (some (.vlds .v0 (some 9) (.s 34) 0x70), false) := by decide +kernel

/-- spec/08 examples. -/
theorem test_matrix_words_decode :
    decodeSlot false .m 0x0CC9C08D#32 = some (some (.mmaE4m3Mc 3 2 (.sh 5) (.imm 0)), false) ∧
      decodeSlot false .m 0x300010C8#32 = some (some (.ardout 0 (.imm 8) 0x10), false) ∧
      decodeSlot true .m 0x404D0B0A#32 = some (some (.ascoreGm 1 3 (.s 10) (.s 11)), false) := by decide +kernel

/-- spec/09 R266, R264, R261, R267; spec/11 and spec/12. -/
theorem test_engine_words_decode :
    decodeSlot false .x 0x10F00908#32 = some (some (.smpl (some 30) (.s 8) (.s 9)), false) ∧
      decodeSlot false .x 0x18600D42#32 = some (some (.ratomAdd 12 (.a 2) (.s 13)), false) ∧
      decodeSlot false .x 0x14A98E8D#32 = some (some (.fstOf (some 21) (.sh 5) (.sh 6)), false) ∧
      decodeSlot false .x 0x14A08C8B#32 = some (some (.fst (some 20) (.sh 3) (.sh 4)), false) ∧
      decodeSlot false .x 0x1C000000#32 = some (some .ackf, false) ∧
      decodeSlot false .x 0x20500014#32 = some (some (.jopen (some 10) (.s 20)), false) ∧
      decodeSlot false .x 0x20B10605#32 = some (some (.jarrive (some 22) (.s 5) (.s 6)), false) ∧
      decodeSlot false .x 0x20BAC005#32 = some (some (.jwait (some 23) (.s 5) (.imm 0)), false) := by decide +kernel

/-- spec/11 (worked programs). -/
theorem test_serving_words_decode :
    decodeSlot false .x 0x30700D0C#32 = some (some (.ahsel (some 14) (.s 12) (.s 13)), false) ∧
      decodeSlot false .x 0x2DE03B3A#32 = some (some (.ahpush (some 60) (.s 58) (.s 59)), false) ∧
      decodeSlot false .x 0x3D5008C0#32 = some (some (.kvalloc (some 42) (.imm 0) (.s 8)), false) ∧
      decodeSlot false .x 0x3DEA313A#32 = some (some (.kvfork (some 61) (.s 58) (.s 49)), false) ∧
      decodeSlot false .x 0x3D93002A#32 = some (some (.kvfree (some 50) (.s 42)), false) := by decide +kernel

/-- spec/09 R297; spec/11; spec/13 and spec/14 examples. The unassigned major 0x3E decodes to nothing. -/
theorem test_control_words_decode :
    decodeSlot false .c 0x1910002D#32 = some (some (.lap 17 (.s 45)), false) ∧ decodeSlot false .c 0x2001C8C0#32 = some (some (.bar .core (.imm 0) (.imm 8)), false) ∧
      decodeSlot false .c 0x30010000#32 = some (some .rti, false) ∧ decodeSlot false .c 0xE0500003#32 = some (some (.srd (some 10) (.s 3)), false) ∧
      decodeSlot false .c 0xF4605705#32 = some (some (.erpost (some 12) (.s 5) (.v 7)), false) ∧
      decodeSlot false .c 0xE8500003#32 = some (some (.lctlPark (some 10) (.s 3)), false) ∧
      decodeSlot false .c 0xE8510003#32 = some (some (.lctlRes (some 10) (.s 3)), false) ∧ decodeSlot false .c 0xF8000000#32 = none := by decide +kernel

end Sys2Proof.Tests
end

section
/-! SUPPORT. What every step answers: a next state, at rest unless its event was a slot operation (spec/01 R17, spec/05 R144,
spec/15 R377). -/

namespace Sys2Proof.Machine

/-! ### The issue stage is cleared -/

@[simp] theorem Mach.unload_core (m : Mach) : m.unload.core = Core.idle := by
  unfold Mach.unload; split <;> rfl

@[simp] theorem Mach.unload_ctx (m : Mach) : m.unload.ctx = Ctx.idle := by
  unfold Mach.unload; split <;> rfl

@[simp] theorem Mach.unload_cid (m : Mach) : m.unload.cid = 0 := by
  unfold Mach.unload; split <;> rfl

@[simp] theorem Mach.unload_xid (m : Mach) : m.unload.xid = 0 := by
  unfold Mach.unload; split <;> rfl

theorem State.rest_atRest (s : State) : s.rest.AtRest :=
  ⟨Mach.unload_core _, Mach.unload_ctx _, Mach.unload_cid _, Mach.unload_xid _, rfl, rfl⟩

/-- Whatever part of the cycle the turn is in, the machine advances through the clearing of the issue stage. -/
theorem State.advance_atRest (s : State) : s.advance.AtRest := by
  unfold State.advance
  dsimp only
  split
  · exact State.rest_atRest _
  · split <;> exact State.rest_atRest _

/-- Which event stands next in the agenda says nothing of the issue stage. -/
theorem State.agenda_atRest {s : State} (l : List Instr) (h : s.AtRest) : State.AtRest { s with agenda := l } := h

end Sys2Proof.Machine

namespace Sys2Proof.Laws
open Sys2Proof Sys2Proof.Machine

/-! ### Every instruction and event goes on -/

theorem event_runs (s : State) (wf : Bool) (t : State) : Runs (s.event wf t) := ⟨_, rfl⟩

/-- PLACEMENT: with a candidate that fits; else with a top candidate, for which saving parked launches does or does not make room, and
with none. -/
theorem execPlacement_runs (die part : Nat) (s : State) : Runs (execPlacement die part s) := by
  unfold execPlacement
  dsimp only
  split
  · exact event_runs ..
  · split
    · split <;> exact event_runs ..
    · exact event_runs ..

/-- PREEMPTION_DECISION: without a candidate, and with one for which the victims do not or do suffice. -/
theorem execPreemptionDecision_runs (die part : Nat) (s : State) : Runs (execPreemptionDecision die part s) := by
  unfold execPreemptionDecision
  dsimp only
  split
  · exact event_runs ..
  · split <;> exact event_runs ..

/-- RESUMPTION: of a launch that the scheduler or an overrun has parked, of a saved one, and of any other. -/
theorem execResumption_runs (launch : W32) (s : State) : Runs (execResumption launch s) := by
  unfold execResumption
  dsimp only
  split
  · exact event_runs ..
  · exact event_runs ..
  · split
    · exact event_runs ..
    · split <;> exact event_runs ..
  · exact event_runs ..

/-- HEARTBEAT_MISS_FENCE: of the module itself, of a member by the leader, and of the leader by a member. -/
theorem execHeartbeatMissFence_runs (peer : BitVec 13) (s : State) : Runs (execHeartbeatMissFence peer s) := by
  unfold execHeartbeatMissFence
  dsimp only
  split
  · exact event_runs ..
  · split <;> exact event_runs ..

/-- No instruction or event faults the machine or is refused, whatever the state. Most arms of `exec` are at once a call of
`State.issue` or of `State.event`, which answer a next state (a trap is one too); the events listed first look the machine up before
they state their condition. -/
theorem exec_runs (i : Instr) (s : State) : Runs (exec i s) := by
  cases i with
  | placement die part => exact execPlacement_runs die part s
  | preemptionDecision die part => exact execPreemptionDecision_runs die part s
  | resumption launch => exact execResumption_runs launch s
  | heartbeatMissFence peer => exact execHeartbeatMissFence_runs peer s
  | placementWaitLimit | candidateAging | urgencyWindowEntry | objectEntryArrival | taggedWriteStage | flagIncrement
  | pendingRecordWrite | pageRequestResponse | errorSummaryRecord =>
    -- what the event is about is found, or not
    dsimp only [exec, execPlacementWaitLimit, execCandidateAging, execUrgencyWindowEntry, execObjectEntryArrival, execTaggedWriteStage,
      execFlagIncrement, execPendingRecordWrite, execPageRequestResponse, execErrorSummaryRecord]
    split <;> exact event_runs ..
  | heartbeat | rekeyRequest | measurementChangeReport | linkStateChange =>
    -- the event has two forms, each with a condition of its own
    dsimp only [exec, execHeartbeat, execRekeyRequest, execMeasurementChangeReport, execLinkStateChange]
    split <;> exact event_runs ..
  | _ => exact ⟨_, rfl⟩

/-! ### The step -/

variable {s : State}

/-- A slot operation is no event: it is left out. -/
theorem event1_of_slot {i : Instr} {sl : Slot} (h : slotOf i = some sl) : State.event1 s i = .next s := by
  unfold State.event1; rw [h]

/-- An event takes place, and the issue stage is cleared behind it. -/
theorem event1_of_event {i : Instr} (h : slotOf i = none) : ∃ t, State.event1 s i = .next t ∧ t.AtRest := by
  obtain ⟨t, ht⟩ := exec_runs i s
  refine ⟨t.rest, ?_, State.rest_atRest t⟩
  unfold State.event1; rw [h, ht]

theorem step_of_agenda_nil (h : s.agenda = []) : step s = .next s.advance := by
  unfold step; rw [h]

theorem step_of_agenda_cons {i : Instr} {l : List Instr} (h : s.agenda = i :: l) : step s = State.event1 { s with agenda := l } i := by
  unfold step; rw [h]

/-- Settles O56: by the head of the agenda - none, a slot operation, an event. -/
theorem everyStepGoesOnAndEndsAtRest : Obligations.EveryStepGoesOnAndEndsAtRest := by
  unfold Obligations.EveryStepGoesOnAndEndsAtRest
  intro s
  cases hagenda : s.agenda with
  | nil => exact ⟨s.advance, step_of_agenda_nil hagenda, fun _ => State.advance_atRest s⟩
  | cons i l =>
    rw [step_of_agenda_cons hagenda]
    cases hslot : slotOf i with
    | some sl =>
      refine ⟨_, event1_of_slot hslot, fun h => ?_⟩
      rcases h with hrest | hevent
      · exact State.agenda_atRest l hrest
      · have hnone : slotOf i = none := hevent i l rfl
        exact absurd (hslot.symm.trans hnone) (Option.some_ne_none sl)
    | none =>
      obtain ⟨t, ht, hrest⟩ := event1_of_event (s := { s with agenda := l }) hslot
      exact ⟨t, ht, fun _ => hrest⟩

end Sys2Proof.Laws
end

section
/-! SUPPORT. The checks of a scalar access of global memory: which trap each failure takes, and that every scalar load and store
makes them before anything else (spec/02 R67, spec/15 R368, R377). -/

namespace Sys2Proof.Laws
open Sys2Proof Sys2Proof.Machine

variable {s : State} {slot pos : Nat}

/-! ### The view without poison reads what the view reads -/

theorem view_calm {w spec : Nat} {r : WReg} {v x : BitVec w} (h : s.view slot pos spec r v = .ok x) :
    s.calm.view slot pos spec r v = .ok x := by
  unfold State.view at h
  split at h
  · cases h
  · exact h

theorem head_calm {spec : Nat} {q : Fin 8} {x : VecReg} (h : s.head slot spec q = .ok x) : s.calm.head slot spec q = .ok x := by
  have hq : s.calm.start.core.queues[q] = s.start.core.queues[q].map fun e => { e with poison := false } := Vector.getElem_map ..
  unfold State.head at h ⊢
  rw [hq]
  cases hl : s.start.core.queues[q] with
  | nil => rw [hl] at h; cases h
  | cons e l =>
    rw [hl] at h
    dsimp only at h
    split at h
    · cases h
    · exact h

/-- A queue source that can be read is the head of its queue. -/
theorem head_of_bind {w spec : Nat} {q : Fin 8} {x : BitVec w}
    (h : (do return (← s.head slot spec q).setWidth w : Except Stop (BitVec w)) = .ok x) :
    ∃ v, s.head slot spec q = .ok v ∧ v.setWidth w = x := by
  cases hv : s.head slot spec q with
  | error e => rw [hv] at h; cases h
  | ok v => rw [hv] at h; exact ⟨v, rfl, Except.ok.inj h⟩

theorem cap_calm {a : Src} {c : Cap} (h : s.cap slot pos a = .ok c) : s.calm.cap slot pos a = .ok c := by
  cases a with
  | a n => exact view_calm h
  | q n =>
    obtain ⟨v, hv, rfl⟩ := head_of_bind h
    show (do return (← s.calm.head slot _ n).setWidth 128 : Except Stop Cap) = _
    rw [head_calm hv]; rfl
  | _ => exact h

theorem scalar_calm {b : Src} {y : W64} (h : s.scalar slot pos b = .ok y) : s.calm.scalar slot pos b = .ok y := by
  cases b with
  | q n =>
    obtain ⟨v, hv, rfl⟩ := head_of_bind h
    show (do return (← s.calm.head slot _ n).setWidth 64 : Except Stop W64) = _
    rw [head_calm hv]; rfl
  | s n | latS0 | latS1 | latV0 | latV1 | latM | latX | latC => exact view_calm h
  | _ => exact h

/-! ### The order of the checks -/

section
variable {c : Cap} {d : Int} {n k : Nat} {rights : BitVec 6}

theorem capAccess_capability (hc : checkCap c d n rights = some k) :
    ∃ detail, s.capAccess slot c d n n rights = .error (.trap ⟨kCapability, k, slot, detail, capObject c⟩) := by
  unfold State.capAccess
  rw [hc]
  exact ⟨_, rfl⟩

theorem capAccess_protection (hc : checkCap c d n rights = none)
    (hp : s.start.mod.protect (capObject c) (capOffset c + d) n rights (capRights c) s.part s.sv = some k) :
    ∃ detail, s.capAccess slot c d n n rights = .error (.trap ⟨kProtection, k, slot, detail, capObject c⟩) := by
  unfold State.capAccess
  rw [hc]
  dsimp only
  rw [hp]
  exact ⟨_, rfl⟩

/-- A displacement that passes the capability check reaches no byte before the object. -/
theorem checkCap_offset_nonneg (hc : checkCap c d n rights = none) : 0 ≤ (capOffset c : Int) + d := by
  unfold checkCap at hc
  split at hc
  · cases hc
  · split at hc
    · cases hc
    · dsimp only at hc
      split at hc
      · cases hc
      · next hin => omega

theorem capAccess_alignment (hc : checkCap c d n rights = none)
    (hp : s.start.mod.protect (capObject c) (capOffset c + d) n rights (capRights c) s.part s.sv = none)
    (hn : ((capOffset c : Int) + d) % n ≠ 0) :
    s.capAccess slot c d n n rights =
      .error (.trap ⟨kAlignment, 0, slot, ((capOffset c : Int) + d).toNat % 2 ^ 64, capObject c⟩) := by
  obtain ⟨off, hoff⟩ := Int.eq_ofNat_of_zero_le (checkCap_offset_nonneg hc)
  unfold State.capAccess
  rw [hc]
  dsimp only
  rw [hp, hoff]
  rw [hoff] at hn
  have hmis : off % n ≠ 0 := fun h0 => hn (by exact_mod_cast h0)
  dsimp only
  rw [Int.toNat_natCast, if_pos hmis]
  rfl

/-- The checks of an access whose sources can be read are those of its capability, displacement and object. -/
theorem globalAt_of_refused {a b : Src} {y : W64} {t : Trap} (ha : s.cap slot 0 a = .ok c) (hb : s.scalar slot 1 b = .ok y)
    (h : s.capAccess slot c y.toInt n n rights = .error (.trap t)) : s.globalAt slot a b n n rights = .error (.trap t) := by
  unfold State.globalAt
  rw [cap_calm ha, scalar_calm hb]
  show (s.capAccess slot c y.toInt n n rights >>= _) = _
  rw [h]; rfl

end

/-! ### Every scalar access begins with its checks -/

/-- An answer of a slot operation that first makes the checks of an n-byte access at capability a plus b. -/
def ChecksFirst (s : State) (slot : Nat) (a b : Src) (n : Nat) (rights : BitVec 6) (o : Host.Outcome State Fault Refusal) : Prop :=
  ∃ rest : Cap × Nat → Act, o = s.issue slot (a.capOk && b.scalarOk) (s.globalAt slot a b n n rights >>= rest)

section
variable {u : SU} {a b : Src} {n : Nat}

/-- Such an operation, well formed and with readable sources, takes the trap that the checks of the access find. -/
theorem ChecksFirst.refused {c : Cap} {y : W64} {rights : BitVec 6} {o : Host.Outcome State Fault Refusal} {t : Trap}
    (ho : ChecksFirst s slot a b n rights o) (haOk : a.capOk = true) (hbOk : b.scalarOk = true) (ha : s.cap slot 0 a = .ok c)
    (hb : s.scalar slot 1 b = .ok y) (h : s.capAccess slot c y.toInt n n rights = .error (.trap t)) : o = .next (s.raise t) := by
  obtain ⟨rest, rfl⟩ := ho
  rw [haOk, hbOk, globalAt_of_refused ha hb h]; rfl

/-- Whatever a load does with its bytes, the checks come first. -/
theorem load_checksFirst {nr : Bool} (f : List Byte × List Bool × State → Act) :
    ChecksFirst s slot a b n rLd (s.issue slot (a.capOk && b.scalarOk) (s.load slot a b n n nr >>= f)) :=
  ⟨_, congrArg (s.issue slot _) (bind_assoc _ _ _)⟩

theorem loadS_checksFirst {d : Option (Fin 64)} {signed : Bool} :
    ChecksFirst s (slotS u) a b n rLd (loadS u d a b n signed s) := load_checksFirst _

theorem storeS_checksFirst {d : Fin 64} : ChecksFirst s (slotS u) a b n rSt (storeS u d a b n s) := ⟨_, rfl⟩

/-- The scalar loads and stores of Table 06-8, with the bytes and the right that each needs. -/
def scalarAccesses (u : SU) (d : Option (Fin 64)) (e : Option (Fin 16)) (r : Fin 64) (p : Fin 8) (a b : Src) :
    List (Instr × Nat × BitVec 6) :=
  [(.ldZ8 u d a b, 1, rLd), (.ldZ16 u d a b, 2, rLd), (.ldZ32 u d a b, 4, rLd), (.ldI8 u d a b, 1, rLd),
    (.ldI16 u d a b, 2, rLd), (.ldI32 u d a b, 4, rLd), (.ldI64 u d a b, 8, rLd), (.ldC128 u e a b, 16, rLd),
    (.ldNr u d p a b, 8, rLd), (.stZ8 u r a b, 1, rSt), (.stZ16 u r a b, 2, rSt), (.stZ32 u r a b, 4, rSt),
    (.stZ64 u r a b, 8, rSt)]

theorem scalarAccesses_checkFirst {d : Option (Fin 64)} {e : Option (Fin 16)} {r : Fin 64} {p : Fin 8} :
    ∀ x ∈ scalarAccesses u d e r p a b, ChecksFirst s (slotS u) a b x.2.1 x.2.2 (exec x.1 s) := by
  simp only [scalarAccesses, List.forall_mem_cons]
  exact ⟨loadS_checksFirst, loadS_checksFirst, loadS_checksFirst, loadS_checksFirst, loadS_checksFirst, loadS_checksFirst,
    loadS_checksFirst, load_checksFirst _, load_checksFirst _, storeS_checksFirst, storeS_checksFirst, storeS_checksFirst,
    storeS_checksFirst, List.forall_mem_nil _⟩

end

/-- Settles O23: each access makes its checks first, and they answer with the trap of the first that fails. -/
theorem misalignedAndOutOfBoundsAccessesTrap : Obligations.MisalignedAndOutOfBoundsAccessesTrap := by
  unfold Obligations.MisalignedAndOutOfBoundsAccessesTrap
  intro s u d e r p a b c y i n rights hi haOk hbOk ha hb
  have hfirst : ChecksFirst s (slotS u) a b n rights (exec i s) := scalarAccesses_checkFirst (i, n, rights) hi
  have refused {t : Trap} (h : s.capAccess (slotS u) c y.toInt n n rights = .error (.trap t)) : exec i s = .next (s.raise t) :=
    hfirst.refused haOk hbOk ha hb h
  refine ⟨fun k hk => ?_, fun hc => ⟨fun k hk => ?_, fun hp hmis => ?_⟩⟩
  · exact (capAccess_capability hk).imp fun _ => refused
  · exact (capAccess_protection hc hk).imp fun _ => refused
  · exact refused (capAccess_alignment hc hp hmis)

end Sys2Proof.Laws
end

section
/-! SUPPORT. Number formats: what a code decodes to by its fields, and that the value encodes back to the code (spec/03 R75, R77,
R78, R84 to R86). -/

namespace Sys2Proof.Laws
open Sys2Proof Sys2Proof.Machine

/-! ### Integer formats (R84) -/

section
variable {t : Ty} {w c : Nat} {x : Int} {rm : Rnd} {int : Bool}

theorem natCast_two_pow (w : Nat) : ((2 ^ w : Nat) : Int) = 2 ^ w := Int.natCast_pow 2 w

theorem natCast_emod (hc : c < 2 ^ w) : (c : Int) % 2 ^ w = c := by
  have hpow := natCast_two_pow w
  exact Int.emod_eq_of_lt (by omega) (by omega)

theorem lowBits_of_emod (h : x % 2 ^ w = c) : lowBits w x = c := by
  rw [lowBits, h, Int.toNat_natCast]

/-- The signed reading is c or c − 2^w. -/
theorem sgn_emod (hc : c < 2 ^ w) : sgn w c % 2 ^ w = c := by
  simp only [sgn, Nat.mod_eq_of_lt hc]
  split
  · exact natCast_emod hc
  · rw [Int.sub_emod_right, natCast_emod hc]

theorem sgn_bounds (hc : c < 2 ^ (w + 1)) : -2 ^ w ≤ sgn (w + 1) c ∧ sgn (w + 1) c ≤ 2 ^ w - 1 := by
  have hpow := natCast_two_pow w
  have hpow' := natCast_two_pow (w + 1)
  have hsucc : 2 ^ (w + 1) = 2 ^ w * 2 := Nat.pow_succ ..
  simp only [sgn, Nat.mod_eq_of_lt hc]
  split <;> omega

/-- An integer in the range of its format is encoded as its low bits, whatever the rounding. -/
theorem encodeNum_ofInt (ht : t.isInt = true) (hlo : t.minInt ≤ x) (hhi : x ≤ t.maxInt) :
    encodeNum t (Num.ofInt x) rm false int = lowBits t.width x := by
  have hy : (if decide (x < 0) = true then -1 else 1) * (roundToInt rm (decide (x < 0)) x.natAbs 0 : Int) = x := by
    rw [roundToInt, if_pos (Int.le_refl 0), Int.toNat_zero, Nat.pow_zero, Nat.mul_one]
    by_cases hneg : x < 0
    · rw [if_pos (decide_eq_true hneg)]; omega
    · rw [if_neg (by rw [decide_eq_true_eq]; exact hneg)]; omega
  simp only [encodeNum, Num.ofInt, ht, if_true, hy]
  exact if_pos (.inl ⟨hlo, hhi⟩)

/-- What an integer format decodes a code to lies in its range and is the code modulo 2 to its width. -/
theorem decodeNum_int (ht : t.isInt = true) (hc : c < 2 ^ t.width) :
    ∃ x : Int, decodeNum t c = .ofInt x ∧ t.minInt ≤ x ∧ x ≤ t.maxInt ∧ x % 2 ^ t.width = c := by
  refine ⟨if t.isSigned then sgn t.width c else c, ?_, ?_⟩
  · rw [decodeNum, if_pos ht, Nat.mod_eq_of_lt hc]
  · unfold Ty.minInt Ty.maxInt
    split
    · obtain ⟨w, hw⟩ : ∃ w, t.width = w + 1 := ⟨t.width - 1, by cases t <;> rfl⟩
      rw [hw] at hc ⊢
      obtain ⟨hlo, hhi⟩ := sgn_bounds hc
      exact ⟨hlo, hhi, sgn_emod hc⟩
    · have hpow := natCast_two_pow t.width
      exact ⟨by omega, by omega, natCast_emod hc⟩

theorem encodeNum_decodeNum_int (ht : t.isInt = true) (hc : c < 2 ^ t.width) : encodeNum t (decodeNum t c) rm false int = c := by
  obtain ⟨x, hx, hlo, hhi, hmod⟩ := decodeNum_int ht hc
  rw [hx, encodeNum_ofInt ht hlo hhi, lowBits_of_emod hmod]

end

/-! ### Floating formats: the code of a sign, an exponent field and a mantissa field (R75) -/

/-- The code of a floating format with the sign neg, exponent field e and mantissa field m. -/
def floatCode (t : Ty) (neg : Bool) (e m : Nat) : Nat :=
  (if neg then 2 ^ (t.width - 1) else 0) + (e * 2 ^ t.float.mant + m)

section
variable {t : Ty} {neg : Bool} {e m : Nat}

/-! Table 03-1: the fields fill the width, and the largest finite value has the greatest fields that are neither infinity nor NaN. -/

theorem float_width (ht : t.isInt = false) : t.width = t.float.ebits + t.float.mant + 1 := by
  revert ht; cases t <;> decide

theorem float_maxE (ht : t.isInt = false) : t.float.maxE + (2 + t.float.hasInf.toNat : Nat) = t.float.emin + (2 ^ t.float.ebits : Nat) := by
  revert ht; cases t <;> decide

theorem float_maxM (ht : t.isInt = false) : 2 ^ (t.float.mant + 1) = t.float.maxM + 1 + (decide (t = .e4m3)).toNat := by
  revert ht; cases t <;> decide

theorem float_ebits (ht : t.isInt = false) : 2 ≤ t.float.ebits := by
  revert ht; cases t <;> decide

theorem float_mant (ht : t.isInt = false) : 1 ≤ t.float.mant := by
  revert ht; cases t <;> decide

/-- Exponent and mantissa field stay below the sign bit. -/
theorem fields_lt {k w : Nat} (he : e < 2 ^ k) (hm : m < 2 ^ w) : e * 2 ^ w + m < 2 ^ (k + w) :=
  calc e * 2 ^ w + m < (e + 1) * 2 ^ w := by rw [Nat.succ_mul]; omega
    _ ≤ 2 ^ k * 2 ^ w := Nat.mul_le_mul_right _ he
    _ = 2 ^ (k + w) := (Nat.pow_add ..).symm

/-- Above the mantissa field stands the exponent field, and above that the sign. -/
theorem floatCode_eq (ht : t.isInt = false) :
    floatCode t neg e m = (2 ^ t.float.ebits * neg.toNat + e) * 2 ^ t.float.mant + m := by
  unfold floatCode
  rw [float_width ht, Nat.add_sub_cancel]
  cases neg
  · rw [if_neg Bool.false_ne_true, Bool.toNat_false, Nat.mul_zero, Nat.zero_add, Nat.zero_add]
  · rw [if_pos rfl, Bool.toNat_true, Nat.mul_one, Nat.add_mul, ← Nat.pow_add, Nat.add_assoc]

/-- Every code of a floating format is the code of its fields. -/
theorem exists_floatCode (ht : t.isInt = false) {c : Nat} (hc : c < 2 ^ t.width) :
    ∃ neg e m, e < 2 ^ t.float.ebits ∧ m < 2 ^ t.float.mant ∧ c = floatCode t neg e m := by
  have hsign : c / 2 ^ t.float.mant / 2 ^ t.float.ebits < 2 := by
    rw [Nat.div_div_eq_div_mul, ← Nat.pow_add, Nat.add_comm]
    exact Nat.div_lt_of_lt_mul (by rwa [← Nat.pow_succ, Nat.succ_eq_add_one, ← float_width ht])
  obtain ⟨neg, hneg⟩ : ∃ neg : Bool, neg.toNat = c / 2 ^ t.float.mant / 2 ^ t.float.ebits := by
    rcases Nat.le_one_iff_eq_zero_or_eq_one.mp (Nat.le_of_lt_succ hsign) with h | h
    · exact ⟨false, h.symm⟩
    · exact ⟨true, h.symm⟩
  refine ⟨neg, c / 2 ^ t.float.mant % 2 ^ t.float.ebits, c % 2 ^ t.float.mant, Nat.mod_lt _ (Nat.two_pow_pos _),
    Nat.mod_lt _ (Nat.two_pow_pos _), ?_⟩
  rw [floatCode_eq ht, hneg, Nat.div_add_mod, Nat.div_add_mod']

section
variable (ht : t.isInt = false) (he : e < 2 ^ t.float.ebits) (hm : m < 2 ^ t.float.mant)
include ht he hm

theorem floatCode_lt : floatCode t neg e m < 2 ^ t.width := by
  have hlt := fields_lt he hm
  unfold floatCode
  rw [float_width ht, Nat.add_sub_cancel, Nat.pow_succ]
  split <;> omega

theorem floatCode_sign : (floatCode t neg e m).testBit (t.width - 1) = neg := by
  have hlt := fields_lt he hm
  unfold floatCode
  rw [float_width ht, Nat.add_sub_cancel]
  cases neg
  · rw [if_neg Bool.false_ne_true, Nat.zero_add, Nat.testBit_lt_two_pow hlt]
  · rw [if_pos rfl, Nat.testBit_two_pow_add_eq, Nat.testBit_lt_two_pow hlt]; rfl

omit he in
theorem floatCode_mantissa : floatCode t neg e m % 2 ^ t.float.mant = m := by
  rw [floatCode_eq ht, Nat.mul_add_mod', Nat.mod_eq_of_lt hm]

theorem floatCode_exponent : floatCode t neg e m / 2 ^ t.float.mant % 2 ^ t.float.ebits = e := by
  rw [floatCode_eq ht, Nat.add_comm, Nat.add_mul_div_right _ _ (Nat.two_pow_pos _), Nat.div_eq_of_lt hm, Nat.zero_add, Nat.mul_add_mod,
    Nat.mod_eq_of_lt he]

/-- R75 by the fields of a code; the first line is the NaN of E4M3. -/
theorem decodeNum_floatCode : decodeNum t (floatCode t neg e m) =
    if t = .e4m3 ∧ e = 15 ∧ m = 7 then .nan
    else if t.float.hasInf = true ∧ e = 2 ^ t.float.ebits - 1 then (if m = 0 then .inf neg else .nan)
    else if e = 0 then .fin neg m t.float.emin
    else .fin neg (2 ^ t.float.mant + m) (t.float.emin + (e - 1)) := by
  have hnan : (t = .e4m3 ∧ floatCode t neg e m % 128 = 127) ↔ t = .e4m3 ∧ e = 15 ∧ m = 7 := by
    refine and_congr_right fun h4 => ?_
    subst h4
    have he' : e < 16 := he
    have hm' : m < 8 := hm
    have hcode : floatCode .e4m3 neg e m = (16 * neg.toNat + e) * 8 + m := floatCode_eq rfl
    omega
  simp only [decodeNum, ht, Nat.mod_eq_of_lt (floatCode_lt ht he hm), floatCode_sign ht he hm, floatCode_mantissa ht hm,
    floatCode_exponent ht he hm, Bool.and_eq_true, decide_eq_true_eq, hnan, Bool.false_eq_true, if_false]

end

end

/-! ### A value that fits a floating format is encoded exactly (R85, R86) -/

theorem bitLen_le {n k : Nat} (h : n < 2 ^ k) : bitLen n ≤ k := by
  unfold bitLen
  split
  · exact Nat.zero_le k
  · next hn => exact (Nat.log2_lt hn).mpr h

theorem le_bitLen {n k : Nat} (h : 2 ^ k ≤ n) : k + 1 ≤ bitLen n := by
  have hn : n ≠ 0 := by have := Nat.two_pow_pos k; omega
  rw [bitLen, if_neg hn]
  exact Nat.succ_le_succ ((Nat.le_log2 hn).mpr h)

/-- Not above M × 2^E: at the same exponent with no greater multiple, or below it with one that is at most twice M. -/
theorem magLt_eq_false {M q : Nat} {E g : Int} (h : g = E ∧ q ≤ M ∨ g < E ∧ q ≤ 2 * M) : magLt M E q g = false := by
  have hle : q ≤ M * 2 ^ (E - g).toNat := by
    rcases h with ⟨rfl, hq⟩ | ⟨hg, hq⟩
    · rwa [Int.sub_self, Int.toNat_zero, Nat.pow_zero, Nat.mul_one]
    · have htwo : 2 ^ 1 ≤ 2 ^ (E - g).toNat := Nat.pow_le_pow_right (by decide) (by omega)
      exact Nat.le_trans hq (by rw [Nat.mul_comm]; exact Nat.mul_le_mul_left M htwo)
  have hmin : min E g = g := by omega
  rw [magLt, hmin, Int.sub_self, Int.toNat_zero, Nat.pow_zero, Nat.mul_one]
  exact decide_eq_false (Nat.not_lt.mpr hle)

section
variable {t : Ty} {neg int : Bool} {e m : Nat} {rm : Rnd}

theorem encodeNum_inf (ht : t.isInt = false) (hinf : t.float.hasInf = true) :
    encodeNum t (.inf neg) rm false int = floatCode t neg (2 ^ t.float.ebits - 1) 0 := by
  simp only [encodeNum, ht, hinf, Bool.not_false, Bool.and_true, Bool.false_eq_true, if_true, if_false]
  rfl

/-- q × 2^(emin + k) with q of mantissa width and its leading bit is on the grid: q is not rounded. At k = 0 the leading bit may be 0. -/
theorem encodeNum_exact {q k : Nat} (ht : t.isInt = false) (hq : q < 2 ^ (t.float.mant + 1)) (hk : k = 0 ∨ 2 ^ t.float.mant ≤ q)
    (hmax : magLt t.float.maxM t.float.maxE q (t.float.emin + k) = false) :
    encodeNum t (.fin neg q (t.float.emin + k)) rm false int = floatCode t neg k q := by
  have hg : max t.float.emin (t.float.emin + k + bitLen q - (t.float.mant + 1)) = t.float.emin + k := by
    have hle := bitLen_le hq
    rcases hk with rfl | hlead
    · omega
    · have hge := le_bitLen hlead
      omega
  have hk0 : q = 0 → k = 0 := fun h0 => hk.resolve_right (by have := Nat.two_pow_pos t.float.mant; omega)
  have hsub : t.float.emin + k - t.float.emin = k := by omega
  simp only [encodeNum, ht, hg, Int.le_refl, Int.sub_self, Int.toNat_zero, Nat.pow_zero, Nat.mul_one, hmax, if_true,
    Bool.false_eq_true, if_false, hsub, Int.toNat_natCast, floatCode]
  by_cases h0 : q = 0
  · rw [if_pos h0]
    simp only [h0, hk0 h0, Nat.zero_mul, Nat.add_zero]
  · rw [if_neg h0]

/-- A subnormal code lies below the largest finite value. -/
theorem subnormal_le_maxFinite (ht : t.isInt = false) (hm : m < 2 ^ t.float.mant) :
    magLt t.float.maxM t.float.maxE m t.float.emin = false := by
  have hE := float_maxE ht
  have hM := float_maxM ht
  have hpow : 2 ^ 2 ≤ 2 ^ t.float.ebits := Nat.pow_le_pow_right (by decide) (float_ebits ht)
  have hinf := t.float.hasInf.toNat_le
  have h4 := (decide (t = .e4m3)).toNat_le
  rw [Nat.pow_succ] at hM
  exact magLt_eq_false (.inr ⟨by omega, by omega⟩)

/-- A normal code that is neither infinity nor NaN is at most the largest finite value. -/
theorem normal_le_maxFinite (ht : t.isInt = false) (he : e + 1 < 2 ^ t.float.ebits) (hm : m < 2 ^ t.float.mant)
    (hnan : ¬(t = .e4m3 ∧ e + 1 = 15 ∧ m = 7)) (hinf : ¬(t.float.hasInf = true ∧ e + 1 = 2 ^ t.float.ebits - 1)) :
    magLt t.float.maxM t.float.maxE (2 ^ t.float.mant + m) (t.float.emin + e) = false := by
  have hE := float_maxE ht
  have hM := float_maxM ht
  have hw : 2 ^ 1 ≤ 2 ^ t.float.mant := Nat.pow_le_pow_right (by decide) (float_mant ht)
  have h4 := (decide (t = .e4m3)).toNat_le
  rw [Nat.pow_succ] at hM
  have htop : e + 2 + t.float.hasInf.toNat ≤ 2 ^ t.float.ebits := by
    cases h : t.float.hasInf
    · simp only [Bool.toNat_false]; omega
    · have hne : e + 1 ≠ 2 ^ t.float.ebits - 1 := fun heq => hinf ⟨h, heq⟩
      simp only [Bool.toNat_true]; omega
  apply magLt_eq_false
  rcases Nat.lt_or_eq_of_le htop with hlt | heq
  · exact .inr ⟨by omega, by omega⟩
  · refine .inl ⟨by omega, ?_⟩
    by_cases ht4 : t = .e4m3
    · subst ht4
      have he14 : e + 2 = 16 := heq
      have hm8 : m < 8 := hm
      have hm7 : m ≠ 7 := fun h7 => hnan ⟨rfl, by omega, h7⟩
      show 8 + m ≤ 14
      omega
    · rw [decide_eq_false ht4, Bool.toNat_false] at hM
      omega

theorem encodeNum_decodeNum_float (ht : t.isInt = false) (he : e < 2 ^ t.float.ebits) (hm : m < 2 ^ t.float.mant)
    (hnum : decodeNum t (floatCode t neg e m) ≠ .nan) :
    encodeNum t (decodeNum t (floatCode t neg e m)) rm false int = floatCode t neg e m := by
  rw [decodeNum_floatCode ht he hm] at hnum ⊢
  by_cases hnan : t = .e4m3 ∧ e = 15 ∧ m = 7
  · rw [if_pos hnan] at hnum; exact absurd rfl hnum
  rw [if_neg hnan] at hnum ⊢
  by_cases hinf : t.float.hasInf = true ∧ e = 2 ^ t.float.ebits - 1
  · rw [if_pos hinf] at hnum ⊢
    by_cases hm0 : m = 0
    · obtain ⟨hinf, rfl⟩ := hinf
      rw [if_pos hm0, encodeNum_inf ht hinf, hm0]
    · rw [if_neg hm0] at hnum; exact absurd rfl hnum
  rw [if_neg hinf]
  by_cases he0 : e = 0
  · rw [if_pos he0]
    subst he0
    have hmax := subnormal_le_maxFinite ht hm
    have hq : m < 2 ^ (t.float.mant + 1) := by rw [Nat.pow_succ]; omega
    have hexp : t.float.emin + ((0 : Nat) : Int) = t.float.emin := Int.add_zero _
    have hcode := encodeNum_exact (neg := neg) (int := int) (rm := rm) (k := 0) ht hq (.inl rfl) (by rwa [hexp])
    rwa [hexp] at hcode
  · rw [if_neg he0]
    obtain ⟨k, rfl⟩ := Nat.exists_eq_succ_of_ne_zero he0
    have hmax := normal_le_maxFinite ht he hm hnan hinf
    have hq : 2 ^ t.float.mant + m < 2 ^ (t.float.mant + 1) := by rw [Nat.pow_succ]; omega
    have hexp : t.float.emin + ((k.succ : Nat) - 1 : Int) = t.float.emin + k := by omega
    rw [hexp, encodeNum_exact ht hq (.inr (Nat.le_add_right ..)) hmax, floatCode, floatCode, Nat.succ_mul]
    omega

end

/-- Settles O29: an integer is its code modulo 2 to the width; a floating code is taken apart into its fields, and its value lies on
the grid of the format, at most at the largest finite value. -/
theorem formatsReencodeTheirCodes : Obligations.FormatsReencodeTheirCodes := by
  unfold Obligations.FormatsReencodeTheirCodes
  intro t code rm int hc hnum
  cases ht : t.isInt with
  | true => exact encodeNum_decodeNum_int ht hc
  | false =>
    obtain ⟨neg, e, m, he, hm, rfl⟩ := exists_floatCode ht hc
    exact encodeNum_decodeNum_float ht he hm hnum

/-! ### E5M2 (R78) -/

/-- R75 with the numbers of E5M2. -/
theorem decodeNum_e5m2 {neg : Bool} {e m : Nat} (he : e < 32) (hm : m < 4) :
    decodeNum .e5m2 ((if neg then 0x80 else 0) + 4 * e + m) =
      if e = 31 then (if m = 0 then .inf neg else .nan) else if e = 0 then .fin neg m (-16) else .fin neg (4 + m) (-16 + (e - 1)) := by
  have hcode : (if neg then 0x80 else 0) + 4 * e + m = floatCode .e5m2 neg e m := by
    rw [floatCode, Nat.add_assoc, Nat.mul_comm]; rfl
  rw [hcode, decodeNum_floatCode rfl he hm]
  exact (if_neg fun h => absurd h.1 (by decide)).trans (ite_congr (propext (and_iff_right rfl)) (fun _ => rfl) fun _ => rfl)

/-- Settles O54: the exponent field is 31, 0 or between, and the exponent of the value counts from −16. -/
theorem e5m2CodesHaveTheirValues : Obligations.E5m2CodesHaveTheirValues := by
  unfold Obligations.E5m2CodesHaveTheirValues
  intro e m he hm neg
  simp only [decodeNum_e5m2 he hm]
  refine ⟨fun h31 => if_pos h31, fun h31 => ?_⟩
  rw [if_neg h31]
  by_cases h0 : e = 0
  · exact ⟨m, -16, by rw [if_pos h0], Int.le_refl _, by rw [if_pos h0]; exact Nat.mul_one m⟩
  · have hexp : (-16 + ((e : Int) - 1) + 16).toNat = e - 1 := by omega
    exact ⟨4 + m, -16 + (e - 1), by rw [if_neg h0], by omega, by rw [hexp, if_neg h0]⟩

end Sys2Proof.Laws
end

section
/-! SUPPORT. Every slot operation decodes from its word to itself, and so do the words that the manual writes out (spec/05 R139 to
R142, R156). -/

namespace Sys2Proof.Laws
open Sys2Proof Sys2Proof.Machine

/-- An event has no word. -/
theorem roundTrip_of_event {i : Instr} (h : slotOf i = none) : RoundTrip.Statement i := by
  intro sl att hs
  rw [h] at hs
  cases hs

/-- Each slot operation by its own round trip, in the order of the slots. -/
theorem roundTrip (i : Instr) : RoundTrip.Statement i := by
  open RoundTrip in
  cases i with
  -- S0 and S1
  | addI64 => apply addI64 | subI64 => apply subI64 | minI64 => apply minI64 | maxI64 => apply maxI64 | addsI64 => apply addsI64
  | minZ64 => apply minZ64 | maxZ64 => apply maxZ64 | addI32 => apply addI32 | subI32 => apply subI32 | minI32 => apply minI32
  | maxI32 => apply maxI32 | addsI32 => apply addsI32 | minZ32 => apply minZ32 | maxZ32 => apply maxZ32
  | and => apply RoundTrip.and | or => apply RoundTrip.or | xor => apply RoundTrip.xor | andn => apply andn | orn => apply orn
  | not => apply RoundTrip.not | shl => apply shl | shr => apply shr | sar => apply sar | ceq => apply ceq | cne => apply cne
  | cltI64 => apply cltI64 | cleI64 => apply cleI64 | cltZ64 => apply cltZ64 | cleZ64 => apply cleZ64 | mul => apply mul
  | mulhI64 => apply mulhI64 | mulhZ64 => apply mulhZ64 | divI64 => apply divI64 | divZ64 => apply divZ64
  | remI64 => apply remI64 | remZ64 => apply remZ64 | divI32 => apply divI32 | divZ32 => apply divZ32 | remI32 => apply remI32
  | remZ32 => apply remZ32 | li => apply li | lis => apply lis | addi => apply addi | andi => apply andi | mov => apply mov
  | clz => apply clz | ctz => apply ctz | popc => apply popc | sext => apply sext | zext => apply zext | cder => apply cder
  | cbnd => apply cbnd | csetoff => apply csetoff | caddoff => apply caddoff | cmov => apply cmov | cchk => apply cchk
  | cget => apply cget | shld => apply shld | shldImg => apply shldImg | shset => apply shset | shget => apply shget
  | pand => apply pand | por => apply por | pxor => apply pxor | pandn => apply pandn | pnot => apply pnot | pmov => apply pmov
  | pset => apply pset | pany => apply pany | pcnt => apply pcnt | rdsr => apply rdsr | wrsr => apply wrsr | bfrd => apply bfrd
  | bfwr => apply bfwr | ldZ8 => apply ldZ8 | ldZ16 => apply ldZ16 | ldZ32 => apply ldZ32 | ldI8 => apply ldI8
  | ldI16 => apply ldI16 | ldI32 => apply ldI32 | ldI64 => apply ldI64 | ldC128 => apply ldC128 | ldNr => apply ldNr
  | stZ8 => apply stZ8 | stZ16 => apply stZ16 | stZ32 => apply stZ32 | stZ64 => apply stZ64 | lds => apply lds
  | ldsC => apply ldsC | sts => apply sts | stsF => apply stsF | drain => apply drain | ldRlx => apply ldRlx
  | ldAcq => apply ldAcq | stRlx => apply stRlx | stRel => apply stRel | atomAdd => apply atomAdd | atomAnd => apply atomAnd
  | atomOr => apply atomOr | atomXor => apply atomXor | atomMinI => apply atomMinI | atomMaxI => apply atomMaxI
  | atomMinZ => apply atomMinZ | atomMaxZ => apply atomMaxZ | atomSwap => apply atomSwap | atomCas => apply atomCas
  | qpushS => apply qpushS
  -- S1 alone
  | brS1 => apply brS1 | brzS1 => apply brzS1 | callS1 => apply callS1
  -- V0 and V1
  | vaddF32 => apply vaddF32 | vsubF32 => apply vsubF32 | vmulF32 => apply vmulF32 | vfmaF32 => apply vfmaF32
  | vminF32 => apply vminF32 | vmaxF32 => apply vmaxF32 | vaddBf16 => apply vaddBf16 | vsubBf16 => apply vsubBf16
  | vmulBf16 => apply vmulBf16 | vfmaBf16 => apply vfmaBf16 | vminBf16 => apply vminBf16 | vmaxBf16 => apply vmaxBf16
  | vabsF32 => apply vabsF32 | vnegF32 => apply vnegF32 | vexp2F32 => apply vexp2F32 | vrcpF32 => apply vrcpF32
  | vrsqrtF32 => apply vrsqrtF32 | vabsBf16 => apply vabsBf16 | vnegBf16 => apply vnegBf16 | vexp2Bf16 => apply vexp2Bf16
  | vrcpBf16 => apply vrcpBf16 | vrsqrtBf16 => apply vrsqrtBf16 | vaddI16 => apply vaddI16 | vsubI16 => apply vsubI16
  | vmulI16 => apply vmulI16 | vminI16 => apply vminI16 | vmaxI16 => apply vmaxI16 | vaddsI16 => apply vaddsI16
  | vsubsI16 => apply vsubsI16 | vaddI32 => apply vaddI32 | vsubI32 => apply vsubI32 | vmulI32 => apply vmulI32
  | vminI32 => apply vminI32 | vmaxI32 => apply vmaxI32 | vaddsI32 => apply vaddsI32 | vsubsI32 => apply vsubsI32
  | vaddZ16 => apply vaddZ16 | vsubZ16 => apply vsubZ16 | vmulZ16 => apply vmulZ16 | vminZ16 => apply vminZ16
  | vmaxZ16 => apply vmaxZ16 | vaddsZ16 => apply vaddsZ16 | vsubsZ16 => apply vsubsZ16 | vaddZ32 => apply vaddZ32
  | vsubZ32 => apply vsubZ32 | vmulZ32 => apply vmulZ32 | vminZ32 => apply vminZ32 | vmaxZ32 => apply vmaxZ32
  | vaddsZ32 => apply vaddsZ32 | vsubsZ32 => apply vsubsZ32 | vand => apply vand | vor => apply vor | vxor => apply vxor
  | vandn => apply vandn | vnot => apply vnot | vshlW16 => apply vshlW16 | vshrW16 => apply vshrW16 | vsarW16 => apply vsarW16
  | vshlW32 => apply vshlW32 | vshrW32 => apply vshrW32 | vsarW32 => apply vsarW32 | vceqF32 => apply vceqF32
  | vcneF32 => apply vcneF32 | vcltF32 => apply vcltF32 | vcleF32 => apply vcleF32 | vcunF32 => apply vcunF32
  | vceqBf16 => apply vceqBf16 | vcneBf16 => apply vcneBf16 | vcltBf16 => apply vcltBf16 | vcleBf16 => apply vcleBf16
  | vcunBf16 => apply vcunBf16 | vceqW16 => apply vceqW16 | vcneW16 => apply vcneW16 | vcltI16 => apply vcltI16
  | vcleI16 => apply vcleI16 | vcltZ16 => apply vcltZ16 | vcleZ16 => apply vcleZ16 | vceqW32 => apply vceqW32
  | vcneW32 => apply vcneW32 | vcltI32 => apply vcltI32 | vcleI32 => apply vcleI32 | vcltZ32 => apply vcltZ32
  | vcleZ32 => apply vcleZ32 | sel => apply sel | perm => apply perm | rot => apply rot | bcast => apply bcast | zip => apply zip
  | unzip => apply unzip | bcastW32 => apply bcastW32 | permW32 => apply permW32 | raddF32 => apply raddF32
  | raddBf16 => apply raddBf16 | raddInt => apply raddInt | rdotF32 => apply rdotF32 | rdotBf16 => apply rdotBf16
  | rmax => apply rmax | rmin => apply rmin | cvt => apply cvt | rcupd => apply rcupd | rcrd => apply rcrd | rcwr => apply rcwr
  | exit => apply exit | recurse => apply recurse | exitC => apply exitC | pack => apply pack | packRc => apply packRc
  | packM => apply packM | unpack => apply unpack | unpackC => apply unpackC | vld => apply vld | vldNr => apply vldNr
  | vst => apply vst | vlds => apply vlds | vldsC => apply vldsC | vsts => apply vsts | vstsF => apply vstsF
  | qpushV => apply qpushV
  -- M
  | mmaBf16 => apply mmaBf16 | mmaBf16Mc => apply mmaBf16Mc | mmaBf16Rop => apply mmaBf16Rop | mmaF16 => apply mmaF16
  | mmaF16Mc => apply mmaF16Mc | mmaF16Rop => apply mmaF16Rop | mmaE4m3 => apply mmaE4m3 | mmaE4m3Mc => apply mmaE4m3Mc
  | mmaE4m3Rop => apply mmaE4m3Rop | mmaE5m2 => apply mmaE5m2 | mmaE5m2Mc => apply mmaE5m2Mc | mmaE5m2Rop => apply mmaE5m2Rop
  | mmaF4x => apply mmaF4x | mmaF4xMc => apply mmaF4xMc | mmaF4xRop => apply mmaF4xRop | azero => apply azero
  | azeroV => apply azeroV | azeroB => apply azeroB | asetx => apply asetx | asetxV => apply asetxV | asetxZ => apply asetxZ
  | asetxZV => apply asetxZV | anorm => apply anorm | anormV => apply anormV | aswap => apply aswap | ardout => apply ardout
  | ardoutS => apply ardoutS | ardoutSf => apply ardoutSf | ascore => apply ascore | ascoreGm => apply ascoreGm
  | avalue => apply avalue | avalueHi => apply avalueHi | smerge => apply smerge | smergeX => apply smergeX
  | smergeI => apply smergeI | mskld => apply mskld | kvapp => apply kvapp
  -- X
  | copy => apply copy | gather => apply gather | scatter => apply scatter | smpl => apply smpl | fst => apply fst
  | fstOf => apply fstOf | fstSp => apply fstSp | fstOfSp => apply fstOfSp | ratomAdd => apply ratomAdd
  | ratomAnd => apply ratomAnd | ratomOr => apply ratomOr | ratomXor => apply ratomXor | ratomMinI64 => apply ratomMinI64
  | ratomMaxI64 => apply ratomMaxI64 | ratomMinZ64 => apply ratomMinZ64 | ratomMaxZ64 => apply ratomMaxZ64 | ackf => apply ackf
  | jopen => apply jopen | jarrive => apply jarrive | jwait => apply jwait | jrule => apply jrule | fillreg => apply fillreg
  | fillregT => apply fillregT | fillregTf => apply fillregTf | fillregTm => apply fillregTm | fillregW => apply fillregW
  | accept => apply accept | ahpush => apply ahpush | ahsel => apply ahsel | mapreq => apply mapreq | wqpop => apply wqpop
  | wqtry => apply wqtry | wqpush => apply wqpush | wqclose => apply wqclose | kvalloc => apply kvalloc | kvgrow => apply kvgrow
  | kvfork => apply kvfork | kvfree => apply kvfree | kvinval => apply kvinval | qpushX => apply qpushX
  -- C
  | brC => apply brC | brzC => apply brzC | callC => apply callC | ret => apply ret | fjmp => apply fjmp | lap => apply lap
  | lapLr => apply lapLr | phase => apply phase | bar => apply bar | wait => apply wait | waitP => apply waitP
  | tend => apply tend | kpoint => apply kpoint | spawn => apply spawn | trap => apply trap | rti => apply rti | srd => apply srd
  | swr => apply swr | ubrd => apply ubrd | ubwr => apply ubwr | lctlPark => apply lctlPark | lctlRes => apply lctlRes
  | lctlAbort => apply lctlAbort | otinv => apply otinv | otinvAll => apply otinvAll | mcall => apply mcall | mans => apply mans
  | erpost => apply erpost
  | _ => exact roundTrip_of_event rfl

/-- Settles O59: by the round trip of each constructor. -/
theorem decodeInvertsEncode : Obligations.DecodeInvertsEncode := by
  unfold Obligations.DecodeInvertsEncode
  exact roundTrip

/-- A word that is the word of an operation decodes to it, on a core that has the operation. -/
theorem decodeSlot_of_encode {i : Instr} {sl : Slot} {att : Bool} {w : W32} (he : encode i = w) (hs : slotOf i = some sl)
    (hwf : i.wf = true) (hatt : i.isAttention = true → att = true) : decodeSlot att sl w = some (some i, false) := by
  subst he
  exact decodeInvertsEncode i sl att hs hwf hatt

/-- The zero word is a nop in every slot. -/
theorem decodeSlot_zero {att : Bool} {sl : Slot} : decodeSlot att sl 0 = some (none, false) := if_pos rfl

/-- Settles O58: each word is the word of its operation, which the round trip gives back. -/
theorem wordsOfTheManualDecode : Obligations.WordsOfTheManualDecode := by
  unfold Obligations.WordsOfTheManualDecode
  refine ⟨?_, ?_, ?_, ?_, ?_, ?_, ?_, ?_, ?_, ?_, fun sl => decodeSlot_zero⟩
  all_goals exact decodeSlot_of_encode (by decide) rfl rfl (by decide)

end Sys2Proof.Laws
end

section
/-! SUPPORT. Every slot operation is issued in its own slot, and one with an operand of an illegal kind takes the illegal-encoding
trap (spec/05 R142, R144, R154). -/

namespace Sys2Proof.Laws
open Sys2Proof Sys2Proof.Machine

/-- An operation in a slot is issued there, with nothing taken for well formed that `Instr.wf` refuses. -/
def IssuedIn (slot : Nat) (i : Instr) (s : State) : Prop :=
  ∃ wf act, (i.wf = false → wf = false) ∧ exec i s = s.issue slot wf act

/-- What is issued though ill formed takes the illegal-encoding trap of its slot. -/
theorem IssuedIn.illFormed {slot : Nat} {i : Instr} {s : State} (h : IssuedIn slot i s) (hwf : i.wf = false) :
    exec i s = .next (s.raise ⟨kIllegal, slot, slot, 0, 0⟩) := by
  obtain ⟨wf, act, himp, hexec⟩ := h
  rw [hexec, himp hwf]
  rfl

/-- A check that comes first decides a conjunction of checks. -/
theorem and_eq_false_of_left {p q : Bool} (h : p = false) : (p && q) = false := by rw [h]; rfl

/-- The last of four checks may come first. -/
theorem and_eq_false_of_last_first {p q r v : Bool} (h : (p && q && r && v) = false) : (v && p && q && r) = false := by
  rw [Bool.and_assoc, Bool.and_assoc, Bool.and_comm, ← Bool.and_assoc]; exact h

/-- atom.cas of s63 names no second data register. -/
theorem cas_illFormed {d : Fin 64} {p : Bool} (h : (p && d.val != 63) = false) :
    (p && (decide (HomeOp.cas ≠ .cas) || (if h : d.val + 1 < 64 then some (⟨d.val + 1, h⟩ : Fin 64) else none).isSome)) = false := by
  by_cases hd : d.val = 63
  · rw [dif_neg (by omega)]
    exact Bool.and_false p
  · rw [bne_iff_ne.mpr hd, Bool.and_true] at h
    exact and_eq_false_of_left h

/-- Every slot operation is issued in its own slot: in that of its scalar or vector unit, or in S1, M, X or C. Atomics and attention
operations check more than their operands' kinds. -/
theorem exec_issued {i : Instr} {sl : Slot} (h : slotOf i = some sl) (s : State) : IssuedIn sl.num i s := by
  cases i with
  | atomCas u =>
    cases h
    cases u <;> exact ⟨_, _, cas_illFormed, rfl⟩
  | atomAdd u | atomAnd u | atomOr u | atomXor u | atomMinI u | atomMaxI u | atomMinZ u | atomMaxZ u | atomSwap u =>
    cases h
    cases u <;> exact ⟨_, _, and_eq_false_of_left, rfl⟩
  | cvt u =>
    cases h
    cases u <;> exact ⟨_, _, and_eq_false_of_last_first, rfl⟩
  | addI64 u | subI64 u | minI64 u | maxI64 u | addsI64 u | minZ64 u | maxZ64 u | addI32 u | subI32 u | minI32 u | maxI32 u
  | addsI32 u | minZ32 u | maxZ32 u | and u | or u | xor u | andn u | orn u | not u | shl u | shr u | sar u | ceq u | cne u
  | cltI64 u | cleI64 u | cltZ64 u | cleZ64 u | mul u | mulhI64 u | mulhZ64 u | divI64 u | divZ64 u | remI64 u | remZ64 u
  | divI32 u | divZ32 u | remI32 u | remZ32 u | li u | lis u | addi u | andi u | mov u | clz u | ctz u | popc u | sext u | zext u
  | cder u | cbnd u | csetoff u | caddoff u | cmov u | cchk u | cget u | shld u | shldImg u | shset u | shget u | pand u | por u
  | pxor u | pandn u | pnot u | pmov u | pset u | pany u | pcnt u | rdsr u | wrsr u | bfrd u | bfwr u | ldZ8 u | ldZ16 u
  | ldZ32 u | ldI8 u | ldI16 u | ldI32 u | ldI64 u | ldC128 u | ldNr u | stZ8 u | stZ16 u | stZ32 u | stZ64 u | lds u | ldsC u
  | sts u | stsF u | drain u | ldRlx u | ldAcq u | stRlx u | stRel u | qpushS u | vaddF32 u | vsubF32 u | vmulF32 u | vfmaF32 u
  | vminF32 u | vmaxF32 u | vaddBf16 u | vsubBf16 u | vmulBf16 u | vfmaBf16 u | vminBf16 u | vmaxBf16 u | vabsF32 u | vnegF32 u
  | vexp2F32 u | vrcpF32 u | vrsqrtF32 u | vabsBf16 u | vnegBf16 u | vexp2Bf16 u | vrcpBf16 u | vrsqrtBf16 u | vaddI16 u
  | vsubI16 u | vmulI16 u | vminI16 u | vmaxI16 u | vaddsI16 u | vsubsI16 u | vaddI32 u | vsubI32 u | vmulI32 u | vminI32 u
  | vmaxI32 u | vaddsI32 u | vsubsI32 u | vaddZ16 u | vsubZ16 u | vmulZ16 u | vminZ16 u | vmaxZ16 u | vaddsZ16 u | vsubsZ16 u
  | vaddZ32 u | vsubZ32 u | vmulZ32 u | vminZ32 u | vmaxZ32 u | vaddsZ32 u | vsubsZ32 u | vand u | vor u | vxor u | vandn u
  | vnot u | vshlW16 u | vshrW16 u | vsarW16 u | vshlW32 u | vshrW32 u | vsarW32 u | vceqF32 u | vcneF32 u | vcltF32 u
  | vcleF32 u | vcunF32 u | vceqBf16 u | vcneBf16 u | vcltBf16 u | vcleBf16 u | vcunBf16 u | vceqW16 u | vcneW16 u | vcltI16 u
  | vcleI16 u | vcltZ16 u | vcleZ16 u | vceqW32 u | vcneW32 u | vcltI32 u | vcleI32 u | vcltZ32 u | vcleZ32 u | sel u | perm u
  | rot u | bcast u | zip u | unzip u | bcastW32 u | permW32 u | raddF32 u | raddBf16 u | raddInt u | rdotF32 u | rdotBf16 u
  | rmax u | rmin u | rcupd u | rcrd u | rcwr u | exit u | recurse u | exitC u | pack u | packRc u | packM u | unpack u
  | unpackC u | vld u | vldNr u | vst u | vlds u | vldsC u | vsts u | vstsF u | qpushV u =>
    cases h
    cases u <;> exact ⟨_, _, id, rfl⟩
  | ascore | ascoreGm | avalue | avalueHi | smerge | smergeX | smergeI | mskld | kvapp =>
    cases h
    exact ⟨_, _, and_eq_false_of_left, rfl⟩
  -- the operations of S1 alone, M, X and C; an event is in no slot
  | _ => cases h <;> exact ⟨_, _, id, rfl⟩

/-- Settles O21: every slot operation is issued in its own slot. -/
theorem illFormedOperationsTrap : Obligations.IllFormedOperationsTrap := by
  unfold Obligations.IllFormedOperationsTrap
  intro s i sl hslot hwf
  exact (exec_issued hslot s).illFormed hwf

end Sys2Proof.Laws
end

section
/-! SUPPORT. Traps at issue: the exception that discards the bundle, and the fields of its record (spec/05 R144, R148, spec/15 R375,
Table 15-4). -/

namespace Sys2Proof.Laws
open Sys2Proof Sys2Proof.Machine

variable {s : State} {t : Trap}

/-- With every earlier operation landed, a trap that leaves no mark of its own is an exception of the machine at the start of the
bundle. -/
theorem raise_landed (hpromise : t.kind ≠ kPromise) (hpoison : t.kind ≠ kPoison)
    (h : s.start.core.landed s.start.xid s.start.ctx = true) :
    (s.raise t).now = ({ s.start with ctx := { s.start.ctx with pageFail := none, remoteFail := none } } : Mach).exception t.kind t.sub
        (trapRecord t s.start.ctx.bank.pc.toNat) ∧
      (s.raise t).iss.trapped = true := by
  unfold State.raise
  simp only [h, if_true, hpromise, hpoison, false_and, if_false, and_self]

/-- With an earlier operation still to land, the bundle is held. -/
theorem raise_unlanded (h : s.start.core.landed s.start.xid s.start.ctx = false) :
    s.raise t = { s with iss := { s.iss with held := true, heldElse := true } } := by
  unfold State.raise
  rw [h]
  exact if_neg Bool.false_ne_true

/-- Table 15-4 as a number. -/
theorem trapRecord_toNat {pc : Nat} (hpromise : t.kind ≠ kPromise) (hkind : t.kind < 32) (hsub : t.sub < 256) (hslot : t.slot < 8)
    (hobj : t.obj < 2 ^ 24) (hdetail : t.detail < 2 ^ 64) (hpc : pc < 2 ^ 64) :
    (trapRecord t pc).toNat =
      t.kind + t.sub * 2 ^ 8 + t.slot * 2 ^ 16 + pc * 2 ^ 64 + t.detail * 2 ^ 128 + t.obj * 2 ^ 192 := by
  unfold trapRecord
  rw [if_neg hpromise, BitVec.toNat_ofNat]
  omega

/-- The fields of the record of a trap. -/
theorem trapRecord_fields {pc : Nat} (hpromise : t.kind ≠ kPromise) (hkind : t.kind < 32) (hsub : t.sub < 256) (hslot : t.slot < 8)
    (hobj : t.obj < 2 ^ 24) (hdetail : t.detail < 2 ^ 64) (hpc : pc < 2 ^ 64) :
    let r := trapRecord t pc
    fld r 0 8 = t.kind ∧ fld r 8 8 = t.sub ∧ fld r 16 3 = t.slot ∧ fld r 64 64 = pc ∧ fld r 128 64 = t.detail ∧
      fld r 192 24 = t.obj := by
  intro r
  unfold fld
  rw [trapRecord_toNat hpromise hkind hsub hslot hobj hdetail hpc]
  and_intros <;> omega

/-- Settles O20: by whether every earlier operation of the context has landed. -/
theorem trapsDiscardTheBundle : Obligations.TrapsDiscardTheBundle := by
  unfold Obligations.TrapsDiscardTheBundle
  intro s t hpromise hpoison
  refine ⟨fun hlanded => ?_, fun hunlanded => ?_⟩
  · obtain ⟨hnow, htrapped⟩ := raise_landed hpromise hpoison hlanded
    exact ⟨hnow, htrapped, fun hkind hsub hslot hobj hdetail =>
      trapRecord_fields hpromise hkind hsub hslot hobj hdetail s.start.ctx.bank.pc.isLt⟩
  · rw [raise_unlanded hunlanded]
    exact ⟨rfl, rfl⟩

end Sys2Proof.Laws
end

section
/-! SUPPORT. Sources as a slot reads them: the register of the view at the start of the bundle, a free value, a trap, or the head of
a queue (spec/05 R143, R146, spec/01 R24, spec/15 R385). -/

namespace Sys2Proof.Laws
open Sys2Proof Sys2Proof.Machine

/-! ### Lanes that hold one code -/

/-- n ones, w bits apart. -/
def onesApart (w : Nat) : Nat → Nat
  | 0 => 0
  | n + 1 => 2 ^ w * onesApart w n + 1

theorem onesApart_mul (w n : Nat) : onesApart w n * (2 ^ w - 1) + 1 = 2 ^ (w * n) := by
  induction n with
  | zero => rw [onesApart, Nat.zero_mul, Nat.mul_zero, Nat.pow_zero]
  | succ n ih =>
    have hpos : 1 ≤ 2 ^ w := Nat.two_pow_pos w
    calc onesApart w (n + 1) * (2 ^ w - 1) + 1
        = 2 ^ w * (onesApart w n * (2 ^ w - 1)) + (2 ^ w - 1 + 1) := by
          rw [onesApart, Nat.add_mul, Nat.one_mul, Nat.mul_assoc, Nat.add_assoc]
      _ = 2 ^ w * (onesApart w n * (2 ^ w - 1) + 1) := by rw [Nat.sub_add_cancel hpos, Nat.mul_succ]
      _ = 2 ^ (w * (n + 1)) := by rw [ih, ← Nat.pow_add, Nat.mul_succ, Nat.add_comm]

/-- The factor by which `splat` copies a code into n lanes of w bits. -/
theorem div_eq_onesApart {w n : Nat} (hw : 0 < w) : (2 ^ (w * n) - 1) / (2 ^ w - 1) = onesApart w n := by
  have hlane : 0 < 2 ^ w - 1 := Nat.sub_pos_of_lt (Nat.one_lt_two_pow (Nat.pos_iff_ne_zero.mp hw))
  rw [← onesApart_mul, Nat.add_sub_cancel, Nat.mul_div_cancel _ hlane]

/-- Copies of a w-bit code, one above the other: each bit is that of the code at its place in the lane. -/
theorem testBit_copies {w c : Nat} (hc : c < 2 ^ w) :
    ∀ n i, i < w * n → (c * onesApart w n).testBit i = c.testBit (i % w) := by
  intro n
  induction n with
  | zero => intro i hi; omega
  | succ n ih =>
    intro i hi
    rw [onesApart, Nat.mul_add, Nat.mul_one, Nat.mul_left_comm, Nat.testBit_two_pow_mul_add _ hc]
    by_cases hlow : i < w
    · rw [if_pos hlow, Nat.mod_eq_of_lt hlow]
    · rw [if_neg hlow, ih (i - w) (by rw [Nat.mul_succ] at hi; omega), ← Nat.mod_eq_sub_mod (by omega)]

/-- Every lane of a splat holds its code. -/
theorem splat_getLsbD {w n c i : Nat} (hw : 0 < w) (hn : w * n = 2048) (hi : i < 2048) :
    (splat w c).getLsbD i = c.testBit (i % w) := by
  unfold splat
  rw [BitVec.getLsbD_ofNat, ← hn, div_eq_onesApart hw, testBit_copies (Nat.mod_lt _ (Nat.two_pow_pos w)) n i (by omega),
    Nat.testBit_mod_two_pow, decide_eq_true (by omega), decide_eq_true (Nat.mod_lt i hw), Bool.true_and, Bool.true_and]

/-- The lanes of each type fill a vector. -/
theorem lanes_fill (t : Ty) : 0 < t.width ∧ t.width * (2048 / t.width) = 2048 := by cases t <;> decide

/-! ### Registers -/

section
variable {s : State} {slot pos spec w : Nat} {r : WReg} {v : BitVec w}

theorem view_clean (hp : s.start.ctx.poison.contains r = false) (ho : s.start.ctx.open s.start.mod.tick r = false) :
    s.view slot pos spec r v = .ok v := by
  unfold State.view; rw [hp, ho]; rfl

theorem view_open (hp : s.start.ctx.poison.contains r = false) (ho : s.start.ctx.open s.start.mod.tick r = true) :
    s.view slot pos spec r v = .ok (Config.undef w s.free slot pos) := by
  unfold State.view; rw [hp, ho]; rfl

theorem view_poisoned (hp : s.start.ctx.poison.contains r = true) :
    s.view slot pos spec r v = .error (.trap ⟨kPoison, 2, slot, spec, 0⟩) := by
  unfold State.view; rw [hp]; rfl

/-- A scalar register read as a vector is in every lane. -/
theorem vector_of_s {n : Fin 64} {t : Ty} (hp : s.start.ctx.poison.contains (.s n) = false)
    (ho : s.start.ctx.open s.start.mod.tick (.s n) = false) :
    s.vector slot pos t (.s n) = .ok (splat t.width s.start.ctx.bank.s[n].toNat) := by
  unfold State.vector
  dsimp only
  rw [view_clean hp ho]; rfl

end

theorem encSrc_s (n : Fin 64) : (encSrc (.s n)).toNat = n.val := by
  rw [encSrc, BitVec.toNat_ofNat]; omega

/-! ### Queues -/

section
variable {s : State} {slot spec : Nat} {q : Fin 8}

theorem head_empty (h : s.start.core.queues[q] = []) : s.head slot spec q = .error .wait := by
  unfold State.head; rw [h]

theorem head_clean {e : QEntry} {l : List QEntry} (h : s.start.core.queues[q] = e :: l) (hp : e.poison = false) :
    s.head slot spec q = .ok e.data := by
  unfold State.head; rw [h]; exact if_neg (Bool.eq_false_iff.mp hp)

/-- A scalar is the low 64 bits of the head, or what stops its reading. -/
theorem scalar_of_q {pos : Nat} :
    s.scalar slot pos (.q q) = (s.head slot (encSrc (.q q)).toNat q).map (·.setWidth 64) := rfl

theorem cap_of_q {pos : Nat} : s.cap slot pos (.q q) = (s.head slot (encSrc (.q q)).toNat q).map (·.setWidth 128) := rfl

end

/-- Settles O8: registers by `State.view` - clean, open, poisoned -, queues by their head. -/
theorem sourcesAreReadFromTheStartOfTheBundle : Obligations.SourcesAreReadFromTheStartOfTheBundle := by
  unfold Obligations.SourcesAreReadFromTheStartOfTheBundle
  intro s slot pos
  refine ⟨fun r hp ho => ?_, fun n hp ho => view_open hp ho, fun n hp => ?_, fun i => rfl, fun q hq => ?_, fun q e es hq he => ?_⟩
  · refine ⟨?_, ?_, ?_, ?_, ?_, ?_⟩
    · rintro n rfl; exact view_clean hp ho
    · rintro n rfl; exact view_clean hp ho
    · rintro n t rfl; exact view_clean hp ho
    · rintro n t rfl
      obtain ⟨hw, hfill⟩ := lanes_fill t
      exact ⟨_, vector_of_s hp ho, fun i hi => splat_getLsbD hw hfill hi⟩
    · rintro n rfl; exact view_clean hp ho
    · rintro n rfl; exact view_clean hp ho
  · refine (view_poisoned hp).trans ?_
    rw [encSrc_s]; rfl
  · rw [scalar_of_q, head_empty hq]; rfl
  · rw [scalar_of_q, cap_of_q, head_clean hq he]
    exact ⟨rfl, rfl, fun t => head_clean hq he⟩

end Sys2Proof.Laws
end

section
/-! SUPPORT. What follows a bundle: NextPc, the delay bundles of a branch, and lap openings (spec/05 R150 to R153, spec/06 R182). -/

namespace Sys2Proof.Laws
open Sys2Proof Sys2Proof.Machine

/-! ### Elements of a vector by number -/

section
variable {α : Type} {n : Nat} {v : Vector α n} {d : α} {i j : Nat} {f : α → α}

/-- An update changes the element that it names, when there is one. -/
theorem vat_vmod (hj : j < n) : vat d (vmod v i f) j = if j = i then f (vat d v i) else vat d v j := by
  unfold vat vmod
  by_cases hi : i < n
  · simp only [hi, hj, dif_pos, Vector.getElem_set, eq_comm]
  · rw [dif_neg hi, if_neg (by omega)]

end

/-! ### NextPc (R153) -/

/-- The level that the innermost loop of a bank stands on. -/
def innerLevel (b : Bank) : LoopLevel := vat ⟨0, 0, false, 0⟩ b.loops (b.depth.toNat - 1)

/-- The offset of the last bundle of the innermost loop. -/
def innerLast (b : Bank) : W64 := (innerLevel b).bstart + 32 * ((innerLevel b).blen.setWidth 64 - 1)

/-- The bank with one taken from the remaining count of its innermost loop. -/
def countDown (b : Bank) : Bank :=
  { b with loops := vmod b.loops (b.depth.toNat - 1) fun l => { l with remain := l.remain - 1 } }

/-- The bank gone on after the innermost loop. -/
def leaveLoop (b : Bank) (last : W64) : Bank := { b with depth := b.depth - 1, pc := last + 32 }

section
variable {b : Bank} {lbc : Nat}

theorem nextPc_outside (h : b.depth = 0) : b.nextPc lbc = { b with pc := b.pc + 32 } := if_pos h

theorem nextPc_leave (h : b.depth ≠ 0) : b.nextPc 1 = leaveLoop b (innerLast b) := if_neg h

theorem nextPc_end (h : b.depth ≠ 0) (h1 : lbc ≠ 1) (hend : lbc = 2 ∨ b.pc = innerLast b) :
    b.nextPc lbc = if (innerLevel b).remain.toNat ≤ 1 then leaveLoop (countDown b) (innerLast b)
      else { countDown b with pc := (innerLevel b).bstart } :=
  (if_neg h).trans ((if_neg h1).trans (if_pos hend))

theorem nextPc_within (h : b.depth ≠ 0) (h1 : lbc ≠ 1) (hend : ¬(lbc = 2 ∨ b.pc = innerLast b)) :
    b.nextPc lbc = { b with pc := b.pc + 32 } :=
  (if_neg h).trans ((if_neg h1).trans (if_neg hend))

end

/-- With no branch, outside delay bundles and with no lap opened, a bundle is followed by NextPc. -/
theorem advance_nextPc {b : Bank} {i : Iss} (hbranch : i.branch = false) (hnext : i.next = none) (hdelay : b.delay = 0) :
    b.advance i = b.nextPc i.lbc := by
  unfold Bank.advance
  rw [hbranch, hdelay, hnext]
  rfl

/-- Settles O53: by the cases of NextPc - no loop, lbc = 1, a bundle that ends a pass, any other. -/
theorem nextPcFollowsItsPseudocode : Obligations.NextPcFollowsItsPseudocode := by
  unfold Obligations.NextPcFollowsItsPseudocode
  intro b i hbranch hnext hdelay
  rw [advance_nextPc hbranch hnext hdelay]
  refine ⟨nextPc_outside, fun hdepth => ?_⟩
  by_cases h1 : i.lbc = 1
  · rw [h1, nextPc_leave hdepth]
    exact ⟨rfl, fun j _ => (if_neg fun h => h.2.1 rfl).symm, fun _ => ⟨rfl, rfl⟩, fun h => absurd rfl h.1, fun h => absurd rfl h.1,
      fun h => absurd rfl h⟩
  by_cases hend : i.lbc = 2 ∨ b.pc = innerLast b
  · have hloops (j : Nat) (hj : j < 4) : vat ⟨0, 0, false, 0⟩ (countDown b).loops j =
        if j = b.depth.toNat - 1 ∧ i.lbc ≠ 1 ∧ (i.lbc = 2 ∨ b.pc = innerLast b)
        then { innerLevel b with remain := (innerLevel b).remain - 1 } else vat ⟨0, 0, false, 0⟩ b.loops j :=
      (vat_vmod hj).trans (ite_congr (by simp only [h1, hend, ne_eq, not_false_eq_true, and_true]) (fun _ => rfl) fun _ => rfl)
    rw [nextPc_end hdepth h1 hend]
    by_cases hlast : (innerLevel b).remain.toNat ≤ 1
    · have hout : ¬((innerLevel b).remain.toNat : Int) - 1 > 0 := by omega
      rw [if_pos hlast]
      exact ⟨rfl, hloops, fun h => absurd h h1, fun _ h => absurd h hout, fun _ _ => ⟨rfl, rfl⟩, fun _ h => absurd ⟨h1, hend⟩ h⟩
    · have hagain : ((innerLevel b).remain.toNat : Int) - 1 > 0 := by omega
      rw [if_neg hlast]
      exact ⟨rfl, hloops, fun h => absurd h h1, fun _ _ => ⟨rfl, rfl⟩, fun _ h => absurd hagain h,
        fun _ h => absurd ⟨h1, hend⟩ h⟩
  · rw [nextPc_within hdepth h1 hend]
    exact ⟨rfl, fun j _ => (if_neg fun h => hend h.2.2).symm, fun h => absurd h h1, fun h => absurd h.2 hend, fun h => absurd h.2 hend,
      fun _ _ => ⟨rfl, rfl⟩⟩

/-! ### Branches (R150) -/

section
variable {b : Bank} {i : Iss}

theorem advance_branch (h : i.branch = true) :
    b.advance i = { b with delay := 2, target := i.taken.getD (b.pc + 96), pc := b.pc + 32 } := if_pos h

theorem advance_delay_first (h : i.branch = false) (hd : b.delay = 2) : b.advance i = { b with delay := 1, pc := b.pc + 32 } := by
  unfold Bank.advance; rw [h, hd]; rfl

theorem advance_delay_last (h : i.branch = false) (hd : b.delay = 1) : b.advance i = { b with delay := 0, pc := b.target } := by
  unfold Bank.advance; rw [h, hd]; rfl

/-- A branch bundle and its two delay bundles. -/
theorem advance_branch_delays {j k : Iss} (hi : i.branch = true) (hj : j.branch = false) (hk : k.branch = false) :
    (b.advance i).pc = b.pc + 32 ∧ ((b.advance i).advance j).pc = b.pc + 64 ∧
      ((b.advance i).advance j).advance k =
        { b with pc := i.taken.getD (b.pc + 96), delay := 0, target := i.taken.getD (b.pc + 96) } := by
  have hpc : b.pc + 32 + 32 = b.pc + 64 := by bv_omega
  rw [advance_branch hi, advance_delay_first hj rfl, advance_delay_last hk rfl]
  exact ⟨rfl, hpc, rfl⟩

end

/-! ### Lap loops (R182) -/

section
variable {s : State} {count len : Nat} {lr : Bool}

theorem lapOpen_full (h : s.start.ctx.bank.depth.toNat = 4) : s.lapOpen count len lr = trapOf 6 kLoopDepth := if_pos h

theorem lapOpen_empty (h : s.start.ctx.bank.depth.toNat < 4) :
    s.lapOpen 0 len lr = .ok (s.onIss fun k => { k with next := some (s.start.ctx.bank.pc + BitVec.ofNat 64 (32 * (len + 2))) }) :=
  if_neg (Nat.ne_of_lt h)

/-- The level that a lap opens. -/
def openedLevel (s : State) (count len : Nat) (lr : Bool) : LoopLevel :=
  ⟨BitVec.ofNat 32 count, BitVec.ofNat 7 (len + 1), lr, s.start.ctx.bank.pc + 32⟩

/-- The machine with that level opened. -/
def withLevel (s : State) (l : LoopLevel) : State :=
  (s.onBank fun b => { b with
    loops := vmod b.loops s.start.ctx.bank.depth.toNat fun _ => l
    depth := s.start.ctx.bank.depth + 1 }).onIss fun i => { i with next := some (s.start.ctx.bank.pc + 32) }

theorem lapOpen_opens (h : s.start.ctx.bank.depth.toNat < 4) (hc : count ≠ 0) :
    s.lapOpen count len lr = .ok (withLevel s (openedLevel s count len lr)) :=
  (if_neg (Nat.ne_of_lt h)).trans (if_neg hc)

theorem withLevel_loops {l : LoopLevel} {k : Nat} (hk : k < 4) : vat ⟨0, 0, false, 0⟩ (withLevel s l).now.ctx.bank.loops k =
    if k = s.start.ctx.bank.depth.toNat then l else vat ⟨0, 0, false, 0⟩ s.now.ctx.bank.loops k :=
  vat_vmod hk

theorem execLap_eq {len : BitVec 6} {a : Src} {x : W64} (ha : a.scalarOk = true) (hx : s.scalar 6 0 a = .ok x) :
    execLap len a s = s.issue 6 true (s.lapOpen (min x.toNat (2 ^ 32 - 1)) len.toNat false) := by
  unfold execLap
  rw [ha, hx]; rfl

theorem execLapLr_eq {len : BitVec 6} (hp : s.start.ctx.poison.contains .lrc = false)
    (ho : s.start.ctx.open s.start.mod.tick .lrc = false) :
    execLapLr len s = s.issue 6 true (s.lapOpen ((s.start.ctx.bank.lrc.toNat + 7) / 8) len.toNat true) := by
  unfold execLapLr
  rw [view_clean hp ho]; rfl

end

/-- Settles O15: a branch and its delay bundles by the cases of `Bank.advance`, and both lap forms by what opening a level answers. -/
theorem branchesLandAfterTwoBundlesAndLoopsOpen : Obligations.BranchesLandAfterTwoBundlesAndLoopsOpen := by
  unfold Obligations.BranchesLandAfterTwoBundlesAndLoopsOpen
  refine ⟨fun b i j k hi hj hk => ?_, fun s len a x ha hx hp ho => ?_⟩
  · obtain ⟨h1, h2, h3⟩ := advance_branch_delays (b := b) hi hj hk
    dsimp only
    rw [h3]
    exact ⟨h1, h2, rfl, rfl, rfl⟩
  · have hlap : exec (.lap len a) s = _ := execLap_eq (len := len) ha hx
    have hlapLr : exec (.lapLr len) s = _ := execLapLr_eq (len := len) hp ho
    refine ⟨fun hdepth i n lr hi => ?_, fun hfull => ?_⟩
    · have hexec : exec i s = s.issue 6 true (s.lapOpen n len.toNat lr) := by
        rcases hi with ⟨rfl, rfl, rfl⟩ | ⟨rfl, rfl, rfl⟩
        · exact hlap
        · exact hlapLr
      rw [hexec]
      refine ⟨fun hn => ?_, fun hn => ?_⟩
      · rw [hn]; exact issue_ok rfl (lapOpen_empty hdepth)
      · exact ⟨_, issue_ok rfl (lapOpen_opens hdepth hn), rfl, rfl, fun k hk => withLevel_loops hk⟩
    · rw [hlap, hlapLr, lapOpen_full hfull, lapOpen_full hfull]
      exact ⟨rfl, rfl⟩

end Sys2Proof.Laws
end

section
/-! SUPPORT. The issue of a bundle of one operation in its core's cycle, and the step around it (spec/05 R134, R143, R153, R154,
spec/01 R17). -/

namespace Sys2Proof.Laws
open Sys2Proof Sys2Proof.Machine

/-! ### The next bundle -/

theorem nextBundle_ok {m : Mach} {bytes : List Byte} {u : Bundle}
    (hfetch : m.mod.fetch m.ctx m.code (m.mod.launch (m.core.launch.getD 0)).record.part m.ctx.saved.isSome m.ctx.bank.pc.toNat = .ok bytes)
    (hdecode : decodeBundle (decide (8 ≤ m.cid / 64)) (BitVec.ofNat 256 (leNat bytes)) = .ok u)
    (hchecks : decodeTrap m.ctx.saved.isSome m.ctx.bank u = none) : m.nextBundle = .ok u := by
  unfold Mach.nextBundle
  dsimp only
  rw [hfetch]
  dsimp only
  rw [hdecode]
  dsimp only
  rw [hchecks]

/-! ### One slot -/

/-- The machine as the only slot of a bundle finds it: the view at the start of the bundle, with the bundle's pops made. -/
def atSlot (s : State) (h : Header) : State :=
  { s with
    now := { s.now with core := s.now.core.popAll h.pop }, start := s.now
    iss := { Iss.idle with pop := h.pop, yield := h.yld, rep := h.rep.toNat, lbc := h.lbc.toNat } }

/-- A slot that neither traps nor holds moves the machine on. -/
theorem slot_acts {r : SlotRun} {i : Instr} {t : State} (h : exec i r.s = .next t) (ht : t.iss.trapped = false) :
    r.slot i = { r with s := t } := by
  unfold SlotRun.slot
  rw [h]
  dsimp only
  rw [ht]; rfl

section
variable {s t : State} {u : Bundle} {sl : Slot} {i : Instr}

/-- A bundle of one operation that nothing stops is issued. -/
theorem runBundle_one (hops : u.ops = [(sl, i)]) (hbefore : s.now.heldBefore u.hdr.pop = false)
    (hheads : s.now.headsMissing u.ops = false) (hpop : s.now.core.badPop u.hdr.pop = none)
    (hexec : exec i (atSlot s u.hdr) = .next t) (hheld : t.iss.held = false) (htrapped : t.iss.trapped = false) :
    s.runBundle u = .issued t := by
  have hrun : u.ops.foldl (fun (r : SlotRun) o => r.slot o.2) ⟨atSlot s u.hdr, none, none⟩ = ⟨t, none, none⟩ := by
    rw [hops]
    exact slot_acts hexec htrapped
  unfold State.runBundle
  extract_lets _ _ r
  have hr : r = ⟨t, none, none⟩ := hrun
  simp only [hr, hbefore, hheads, hheld, hpop, Bool.false_eq_true, or_self, if_false]

/-- Such a bundle is attempted by a context with no fault to deliver: the machine goes on behind it. -/
theorem attempt_issued (hfault : s.now.ctx.firstFault = none) (hnext : s.now.nextBundle = .ok u) (hrun : s.runBundle u = .issued t) :
    s.attempt = { s with now := t.now.afterIssue t.iss s.now.ctx.bank.pc } := by
  have hverdict : s.verdict = .issued t := by
    unfold State.verdict
    rw [hnext]
    exact hrun
  unfold State.attempt
  dsimp only
  rw [hfault, hverdict]

end

/-! ### The cycle of a core -/

section
variable {s : State} {c x : Nat} {k : Core}

/-- The context that issues is the Running one, or the one that the core selects. -/
def IssuingContext (m0 : Mach) (c x : Nat) (m : Mach) : Prop :=
  ((m0.coreAt c).running = some x ∧ m = m0.unload.load c x) ∨
    ((m0.coreAt c).running = none ∧ m0.select c = some x ∧ m = (m0.unload.load c x).run x)

theorem issueCycle_attempts {m : Mach} (h : IssuingContext (s.now.agingHold c) c x m) :
    s.issueCycle c = { State.attempt { s with now := m } with now := (State.attempt { s with now := m }).now.unload } := by
  unfold State.issueCycle
  rcases h with ⟨hrunning, rfl⟩ | ⟨hrunning, hselect, rfl⟩
  · dsimp only; rw [hrunning]
  · dsimp only; rw [hrunning]; dsimp only; rw [hselect]

/-- The second part of the cycle of a core whose launch runs. -/
theorem coreCycle_issues (hacts : s.now.acts c = true) (hruns : ((s.now.pendCycle s.free c).endingCycle c).runs c = true) :
    s.coreCycle 1 c = State.issueCycle { s with now := (s.now.pendCycle s.free c).endingCycle c } c := by
  unfold State.coreCycle
  rw [hacts]
  exact if_pos hruns

theorem advance_core (hcore : s.now.mod.coreFrom (s.turn % 2 ^ 20) = some (c, k)) :
    s.advance = State.rest { s.coreCycle (s.turn / 2 ^ 20) c with turn := turnOf (s.turn / 2 ^ 20) (coreKey (c, k) + 1) } := by
  unfold State.advance
  dsimp only
  rw [hcore]

end

/-- Settles O57: an event by the head of the agenda; a bundle through its fetch and decode, its slot, and what follows it. -/
theorem stepRunsTheDecodedBundle : Obligations.StepRunsTheDecodedBundle := by
  unfold Obligations.StepRunsTheDecodedBundle
  refine ⟨fun s i rest t hagenda hslot hexec => ?_, ?_⟩
  · rw [step_of_agenda_cons hagenda]
    unfold State.event1
    rw [hslot, hexec]
  · intro s c x k m bytes u sl i t hagenda _ hpart hcore hacts b hruns m0 hissues hfault hfetch hdecode hops _ hchecks hbefore hheads
      hpop hexec hheld htrapped
    have hrun : State.runBundle { s with now := m } u = .issued t := runBundle_one hops hbefore hheads hpop hexec hheld htrapped
    have hattempt := attempt_issued (s := { s with now := m }) hfault (nextBundle_ok hfetch hdecode hchecks) hrun
    have hcycle := issueCycle_attempts (s := { s with now := b }) hissues
    rw [step_of_agenda_nil hagenda, advance_core hcore, hpart, coreCycle_issues hacts hruns, hcycle, hattempt]

end Sys2Proof.Laws
end
